-- ==== Sys2Proof/Word.lean ====
section
/-! DEFINITION. The machine's plain word types (spec R5, R8) and two readings of a word that every layer uses. -/

namespace Sys2Proof

/-- One byte of any memory. -/
abbrev Byte := BitVec 8
/-- A 32-bit instruction word, grid cell or single-precision value. -/
abbrev Word := BitVec 32
/-- A 64-bit scalar register. -/
abbrev DWord := BitVec 64
/-- A 56-bit virtual byte address, as both program counters hold it (R209, R283). -/
abbrev VAddr := BitVec 56

/-- `1` for true and `0` for false, at any width. -/
def bit {w : Nat} (b : Bool) : BitVec w := if b then 1 else 0

/-- Sign-extends to 64 bits. -/
def sext64 {w : Nat} (x : BitVec w) : DWord := x.signExtend 64

end Sys2Proof
end

