-- ==== Sys2Proof/Machine/Flags.lean ====
section
/-! DEFINITION. The bits of `%fflags` (R83) and the saturations that set them (R74, R81). -/

namespace Sys2Proof.Machine

/-- The flags of one operation, in the layout of `%fflags` [5:0]. -/
abbrev Flags := BitVec 6
def fNX : Flags := 1
def fUF : Flags := 2
def fOF : Flags := 4
def fDZ : Flags := 8
def fNV : Flags := 16
def fSC : Flags := 32
def flagIf (b : Bool) (f : Flags) : Flags := if b then f else 0

/-- `sat(x, lo, hi)` (R9). -/
def satInt (x lo hi : Int) : Int := if x < lo then lo else if hi < x then hi else x
/-- The range of an integer format of `w` bits. -/
def intLo (w : Nat) (sgn : Bool) : Int := if sgn then -(2 ^ (w - 1) : Nat) else 0
def intHi (w : Nat) (sgn : Bool) : Int := if sgn then (2 ^ (w - 1) : Nat) - 1 else (2 ^ w : Nat) - 1

/-- The signed value of the low `w` bits. -/
def toS (w v : Nat) : Int := if v % 2 ^ w < 2 ^ (w - 1) then ((v % 2 ^ w : Nat) : Int) else ((v % 2 ^ w : Nat) : Int) - (2 ^ w : Nat)
/-- The low `w` bits of an integer. -/
def ofS (w : Nat) (x : Int) : Nat := (x % (2 ^ w : Nat)).toNat

end Sys2Proof.Machine
end

