-- ==== Sys2Proof/Machine/Float.lean ====
section
/-! DEFINITION. Number formats and arithmetic (R65 to R92): codes to exact values, one rounding of an exact value (R75 to
R80), the float operations with their flags (R83 to R85), the grid sums (R86 to R88), the tree of reductions (R90), the
generator (R92), and the functions of R301 computed to 256 fraction bits before their one rounding (log 12). -/

namespace Sys2Proof.Machine

/-- The shape of a float format (R67). -/
structure FFmt where
  eb : Nat
  mb : Nat
  bias : Nat
  /-- 0: infinities and NaNs at the top exponent; 1: E4M3; 2: E2M1 -/
  style : Nat
  deriving DecidableEq, Repr

def f32 : FFmt := ⟨8, 23, 127, 0⟩
def bf16 : FFmt := ⟨8, 7, 127, 0⟩
def f16 : FFmt := ⟨5, 10, 15, 0⟩
def e5m2 : FFmt := ⟨5, 2, 15, 0⟩
def e4m3 : FFmt := ⟨4, 3, 7, 1⟩
def e2m1 : FFmt := ⟨2, 1, 1, 2⟩

/-- The float format of a code of R65, the block-scaled ones under their element format. -/
def fmtFloat (c : BitVec 4) : Option FFmt :=
  match c.toNat with
  | 0 => some f32 | 1 => some bf16 | 2 => some f16 | 3 => some e5m2 | 4 => some e4m3 | 5 => some e2m1
  | 6 => some e4m3 | 7 => some e5m2 | 8 => some e2m1 | _ => none
/-- The width of a code's elements in bits (R65). -/
def fmtBits (c : BitVec 4) : Nat :=
  match c.toNat with
  | 0 => 32 | 1 => 16 | 2 => 16 | 3 => 8 | 4 => 8 | 5 => 4 | 6 => 8 | 7 => 8 | 8 => 4
  | 9 => 8 | 10 => 16 | 11 => 32 | 12 => 8 | 13 => 16 | 14 => 32 | _ => 4
def fmtScaled (c : BitVec 4) : Bool := c == 6 || c == 7 || c == 8
/-- Whether an integer code is signed. -/
def fmtSigned (c : BitVec 4) : Bool := c == 9 || c == 10 || c == 11 || c == 15

/-- A value: NaN, an infinity, or (−1)^neg × m × 2^e exactly. -/
inductive FVal where
  | nan
  | inf (neg : Bool)
  | fin (neg : Bool) (m : Nat) (e : Int)
  deriving DecidableEq, Repr

def FFmt.width (f : FFmt) : Nat := 1 + f.eb + f.mb
/-- The magnitude code of the largest finite value. -/
def FFmt.maxCode (f : FFmt) : Nat := if f.style = 0 then (2 ^ f.eb - 1) * 2 ^ f.mb - 1 else if f.style = 1 then 2 ^ (f.eb + f.mb) - 2 else 2 ^ (f.eb + f.mb) - 1
def FFmt.infCode (f : FFmt) : Nat := (2 ^ f.eb - 1) * 2 ^ f.mb
/-- The canonical NaN (R67); 0 for E2M1, which has none. -/
def FFmt.nanCode (f : FFmt) : Nat :=
  if f.style = 0 then (2 ^ f.eb - 1) * 2 ^ f.mb + 2 ^ (f.mb - 1) else if f.style = 1 then 2 ^ (f.eb + f.mb) - 1 else 0
def FFmt.signBit (f : FFmt) (neg : Bool) : Nat := if neg then 2 ^ (f.eb + f.mb) else 0
def FFmt.neg (f : FFmt) (c : Nat) : Bool := c / 2 ^ (f.eb + f.mb) % 2 == 1

/-- The value of a code (R68). -/
def FFmt.val (f : FFmt) (c : Nat) : FVal :=
  let neg := f.neg c
  let mag := c % 2 ^ (f.eb + f.mb)
  let e := mag / 2 ^ f.mb
  let m := mag % 2 ^ f.mb
  if f.style = 0 ∧ e = 2 ^ f.eb - 1 then (if m = 0 then .inf neg else .nan)
  else if f.style = 1 ∧ mag = 2 ^ (f.eb + f.mb) - 1 then .nan
  else if e = 0 then .fin neg m (1 - (f.bias : Int) - f.mb)
  else .fin neg (2 ^ f.mb + m) ((e : Int) - f.bias - f.mb)

/-- A magnitude as an exact ratio, for rounding. -/
structure Ratio where
  num : Nat
  den : Nat
  deriving DecidableEq, Repr
def ratOf (m : Nat) (e : Int) : Ratio := if 0 ≤ e then ⟨m * 2 ^ e.toNat, 1⟩ else ⟨m, 2 ^ (-e).toNat⟩
def Ratio.scale (r : Ratio) (q : Int) : Ratio := if 0 ≤ q then ⟨r.num, r.den * 2 ^ q.toNat⟩ else ⟨r.num * 2 ^ (-q).toNat, r.den⟩

/-- floor(log2) of a positive ratio. -/
def Ratio.log2 (r : Ratio) : Int :=
  let g : Int := (Nat.log2 r.num : Int) - Nat.log2 r.den
  let s := r.scale g
  if s.num < s.den then g - 1 else g

/-- One rounding to an integer of `num / den` under a mode (R75, R77); `draw` serves STO. -/
def rndInt (mode : Nat) (neg : Bool) (draw num den : Nat) : Nat :=
  let k := num / den
  let r := num % den
  if r = 0 then k
  else match mode with
    | 0 => if den < 2 * r ∨ (2 * r = den ∧ k % 2 = 1) then k + 1 else k
    | 1 => k
    | 2 => if neg then k + 1 else k
    | 3 => if neg then k else k + 1
    | _ => if draw < r * 2 ^ 32 / den then k + 1 else k

/-- Rounds a positive exact magnitude (R76, R77, R79, R80): the code without its sign and the flags. -/
def roundMag (f : FFmt) (sat : Bool) (mode : Nat) (draw : Nat) (neg : Bool) (x : Ratio) : Nat × Flags :=
  let emin : Int := 1 - (f.bias : Int)
  let e := x.log2
  let q0 := e - f.mb
  let s0 := x.scale q0
  let k0 := rndInt mode neg draw s0.num s0.den
  let big := match f.val f.maxCode with | .fin _ m q => decide (m * 2 ^ (q - q0).toNat < k0 * 2 ^ (q0 - q).toNat) | _ => false
  if big then
    let toInf := !sat && f.style == 0 && (mode == 0 || decide (4 ≤ mode) || (mode == 2 && neg) || (mode == 3 && !neg))
    (if toInf then f.infCode else f.maxCode, fOF ||| fNX)
  else
    let q1 := if e < emin then emin - f.mb else q0
    let s1 := x.scale q1
    let k1 := rndInt mode neg draw s1.num s1.den
    let nx := s1.num % s1.den ≠ 0
    -- tiny: the value rounded with the exponent unbounded lies below the smallest normal
    let tiny := decide (e < emin) && decide (k0 * 2 ^ (q0 - (emin - 200 - f.mb)).toNat < 2 ^ (emin - (emin - 200 - f.mb)).toNat)
    let tiny := tiny || decide (e < emin - 150)
    (((q1 + f.mb + f.bias).toNat * 2 ^ f.mb + k1) - 2 ^ f.mb, (if nx then fNX else 0) ||| (if nx ∧ tiny = true then fUF else 0))

/-- `convert` and `convert_sat` of an exact value (R79, R80). -/
def fconv (f : FFmt) (sat : Bool) (mode draw : Nat) : FVal → Nat × Flags
  | .nan => (f.nanCode, fNV)
  | .inf neg =>
    if f.style = 0 ∧ sat = false then (f.signBit neg + f.infCode, 0)
    else if f.style = 1 ∧ sat = false then (f.nanCode, fNV)
    else (f.signBit neg + f.maxCode, fNV)
  | .fin neg m e =>
    if m = 0 then (f.signBit neg, 0)
    else
      let (c, fl) := roundMag f sat mode draw neg (ratOf m e)
      (f.signBit neg + c, fl)

/-- The result of arithmetic: a NaN sets no flag of its own here (R85). -/
def fres (f : FFmt) (v : FVal) : Nat × Flags :=
  match v with
  | .nan => (f.nanCode, 0)
  | _ => fconv f false 0 0 v

def fvNeg : FVal → FVal
  | .nan => .nan
  | .inf n => .inf !n
  | .fin n m e => .fin (!n) m e
def fvIsNan : FVal → Bool
  | .nan => true
  | _ => false
def fvSignedInt (neg : Bool) (m : Nat) : Int := if neg then -(m : Int) else m

/-- The exact sum of two values, with `nv` on ∞ − ∞ (R76, R85). -/
def fvAdd (a b : FVal) : FVal × Flags :=
  match a, b with
  | .inf x, .inf y => if x = y then (.inf x, 0) else (.nan, fNV)
  | .nan, _ => (.nan, 0)
  | _, .nan => (.nan, 0)
  | .inf x, _ => (.inf x, 0)
  | _, .inf y => (.inf y, 0)
  | .fin n1 m1 e1, .fin n2 m2 e2 =>
    let e := min e1 e2
    let i := fvSignedInt n1 (m1 * 2 ^ (e1 - e).toNat) + fvSignedInt n2 (m2 * 2 ^ (e2 - e).toNat)
    if i = 0 then (.fin (n1 && n2 && m1 == 0 && m2 == 0) 0 0, 0) else (.fin (decide (i < 0)) i.natAbs e, 0)

/-- The exact product, with `nv` on 0 × ∞ (R76, R85). -/
def fvMul (a b : FVal) : FVal × Flags :=
  match a, b with
  | .inf x, .fin n m _ => if m = 0 then (.nan, fNV) else (.inf (x != n), 0)
  | .fin n m _, .inf x => if m = 0 then (.nan, fNV) else (.inf (x != n), 0)
  | .nan, _ => (.nan, 0)
  | _, .nan => (.nan, 0)
  | .inf x, .inf y => (.inf (x != y), 0)
  | .fin n1 m1 e1, .fin n2 m2 e2 => (.fin (n1 != n2) (m1 * m2) (e1 + e2), 0)

def fAdd (f : FFmt) (a b : Nat) : Nat × Flags :=
  let (v, g) := fvAdd (f.val a) (f.val b)
  let (c, h) := fres f v
  (c, g ||| h)
def fSub (f : FFmt) (a b : Nat) : Nat × Flags :=
  let (v, g) := fvAdd (f.val a) (fvNeg (f.val b))
  let (c, h) := fres f v
  (c, g ||| h)
def fMul (f : FFmt) (a b : Nat) : Nat × Flags :=
  let (v, g) := fvMul (f.val a) (f.val b)
  let (c, h) := fres f v
  (c, g ||| h)
/-- Fused multiply-add, rounded once (R85). -/
def fFma (f : FFmt) (a b d : Nat) : Nat × Flags :=
  let (p, g) := fvMul (f.val a) (f.val b)
  let (v, g2) := fvAdd p (f.val d)
  let (c, h) := fres f v
  (c, g ||| g2 ||| h)

/-- The order of two numbers, −0 below +0 where `strict` (R85). -/
def fvLt (strict : Bool) (a b : FVal) : Bool :=
  match a, b with
  | .nan, _ => false
  | _, .nan => false
  | .inf x, .inf y => x && !y
  | .inf x, _ => x
  | _, .inf y => !y
  | .fin n1 m1 e1, .fin n2 m2 e2 =>
    let e := min e1 e2
    let i := fvSignedInt n1 (m1 * 2 ^ (e1 - e).toNat)
    let j := fvSignedInt n2 (m2 * 2 ^ (e2 - e).toNat)
    decide (i < j) || (strict && i == 0 && j == 0 && n1 && !n2)
/-- Equality, with −0 equal to +0. -/
def fvEq (a b : FVal) : Bool := !fvIsNan a && !fvIsNan b && !fvLt false a b && !fvLt false b a

/-- Minimum and maximum (R85): no flag. -/
def fMinMax (f : FFmt) (mx : Bool) (a b : Nat) : Nat :=
  let x := f.val a; let y := f.val b
  if fvIsNan x then (if fvIsNan y then f.nanCode else b)
  else if fvIsNan y then a
  else if mx then (if fvLt true x y then b else a) else (if fvLt true y x then b else a)

/-- Float compares (R217, R304): 0 eq, 1 lt, 2 le, 3 ne; `lt` and `le` set `nv` on a NaN. -/
def fCmp (f : FFmt) (rel : Nat) (a b : Nat) : Bool × Flags :=
  let x := f.val a; let y := f.val b
  let n := fvIsNan x || fvIsNan y
  match rel with
  | 0 => (fvEq x y, 0)
  | 1 => (fvLt false x y, flagIf n fNV)
  | 2 => (fvLt false x y || fvEq x y, flagIf n fNV)
  | _ => (!fvEq x y, 0)

/-- A float value to an integer format of `w` bits (R81). -/
def fToInt (w : Nat) (sgn : Bool) (mode draw : Nat) (v : FVal) : Nat × Flags :=
  match v with
  | .nan => (0, fNV)
  | .inf neg => (ofS w (if neg then intLo w sgn else intHi w sgn), fNV)
  | .fin neg m e =>
    let r := ratOf m e
    let k := rndInt mode neg draw r.num r.den
    let i := fvSignedInt neg k
    let s := satInt i (intLo w sgn) (intHi w sgn)
    (ofS w s, if s ≠ i then fNV else if r.num % r.den ≠ 0 then fNX else 0)
/-- An integer to a float format (R82). -/
def fOfInt (f : FFmt) (mode draw : Nat) (i : Int) : Nat × Flags := fconv f false mode draw (.fin (decide (i < 0)) i.natAbs 0)

/-- The value of an element of a code (R65, R71), a scale byte given for the block-scaled ones (R73). -/
def elemVal (fmt : BitVec 4) (scale : Nat) (c : Nat) : FVal :=
  match fmtFloat fmt with
  | some f =>
    match f.val c with
    | .fin n m e => if fmtScaled fmt then (if scale = 255 then .nan else .fin n m (e + scale - 127)) else .fin n m e
    | .inf n => if fmtScaled fmt && scale == 255 then .nan else .inf n
    | .nan => .nan
  | none =>
    let i := if fmtSigned fmt then toS (fmtBits fmt) c else ((c % 2 ^ fmtBits fmt : Nat) : Int)
    .fin (decide (i < 0)) i.natAbs 0

/-! ### Block scales (R74, R170) -/

/-- The largest finite magnitude of a quantisation target, 127 for I8. -/
def fitMax (fmt : BitVec 4) : Nat × Int :=
  match fmtFloat fmt with
  | some f => match f.val f.maxCode with | .fin _ m e => (m, e) | _ => (1, 0)
  | none => (127, 0)
/-- `fit_exp(m, fmt)`: the smallest e with m × 2^−e ≤ largest; 0 for 0. -/
def fitExp (fmt : BitVec 4) (m : Nat) (e : Int) : Int :=
  if m = 0 then 0
  else
    let (lm, le) := fitMax fmt
    -- m·2^e ≤ lm·2^le·2^x: compare at the exponent that aligns the leading bits
    let x0 : Int := (Nat.log2 m : Int) + e - (Nat.log2 lm : Int) - le
    let sh : Int := e - le - x0
    let a := if 0 ≤ sh then m * 2 ^ sh.toNat else m
    let b := if 0 ≤ sh then lm else lm * 2 ^ (-sh).toNat
    if a ≤ b then x0 else x0 + 1

/-! ### Grid sums (R86, R88) -/

/-- The exact sum of the terms of a cell, rounded once; `of` and `nv` only. Each product comes with its own flags. -/
def gridSum (old : Nat) (prods : List (FVal × Flags)) : Nat × Flags :=
  let terms := f32.val old :: prods.map (·.1)
  let nv := prods.any (fun p => p.2 != 0)
  let pinf := terms.contains (.inf false)
  let ninf := terms.contains (.inf true)
  let fl := flagIf (nv || (pinf && ninf)) fNV
  if terms.any fvIsNan || (pinf && ninf) then (f32.nanCode, fl)
  else if pinf then (f32.infCode, fl)
  else if ninf then (f32.signBit true + f32.infCode, fl)
  else
    let v := match terms with | t :: ts => ts.foldl (fun a b => (fvAdd a b).1) t | [] => .fin false 0 0
    -- an exact zero sum is −0 only when every addend is −0 (R76)
    let allNegZero := terms.all fun t => match t with | .fin n m _ => n && m == 0 | _ => false
    let v := match v with | .fin _ 0 _ => .fin allNegZero 0 0 | x => x
    let (c, g) := fres f32 v
    (c, fl ||| (g &&& fOF))
/-- The integer update of a cell (R88). -/
def gridInt (old : Nat) (prods : List Int) : Nat := ofS 32 (toS 32 old + prods.foldl (· + ·) 0)

/-! ### Reductions and the generator -/

/-- One level of the tree of R90 over positions, `none` an empty one. -/
def treeLevel {α : Type} (comb : α → α → α) : List (Option α) → List (Option α)
  | [] => []
  | [x] => [x]
  | x :: y :: t =>
    (match x, y with
     | some a, some b => some (comb a b)
     | some a, none => some a
     | none, y => y) :: treeLevel comb t
/-- The tree of R90; none when every position is empty. -/
def treeRed {α : Type} (comb : α → α → α) : Nat → List (Option α) → Option α
  | 0, l => l.head?.join
  | k + 1, l => if l.length ≤ 1 then l.head?.join else treeRed comb k (treeLevel comb l)
/-- 14 levels serve the 12,288 elements of the largest vector. -/
def treeReduce {α : Type} (comb : α → α → α) (l : List (Option α)) : Option α := treeRed comb 14 l

/-- `rng(key, ctr)` (R92). -/
def rng (key ctr : DWord) : BitVec 32 :=
  let z := ctr + key * 0x9E3779B97F4A7C15
  let z := (z ^^^ (z >>> 30)) * 0xBF58476D1CE4E5B9
  let z := (z ^^^ (z >>> 27)) * 0x94D049BB133111EB
  let z := z ^^^ (z >>> 31)
  z.extractLsb' 0 32

/-! ### The functions of R301 -/

/-- Integer square root by digits: `k` result bits are decided from the top. -/
def isqrtAux (n : Nat) : Nat → Nat → Nat
  | 0, r => r
  | k + 1, r => let t := r + 2 ^ k; isqrtAux n k (if t * t ≤ n then t else r)
def isqrt (n : Nat) : Nat := isqrtAux n (Nat.log2 n / 2 + 1) 0

/-- √(num/den) with 200 or more exact bits; an inexact root is set strictly between its neighbours. -/
def sqrtRatio (x : Ratio) : Ratio :=
  let t := 200 + (Nat.log2 x.den + 1)
  let n := x.num * 2 ^ (2 * t) / x.den
  let r := isqrt n
  if r * r = n ∧ x.num * 2 ^ (2 * t) % x.den = 0 then ⟨r, 2 ^ t⟩ else ⟨2 * r + 1, 2 ^ (t + 1)⟩

/-- Fraction bits of the series. -/
def fixP : Nat := 256
/-- Σ x^k / k! from the term `t` on, in fixed point. -/
def expSeries (x : Nat) : Nat → Nat → Nat → Nat
  | 0, _, _ => 0
  | k + 1, n, t => t + expSeries x k (n + 1) (t * x / 2 ^ fixP / n)
/-- e^x for 0 ≤ x < 1 in fixed point. -/
def expFix (x : Nat) : Nat := expSeries x 90 1 (2 ^ fixP)
/-- Σ z^(2k+1) / (2k+1) in fixed point. -/
def atanhSeries (zz : Nat) : Nat → Nat → Nat → Nat
  | 0, _, _ => 0
  | k + 1, n, t => t / n + atanhSeries zz k (n + 2) (t * zz / 2 ^ fixP)
/-- ln(a/b) for 1 ≤ a/b < 2 in fixed point. -/
def lnFix (a b : Nat) : Nat :=
  let z := (a - b) * 2 ^ fixP / (a + b)
  2 * atanhSeries (z * z / 2 ^ fixP) 90 1 z
/-- ln 2 = 2 atanh(1/3). -/
def ln2Fix : Nat := 2 * atanhSeries (2 ^ fixP / 9) 90 1 (2 ^ fixP / 3)

/-- e^(±num/den) as a ratio, its argument below 2^10. -/
def expRatio (neg : Bool) (x : Ratio) : Ratio :=
  let y := x.num * 2 ^ fixP / x.den
  let n := y / ln2Fix
  let r := expFix (y - n * ln2Fix)
  if neg then ⟨2 ^ fixP, r * 2 ^ n⟩ else ⟨r * 2 ^ n, 2 ^ fixP⟩
/-- 2^(±num/den). -/
def exp2Ratio (neg : Bool) (x : Ratio) : Ratio :=
  let n := x.num / x.den
  let f := (x.num % x.den) * 2 ^ fixP / x.den
  let r := expFix (f * ln2Fix / 2 ^ fixP)
  if neg then ⟨2 ^ fixP, r * 2 ^ n⟩ else ⟨r * 2 ^ n, 2 ^ fixP⟩

def Ratio.mul (a b : Ratio) : Ratio := ⟨a.num * b.num, a.den * b.den⟩
/-- Just below 1, and just above 0: where a function is within 2^−300 of its limit. -/
def nearOne : Ratio := ⟨2 ^ 300 - 1, 2 ^ 300⟩
def nearZero : Ratio := ⟨1, 2 ^ 300⟩
def ratBig (x : Ratio) (n : Nat) : Bool := decide (n * x.den < x.num)

/-- 1 / (1 + e^−x) for a positive or negated argument. -/
def sigRatio (neg : Bool) (x : Ratio) : Ratio :=
  if ratBig x 200 then (if neg then nearZero else nearOne)
  else
    let t := expRatio true x      -- e^−|x|
    if neg then ⟨t.num, t.den + t.num⟩ else ⟨t.den, t.den + t.num⟩

/-- The magnitude of tanh. -/
def tanhRatio (x : Ratio) : Ratio :=
  if ratBig x 200 then nearOne
  else if x.num * 2 ^ 60 < x.den then x.mul ⟨2 ^ 130 - 1, 2 ^ 130⟩
  else let t := expRatio false ⟨2 * x.num, x.den⟩; ⟨t.num - t.den, t.num + t.den⟩

/-- The functions of R301. -/
inductive TFn where
  | rcp | rsqrt | sqrt | exp2 | log2 | sig | tanh | silu
  deriving DecidableEq, Repr

/-- Rounds a signed exact ratio under RNE. -/
def roundRat (f : FFmt) (neg : Bool) (r : Ratio) : Nat × Flags :=
  if r.num = 0 then (f.signBit neg, 0)
  else let (c, fl) := roundMag f false 0 0 neg r; (f.signBit neg + c, fl)

/-- log2 of a positive finite value: the sign and the magnitude. -/
def log2Ratio (x : Ratio) : Bool × Ratio :=
  let e := x.log2
  let y := x.scale e
  let l : Int := (lnFix y.num y.den * 2 ^ fixP / ln2Fix : Nat)
  let v : Int := e * (2 ^ fixP : Nat) + (if y.num = y.den then 0 else l)
  (decide (v < 0), ⟨v.natAbs, 2 ^ fixP⟩)

/-- The special inputs and the rounded value of a function (R301). -/
def transc (fn : TFn) (f : FFmt) (c : Nat) : Nat × Flags :=
  let one := f.bias * 2 ^ f.mb
  let inf (n : Bool) := f.signBit n + f.infCode
  match f.val c with
  | .nan => (f.nanCode, 0)
  | .inf neg =>
    match fn with
    | .rcp => (f.signBit neg, 0)
    | .rsqrt => if neg then (f.nanCode, fNV) else (0, 0)
    | .sqrt => if neg then (f.nanCode, fNV) else (inf false, 0)
    | .exp2 => if neg then (0, 0) else (inf false, 0)
    | .log2 => if neg then (f.nanCode, fNV) else (inf false, 0)
    | .sig => if neg then (0, 0) else (one, 0)
    | .tanh => (f.signBit neg + one, 0)
    | .silu => if neg then (f.signBit true, 0) else (inf false, 0)
  | .fin neg m e =>
    if m = 0 then
      match fn with
      | .rcp => (inf neg, fDZ)
      | .rsqrt => (inf neg, fDZ)
      | .sqrt => (f.signBit neg, 0)
      | .exp2 => (one, 0)
      | .log2 => (inf true, 0)
      | .sig => (one - 2 ^ f.mb, 0)
      | .tanh => (f.signBit neg, 0)
      | .silu => (f.signBit neg, 0)
    else
      let x := ratOf m e
      match fn with
      | .rcp => roundRat f neg ⟨x.den, x.num⟩
      | .rsqrt => if neg then (f.nanCode, fNV) else roundRat f false (sqrtRatio ⟨x.den, x.num⟩)
      | .sqrt => if neg then (f.nanCode, fNV) else roundRat f false (sqrtRatio x)
      | .exp2 => roundRat f false (if ratBig x 1000 then (if neg then ⟨1, 2 ^ 1001⟩ else ⟨2 ^ 1001, 1⟩) else exp2Ratio neg x)
      | .log2 => if neg then (f.nanCode, fNV) else let (n, r) := log2Ratio x; roundRat f n r
      | .sig => roundRat f false (sigRatio neg x)
      | .tanh => roundRat f neg (tanhRatio x)
      | .silu => roundRat f neg (x.mul (sigRatio neg x))

end Sys2Proof.Machine
end

