-- ==== Sys2Proof/Syntax.lean ====
section
/-! DEFINITION. The instructions of both streams and the events of the module: one constructor of `Instr`
for every row of spec/opcode_table.json (R174 to R192 for the encoded ones). Halyard nibbles (R12) are `h`. -/

namespace Sys2Proof

/-- A scalar register number (R175). -/
abbrev Reg := BitVec 6
/-- The halyard nibble: bit 3 WB, bit 2 WA, bit 1 SB, bit 0 SA (R12, R50). -/
abbrev Hal := BitVec 4

/-- A grid view named by its kind and index (R96, R179). -/
inductive View where
  | row (i : BitVec 8)
  | col (i : BitVec 9)
  | diag (i : BitVec 9)
  deriving DecidableEq, Repr

/-- An operand specifier of the V-stream (R179). -/
inductive Spec where
  | view (v : View)
  | ereg (n : BitVec 4)
  | port (n : BitVec 4)
  | absent
  | imm (v : BitVec 8)
  deriving DecidableEq, Repr

/-- A mask operand: a view group and its polarity; `inv` is `?~` (R103, R178). -/
structure Mask where
  view : View
  inv : Bool
  deriving DecidableEq, Repr

/-- The fields every V-stream instruction has (R178). -/
structure VF where
  h : Hal
  d : Spec
  mask : Option Mask
  a : Spec
  b : Spec
  maskAgn : Bool
  tailAgn : Bool
  ce : Bool
  deriving DecidableEq, Repr

/-- The ordering fields of major 0x27 (R190). -/
structure MemOrd where
  scope : BitVec 3
  aq : Bool
  rl : Bool
  space : BitVec 2
  size : BitVec 2
  off : BitVec 9
  deriving DecidableEq, Repr

/-- The body of every copy instruction (R268). -/
structure CopyF where
  pt : BitVec 5
  c1 : BitVec 5
  c2 : BitVec 5
  c3 : BitVec 5
  scope : BitVec 3
  dsp : BitVec 2
  ssp : BitVec 2
  rb : Bool
  deriving DecidableEq, Repr

/-- A source of a `qfill` side (R258). -/
inductive QSrc where
  | stream (n : BitVec 4)
  | rank (r : BitVec 5)
  deriving DecidableEq, Repr

/-- What a checker found when it compared a recomputation (R431, R432, R435). -/
inductive Check where
  | ok
  /-- the recomputation agreed the second time -/
  | corrected
  /-- a second mismatch, operand parity bad: cause 0x07 -/
  | parityFail
  /-- a second mismatch, operand parity good: cause 0x0D -/
  | parityPass
  deriving DecidableEq, Repr

/-- A parity error of an operand-queue entry that an update pops (R436): the queue (`qb` or `qa`), the entry among those popped,
whether a scale byte, and its position in the entry. -/
structure Upset where
  sideB : Bool
  entry : Nat
  scale : Bool
  pos : Nat
  deriving DecidableEq, Repr

/-- An outcome of the vector engine's own checks (R430 to R433): the member of the convoy, the element group, and how the check
ends. A scalar member has no groups. -/
structure VCheck where
  mem : Nat
  grp : Nat
  out : Check
  deriving DecidableEq, Repr

/-- An update that a core's grid engine issues, with the parity errors of the entries it pops (R436). -/
structure UpdIssue where
  core : Nat
  ups : List Upset
  deriving DecidableEq, Repr

/-- A flit that a port sends, with whether its CRC fails (R459). -/
structure Flit where
  port : Nat
  bad : Bool
  deriving DecidableEq, Repr

/-- How a command processor starts a core: where, whether in supervisor code, and the registers it gives it (R354, R370, R475). -/
structure CoreStart where
  pc : VAddr
  sup : Bool
  regs : List (Reg × DWord)
  deriving DecidableEq, Repr

/-- Why a gang is stopped (R410, R415, R486): the save reasons 1 to 4, cancellation, a thermal stop, and the end of a
faulted task (R370). -/
inductive StopWhy where
  | budget | deadline | reservation | ctxsave | cancel | thermal | faulted
  deriving DecidableEq, Repr

/-- What a memory controller or its command processor does beside requests (R387, R390 to R393): an uncorrectable error in a
sector, a corrected one, an uncorrectable error in an 8-byte TCM word or a 32-byte scratchpad word, a failed controller that
firmware resets, and quarantined frames whose entries the command processor frees. Controllers are numbered 2 × die + stack for
HBM, 8 + die for shared SRAM. -/
inductive MemEvent where
  | sector (pa : BitVec 52)
  | corrected (pa : BitVec 52)
  | tcmWord (core word : Nat)
  | spadWord (cluster word : Nat)
  | reset (ctl : Nat)
  | freed (frames : List (BitVec 40))
  deriving DecidableEq, Repr

/-- A peer module's request (R462 to R464): a read of a 32-byte sector, a write, a packed gather of elements of 2^log2 bytes, and
an enqueue entry with the ASID it carries. -/
inductive PeerReq where
  | read (off : BitVec 40)
  | write (off : BitVec 40) (data : List Byte)
  | gather (base : BitVec 40) (offs : List (BitVec 32)) (log2 : BitVec 2)
  | enqueue (asid : BitVec 10) (addr : DWord) (data : BitVec 256)
  deriving DecidableEq, Repr

/-- Where a host read begins (R466): a register of BAR0, a byte of the module window of BAR2, a word of the debug windows of BAR4. -/
inductive HostAt where
  | bar0 (off : BitVec 24)
  | bar2 (off : BitVec 36)
  | bar4 (off : BitVec 29)
  deriving DecidableEq, Repr

/-- The registers without a row of their own (R6): a cluster's debug block by its own port, the debug windows of BAR4 (R466), and
the inbound aperture table, which the runtime sets (R462). -/
inductive RegBlock where
  | dbg (cluster : Nat)
  | bar4
  | inbound
  deriving DecidableEq, Repr

/-- Every instruction of the C-stream and of the V-stream, and every event of the module, one constructor per
row of spec/opcode_table.json. -/
inductive Instr where
  -- integer groups, majors 0x01 and 0x02 (R212, R213)
  | add (h : Hal) (d a b : Reg)
  | sub (h : Hal) (d a b : Reg)
  | mul (h : Hal) (d a b : Reg)
  | mulh (h : Hal) (d a b : Reg)
  | mulhn (h : Hal) (d a b : Reg)
  | div (h : Hal) (d a b : Reg)
  | divn (h : Hal) (d a b : Reg)
  | rem (h : Hal) (d a b : Reg)
  | remn (h : Hal) (d a b : Reg)
  | and (h : Hal) (d a b : Reg)
  | or (h : Hal) (d a b : Reg)
  | xor (h : Hal) (d a b : Reg)
  | sll (h : Hal) (d a b : Reg)
  | srl (h : Hal) (d a b : Reg)
  | sra (h : Hal) (d a b : Reg)
  | slt (h : Hal) (d a b : Reg)
  | sltn (h : Hal) (d a b : Reg)
  | min (h : Hal) (d a b : Reg)
  | max (h : Hal) (d a b : Reg)
  | minn (h : Hal) (d a b : Reg)
  | maxn (h : Hal) (d a b : Reg)
  | clz (h : Hal) (d a : Reg)
  | ctz (h : Hal) (d a : Reg)
  | popc (h : Hal) (d a : Reg)
  -- pointer group, major 0x03 (R216)
  | adda (h : Hal) (d a b : Reg)
  | tagset (h : Hal) (d a b : Reg)
  | tagget (h : Hal) (d a : Reg)
  -- scalar float group, major 0x04 (R217)
  | fadd (h : Hal) (d a b : Reg)
  | fmul (h : Hal) (d a b : Reg)
  | fmin (h : Hal) (d a b : Reg)
  | fmax (h : Hal) (d a b : Reg)
  | fcmpEq (h : Hal) (d a b : Reg)
  | fcmpLt (h : Hal) (d a b : Reg)
  | fcmpLe (h : Hal) (d a b : Reg)
  -- synchronisation group, major 0x05 (R231 to R235); `b` a barrier, `t` a token slot
  | barinit (h : Hal) (a : Reg) (b : BitVec 4)
  | barinitCad (h : Hal) (d a : Reg) (b : BitVec 4)
  | bararr (h : Hal) (b : BitVec 4)
  | barwait (h : Hal) (b : BitVec 4)
  | pend (h : Hal) (b : BitVec 4)
  | pendCad (h : Hal) (b : BitVec 4)
  | tkwait (h : Hal) (t : BitVec 5)
  | tkpoll (h : Hal) (d : Reg) (t : BitVec 5)
  -- vector-interface and inbox group, major 0x06 (R236 to R242)
  | vstart (h : Hal) (a : Reg)
  | vpush (h : Hal) (a : Reg)
  | vpop (h : Hal) (d : Reg)
  | vsync (h : Hal)
  | inpop (h : Hal) (d : Reg) (b : BitVec 4)
  | inpeek (h : Hal) (d : Reg) (b : BitVec 4)
  | aiset (h : Hal) (a b : Reg)
  | aret (h : Hal)
  -- environment group, major 0x07 (R243 to R245)
  | ecall (h : Hal)
  | ebreak (h : Hal)
  | pause (h : Hal)
  -- immediate forms, majors 0x08 to 0x1B (R189)
  | addi (h : Hal) (d a : Reg) (imm : BitVec 10)
  | andi (h : Hal) (d a : Reg) (imm : BitVec 10)
  | ori (h : Hal) (d a : Reg) (imm : BitVec 10)
  | xori (h : Hal) (d a : Reg) (imm : BitVec 10)
  | slli (h : Hal) (d a : Reg) (sh : BitVec 6)
  | srli (h : Hal) (d a : Reg) (sh : BitVec 6)
  | srai (h : Hal) (d a : Reg) (sh : BitVec 6)
  | slti (h : Hal) (d a : Reg) (imm : BitVec 10)
  | fcvt (h : Hal) (d a : Reg) (mode dst src : BitVec 3)
  | ld (h : Hal) (d a : Reg) (sp sz : BitVec 2) (off : BitVec 6)
  | ldn (h : Hal) (d a : Reg) (sp sz : BitVec 2) (off : BitVec 6)
  | st (h : Hal) (d a : Reg) (sp sz : BitVec 2) (off : BitVec 6)
  | jalr (h : Hal) (d a : Reg) (imm : BitVec 10)
  | lpset (h : Hal) (n : BitVec 3) (a : Reg) (imm : BitVec 10)
  | lpidx (h : Hal) (d : Reg) (n : BitVec 3)
  | fence (h : Hal) (scope : BitVec 3)
  | kget (h : Hal) (d : Reg) (k : BitVec 10)
  | kset (h : Hal) (a : Reg) (k : BitVec 10)
  | kbis (h : Hal) (a : Reg) (k : BitVec 10)
  | kbic (h : Hal) (a : Reg) (k : BitVec 10)
  | li (h : Hal) (d : Reg) (imm : BitVec 16)
  | lis (h : Hal) (d : Reg) (imm : BitVec 16)
  | jal (h : Hal) (d : Reg) (off : BitVec 16)
  | beq (h : Hal) (a b : Reg) (off : BitVec 10)
  | bne (h : Hal) (a b : Reg) (off : BitVec 10)
  | blt (h : Hal) (a b : Reg) (off : BitVec 10)
  | bge (h : Hal) (a b : Reg) (off : BitVec 10)
  | bltn (h : Hal) (a b : Reg) (off : BitVec 10)
  | bgen (h : Hal) (a b : Reg) (off : BitVec 10)
  | lpend (h : Hal) (n : BitVec 3) (off : BitVec 10)
  -- ordered memory group, major 0x27 (R190, R226)
  | amo (h : Hal) (d a b : Reg) (op : BitVec 4) (m : MemOrd)
  | amocas (h : Hal) (d a b c : Reg) (m : MemOrd)
  | waitge (h : Hal) (a b : Reg) (m : MemOrd)
  | ldOrdered (h : Hal) (d a : Reg) (m : MemOrd)
  | ldnOrdered (h : Hal) (d a : Reg) (m : MemOrd)
  | stOrdered (h : Hal) (d a : Reg) (m : MemOrd)
  -- stream group, major 0x28 (R256 to R261); `n` a stream register
  | qbase (h : Hal) (a b : Reg) (n : BitVec 4) (sp ssp : BitVec 2)
  | qdim (h : Hal) (d a b : Reg) (n : BitVec 4) (j : BitVec 2) (k : Bool)
  | qfmt (h : Hal) (a : Reg) (n fmt : BitVec 4) (tgt : BitVec 2)
  | qstart (h : Hal) (a : Reg) (n : BitVec 4)
  | qstop (h : Hal) (n : BitVec 4)
  | qstat (h : Hal) (a : Reg) (n : BitVec 4) (sp : BitVec 2) (t : BitVec 5)
  | qfill (h : Hal) (a : Reg) (srcA srcB : QSrc) (na nb : BitVec 3)
  | qrow (h : Hal) (a : Reg) (n : BitVec 4) (v : BitVec 8)
  | qstore (h : Hal) (a : Reg) (n : BitVec 4) (col : Bool) (idx : BitVec 9) (cvt : Bool) (mode : BitVec 2) (t : BitVec 5) (scope : BitVec 3) (tke : Bool)
  -- grid group, major 0x29 (R263 to R267)
  | gupd (h : Hal) (a : Reg) (fa fb : BitVec 4) (half : BitVec 2)
  | gclr (h : Hal) (v n1 : BitVec 8)
  | gdone (h : Hal) (v n1 : BitVec 8)
  | glim (h : Hal) (cols1 : BitVec 9) (rows1 : BitVec 7)
  | gchk (h : Hal)
  -- copy group, major 0x2A (R268 to R276)
  | xcopy (h : Hal) (d a b : Reg) (f : CopyF)
  | xfill (h : Hal) (d a b : Reg) (f : CopyF)
  | xtag (h : Hal) (d a b : Reg) (f : CopyF)
  | xtagrd (h : Hal) (d a b : Reg) (f : CopyF)
  | xgath (h : Hal) (d a b : Reg) (f : CopyF)
  | xscat (h : Hal) (d a b : Reg) (f : CopyF)
  | xsadd (h : Hal) (d a b : Reg) (f : CopyF)
  | xbcast (h : Hal) (d a b : Reg) (f : CopyF)
  | xred (h : Hal) (d a b : Reg) (f : CopyF)
  | xenq (h : Hal) (d a b : Reg) (f : CopyF)
  | xpref (h : Hal) (a b : Reg) (f : CopyF)
  -- statistics group, major 0x2B (R278 to R282)
  | stbind (h : Hal) (a : Reg) (n : BitVec 4)
  | stflush (h : Hal) (a : Reg) (all : Bool)
  | stread (h : Hal) (a b : Reg) (sp : BitVec 2)
  | streset (h : Hal) (a b : Reg) (sp : BitVec 2)
  | starm (h : Hal) (a b : Reg)
  -- system group, major 0x3F (R367)
  | eret (h : Hal)
  | wfi (h : Hal)
  | tlbinv (h : Hal) (scope : BitVec 2) (a b : Reg)
  | tlbflush (h : Hal) (scope : BitVec 2) (a : Reg)
  | ctxsave (h : Hal) (a b : Reg)
  | ctxload (h : Hal) (a : Reg)
  | ctxwait (h : Hal) (d : Reg)
  | halt (h : Hal) (a b : Reg)
  -- V-stream (R192); `t` the type of R191
  | vsetvl (f : VF)
  | vsetvli (f : VF) (count : BitVec 14) (cfg : BitVec 6)
  | vadd (t : BitVec 2) (f : VF)
  | vsub (t : BitVec 2) (f : VF)
  | vmul (t : BitVec 2) (f : VF)
  | vfma (t : BitVec 2) (f : VF)
  | vmin (t : BitVec 2) (f : VF)
  | vmax (t : BitVec 2) (f : VF)
  | vabs (t : BitVec 2) (f : VF)
  | vneg (t : BitVec 2) (f : VF)
  | vrcp (t : BitVec 2) (f : VF)
  | vrsqrt (t : BitVec 2) (f : VF)
  | vsqrt (t : BitVec 2) (f : VF)
  | vexp2 (t : BitVec 2) (f : VF)
  | vlog2 (t : BitVec 2) (f : VF)
  | vsig (t : BitVec 2) (f : VF)
  | vtanh (t : BitVec 2) (f : VF)
  | vsilu (t : BitVec 2) (f : VF)
  | vsel (f : VF)
  | vand (f : VF)
  | vor (f : VF)
  | vxor (f : VF)
  | vshl (f : VF)
  | vshr (f : VF)
  | vsra (f : VF)
  | vcmpEq (t : BitVec 2) (f : VF)
  | vcmpLt (t : BitVec 2) (f : VF)
  | vcmpLe (t : BitVec 2) (f : VF)
  | vcmpNe (t : BitVec 2) (f : VF)
  | vmpop (f : VF)
  | vmfirst (f : VF)
  | vmlogAnd (f : VF)
  | vmlogOr (f : VF)
  | vmlogXor (f : VF)
  | vmlogAndn (f : VF)
  | vcvt (f : VF)
  | vcvtSat (f : VF)
  | vquant (f : VF)
  | vbquant (f : VF)
  | vdequant (f : VF)
  | vpack (f : VF)
  | vunpack (f : VF)
  -- reductions and scans; `g` is the group of the element type: 0 float, 1 brain float, 2 integer (R312)
  | vredAdd (g : BitVec 2) (f : VF)
  | vredMax (g : BitVec 2) (f : VF)
  | vredMin (g : BitVec 2) (f : VF)
  | vredMaxn (f : VF)
  | vredMinn (f : VF)
  | vredAnd (f : VF)
  | vredOr (f : VF)
  | vredXor (f : VF)
  | vscanAdd (g : BitVec 2) (f : VF)
  | vscanMax (g : BitVec 2) (f : VF)
  | vscanMin (g : BitVec 2) (f : VF)
  | vscanMaxn (f : VF)
  | vscanMinn (f : VF)
  | vscanAnd (f : VF)
  | vscanOr (f : VF)
  | vscanXor (f : VF)
  | vcompress (f : VF)
  | vexpand (f : VF)
  | vslideUp (f : VF)
  | vslideDown (f : VF)
  | vperm (f : VF)
  | vbcst (f : VF)
  | vid (f : VF)
  | vmove (f : VF)
  | vrand (f : VF)
  | vdrop (f : VF)
  | vstat (f : VF)
  -- memory instructions of the V-stream; `sp` the space (R126)
  | vld (sp : BitVec 2) (f : VF)
  | vst (sp : BitVec 2) (f : VF)
  | vgath (sp : BitVec 2) (f : VF)
  | vscat (sp : BitVec 2) (f : VF)
  | vsaddI (sp : BitVec 2) (f : VF)
  | vsaddF (sp : BitVec 2) (f : VF)
  | vldq (f : VF)
  | vstq (f : VF)
  | vrel (f : VF)
  | vfence (f : VF)
  | vhalt (f : VF)
  | vtrap (f : VF)
  | eadd (f : VF)
  | eaddi (f : VF)
  | esub (f : VF)
  | emul (f : VF)
  | eli (f : VF) (imm : BitVec 22)
  | epop (f : VF)
  | epush (f : VF)
  | eget (f : VF) (num : BitVec 10)
  | vbr (f : VF) (off : BitVec 22)
  | vbrm (f : VF) (off : BitVec 22)
  | vbrd (f : VF) (off : BitVec 22)
  | vjoin (f : VF)
  | vjal (f : VF) (off : BitVec 22)
  | vret (f : VF)
  -- events of a core's engines; `core` is the module-wide core number (R16)
  | convoyIssue (core : Nat)
  | convoyRetire (core : Nat) (chk : List (Nat × Check)) (grp : List Nat)
  | profileSample (core : Nat)
  | heldSignalApply (core ctr : Nat)
  | tokenIdle (core : Nat) (t : BitVec 5)
  | qfillEntryPush (core : Nat) (sideB : Bool)
  | multicastEntryPush (core : Nat) (sideB : Bool)
  | gridUpdate (upd : UpdIssue)
  | updateRetire (core : Nat) (chk : Check)
  | rowHandover (core : Nat)
  | chunkForm (core slot : Nat)
  | waitgeRead (core : Nat)
  | pauseEnd (core : Nat)
  | cadenceElapsed (core : Nat)
  | combiningEntryAgeOut (core eng : Nat)
  | recordEntryApply
  | trapEntry (core : Nat)
  | arrivalInterruptEntry (core : Nat)
  | inboxReservationGrant (core slot : Nat)
  | inboxEntryArrive (core : Nat) (inbox : BitVec 4)
  -- events of the command processors
  | descriptorConsume (queue : Nat)
  | dispatch (die : Nat)
  | gangResume (gang : Nat)
  | rankExitComplete (core : Nat)
  | budgetPeriodStart (gang : Nat)
  | budgetExhausted (gang : Nat)
  | guaranteedReservation (gang : Nat)
  | classPeriodStart (cls : BitVec 4)
  | byteBudgetHold (core : Nat)
  | cancelRequest (queue : Nat)
  | preemptLatch (gang : Nat) (why : StopWhy)
  | contextSave (core : Nat)
  | saveCommit (core : Nat)
  | saveRestart (core : Nat)
  -- events of the memories, the links and the host
  | backgroundScrub (e : MemEvent)
  | peerInboundRequest (peer : BitVec 6) (port : Nat) (req : PeerReq)
  | flitCrcReplay (flit : Flit)
  | retrainTimeout (port : Nat)
  | hostWrite (off : BitVec 36) (data : List Byte)
  | hostRead (off : HostAt) (n : Nat)
  | bar0Write (off : BitVec 24) (v : DWord)
  | mgmtCreateAsid
  | mgmtRetireAsid
  | mgmtSetClass
  | mgmtRegisterQueue
  | mgmtDeregisterQueue
  -- events of the debug block and of the power and bring-up control
  | dbgFreeze (cluster : Nat)
  | clusterFrozen (cluster : Nat)
  | dbgThaw (cluster : Nat)
  | dbgResetCtx (cluster : Nat)
  | breakpointHit (core : Nat)
  | watchpointHit (core : Nat)
  | trcArm (cluster : Nat) (v : DWord)
  | registerWrite (blk : RegBlock) (off : Nat) (v : DWord)
  | clusterGate (cluster : Nat)
  | traceDrainLimit (cluster : Nat)
  | wakeTest (cluster : Nat) (coreFail : BitVec 24) (spadFail : Bool)
  | thermalThrottle (die : Nat)
  | thermalStop (die : Nat)
  | thermalPowerOff
  | powerOn
  | functionReady (fn : BitVec 6)
  | marchConsolidate (cluster : Nat)
  | coreReset (core : Nat) (start : CoreStart)
  | attestationRequest (nonce : BitVec 256)
  | scatterAcknowledgement (core lane : Nat)
  | storeMismatchReportArrival (core : Nat)
  | powerLoss
  | meshEdgeFailure (edge : Nat)
  | thermalRecovery (die : Nat)
  | contextEngineSoftError (core : Nat)
  | ideKeyAgreement (msg : BitVec 256)
  deriving DecidableEq, Repr

end Sys2Proof
end

