-- ==== Sys2Proof/WellFormed.lean ====
section
/-! DEFINITION. Well-formed instructions: the number fields in range and the operand shapes of R178 to R192, which is what
checks 3 and 4 of R183 leave once every unused field is zero. -/

namespace Sys2Proof

/-- The barrier, slot, inbox and loop ranges of check 4 of R183, and the scopes 0 to 4 of R133. -/
def scopeOk (s : BitVec 3) : Bool := decide (s.toNat ≤ 4)

/-- R190: the scope is zero without an ordering bit. -/
def MemOrd.ok (m : MemOrd) : Bool := scopeOk m.scope && (m.aq || m.rl || m.scope == 0)

/-- A stream number above 15 has no place in `QSrc`; a rank lies in 0 to 23; a side of no entries encodes as zero (R258, log 20). -/
def QSrc.ok (s : QSrc) (n : BitVec 3) : Bool :=
  (match s with | .stream k => n != 0 || k == 0 | .rank r => n != 0 && decide (r.toNat < 24)) && decide (n.toNat ≤ 4)

/-- The class of a format code in `gupd` (R86, R88): 0 FP8, 1 BF16/F16, 2 FP4, 3 I8. -/
def gupdClass (f : BitVec 4) : Option Nat :=
  match f.toNat with
  | 3 | 4 | 6 | 7 => some 0
  | 1 | 2 => some 1
  | 5 | 8 => some 2
  | 9 => some 3
  | _ => none

/-- A view whose index its kind allows (R179). -/
def View.ok : View → Bool
  | .row _ => true
  | .col i => decide (i.toNat < 384)
  | .diag i => decide (i.toNat < 384)

def Spec.ok : Spec → Bool
  | .view v => v.ok
  | _ => true

def Spec.isView : Spec → Bool
  | .view _ => true
  | _ => false

/-- Whether an operand has to be there, has to be absent, or may be either. -/
inductive Pres where
  | yes | no | opt
  deriving DecidableEq, Repr

def Pres.ok (p : Pres) (s : Spec) : Bool :=
  match p with
  | .yes => s != .absent
  | .no => s == .absent
  | .opt => true

/-- Whether an instruction reads no mask, may read one, or requires one (R292). -/
inductive MaskUse where
  | none | may | must
  deriving DecidableEq, Repr

/-- The shape of an instruction's common fields: presence (R192), mask (R292), whether `d` is a destination, whether
`mask_agn` has to be 0. -/
structure VShape where
  d : Pres
  a : Pres
  b : Pres
  mask : MaskUse
  dst : Bool
  agn0 : Bool := false
  deriving DecidableEq, Repr

/-- Checks 3 and 4 of R183 for the common fields. -/
def VF.fits (f : VF) (s : VShape) : Bool :=
  s.d.ok f.d && s.a.ok f.a && s.b.ok f.b && f.d.ok && f.a.ok && f.b.ok &&
  (match f.mask with | some m => m.view.ok && s.mask != .none | none => s.mask != .must) &&
  (if s.dst && f.d.isView then !(s.agn0 && f.maskAgn) else !f.maskAgn && !f.tailAgn)

/-- Three operands, element-wise shape. -/
def shDAB : VShape := ⟨.yes, .yes, .yes, .may, true, false⟩
def shDA : VShape := ⟨.yes, .yes, .no, .may, true, false⟩
def shE3 : VShape := ⟨.yes, .yes, .yes, .none, false, false⟩
def shRed : VShape := ⟨.yes, .yes, .opt, .may, true, true⟩
def shStore : VShape := ⟨.yes, .yes, .yes, .may, false, false⟩
def shNone : VShape := ⟨.no, .no, .no, .none, false, false⟩

/-- An immediate `vsetvl` configuration (R182, R298): bits [7:6] zero, neither the kind nor the width 3. -/
def cfgOk (c : BitVec 6) : Bool := c.extractLsb' 4 2 != 3 && c.extractLsb' 0 2 != 3

/-- The fields of a V-stream instruction and their shape; none outside the V-stream. -/
def Instr.vshape : Instr → Option (VF × VShape)
  | .vsetvl f => some (f, ⟨.opt, .yes, .yes, .none, false, false⟩)
  | .vsetvli f _ _ => some (f, ⟨.opt, .no, .no, .none, false, false⟩)
  | .vadd _ f => some (f, shDAB) | .vsub _ f => some (f, shDAB) | .vmul _ f => some (f, shDAB)
  | .vfma _ f => some (f, shDAB) | .vmin _ f => some (f, shDAB) | .vmax _ f => some (f, shDAB)
  | .vabs _ f => some (f, shDA) | .vneg _ f => some (f, shDA) | .vrcp _ f => some (f, shDA)
  | .vrsqrt _ f => some (f, shDA) | .vsqrt _ f => some (f, shDA) | .vexp2 _ f => some (f, shDA)
  | .vlog2 _ f => some (f, shDA) | .vsig _ f => some (f, shDA) | .vtanh _ f => some (f, shDA)
  | .vsilu _ f => some (f, shDA)
  | .vsel f => some (f, ⟨.yes, .yes, .yes, .must, true, true⟩)
  | .vand f => some (f, shDAB) | .vor f => some (f, shDAB) | .vxor f => some (f, shDAB)
  | .vshl f => some (f, shDAB) | .vshr f => some (f, shDAB) | .vsra f => some (f, shDAB)
  | .vcmpEq _ f => some (f, shDAB) | .vcmpLt _ f => some (f, shDAB) | .vcmpLe _ f => some (f, shDAB)
  | .vcmpNe _ f => some (f, shDAB)
  | .vmpop f => some (f, ⟨.yes, .yes, .no, .may, false, false⟩)
  | .vmfirst f => some (f, ⟨.yes, .yes, .no, .may, false, false⟩)
  | .vmlogAnd f => some (f, shDAB) | .vmlogOr f => some (f, shDAB) | .vmlogXor f => some (f, shDAB)
  | .vmlogAndn f => some (f, shDAB)
  | .vcvt f => some (f, shDAB) | .vcvtSat f => some (f, shDAB) | .vquant f => some (f, shDAB)
  | .vbquant f => some (f, shDAB) | .vdequant f => some (f, shDAB) | .vpack f => some (f, shDAB)
  | .vunpack f => some (f, shDAB)
  | .vredAdd _ f => some (f, shRed) | .vredMax _ f => some (f, shRed) | .vredMin _ f => some (f, shRed)
  | .vredMaxn f => some (f, shRed) | .vredMinn f => some (f, shRed) | .vredAnd f => some (f, shRed)
  | .vredOr f => some (f, shRed) | .vredXor f => some (f, shRed)
  | .vscanAdd _ f => some (f, shDA) | .vscanMax _ f => some (f, shDA) | .vscanMin _ f => some (f, shDA)
  | .vscanMaxn f => some (f, shDA) | .vscanMinn f => some (f, shDA) | .vscanAnd f => some (f, shDA)
  | .vscanOr f => some (f, shDA) | .vscanXor f => some (f, shDA)
  | .vcompress f => some (f, ⟨.yes, .yes, .no, .must, true, true⟩)
  | .vexpand f => some (f, ⟨.yes, .yes, .no, .must, true, false⟩)
  | .vslideUp f => some (f, shDAB) | .vslideDown f => some (f, shDAB) | .vperm f => some (f, shDAB)
  | .vbcst f => some (f, shDA)
  | .vid f => some (f, ⟨.yes, .no, .no, .may, true, false⟩)
  | .vmove f => some (f, shDA)
  | .vrand f => some (f, ⟨.yes, .no, .no, .may, true, false⟩)
  | .vdrop f => some (f, shDA)
  | .vstat f => some (f, ⟨.no, .yes, .yes, .may, false, false⟩)
  | .vld _ f => some (f, ⟨.yes, .yes, .opt, .may, true, false⟩)
  | .vst _ f => some (f, ⟨.yes, .yes, .opt, .may, false, false⟩)
  | .vgath _ f => some (f, shDAB)
  | .vscat _ f => some (f, shStore) | .vsaddI _ f => some (f, shStore) | .vsaddF _ f => some (f, shStore)
  | .vldq f => some (f, shDA)
  | .vstq f => some (f, ⟨.yes, .yes, .no, .may, false, false⟩)
  | .vrel f => some (f, ⟨.yes, .no, .no, .none, false, false⟩)
  | .vfence f => some (f, ⟨.no, .no, .yes, .none, false, false⟩)
  | .vhalt f => some (f, shNone)
  | .vtrap f => some (f, ⟨.no, .no, .yes, .none, false, false⟩)
  | .eadd f => some (f, shE3) | .eaddi f => some (f, shE3) | .esub f => some (f, shE3) | .emul f => some (f, shE3)
  | .eli f _ => some (f, ⟨.yes, .no, .no, .none, false, false⟩)
  | .epop f => some (f, ⟨.yes, .no, .no, .none, false, false⟩)
  | .epush f => some (f, ⟨.no, .yes, .no, .none, false, false⟩)
  | .eget f _ => some (f, ⟨.yes, .no, .no, .none, false, false⟩)
  | .vbr f _ => some (f, ⟨.yes, .no, .no, .none, false, false⟩)
  | .vbrm f _ => some (f, ⟨.no, .no, .no, .must, false, false⟩)
  | .vbrd f _ => some (f, ⟨.no, .no, .no, .must, false, false⟩)
  | .vjoin f => some (f, shNone)
  | .vjal f _ => some (f, shNone)
  | .vret f => some (f, shNone)
  | _ => none

/-- The sub-functions that R191 and R192 leave unallocated for a typed major. -/
def Instr.vtypeOk : Instr → Bool
  | .vfma t _ => decide (t.toNat < 2)
  | .vabs t _ | .vneg t _ => decide (t.toNat < 3)
  | .vrcp t _ | .vrsqrt t _ | .vsqrt t _ | .vexp2 t _ | .vlog2 t _ | .vsig t _ | .vtanh t _ | .vsilu t _ => decide (t.toNat < 2)
  | .vredAdd g _ | .vredMax g _ | .vredMin g _ | .vscanAdd g _ | .vscanMax g _ | .vscanMin g _ => decide (g.toNat < 3)
  | .vsetvli _ _ cfg => cfgOk cfg
  | .vsetvl f => match f.b with | .imm v => v.extractLsb' 6 2 == 0 && cfgOk (v.extractLsb' 0 6) | _ => true
  | _ => true

/-- Whether an instruction belongs to the V-stream. -/
def Instr.isV (i : Instr) : Bool := i.vshape.isSome

/-- Whether an instruction belongs to the C-stream. -/
def Instr.isC : Instr → Bool
  | .add .. | .sub .. | .mul .. | .mulh .. | .mulhn .. | .div .. | .divn .. | .rem .. | .remn .. | .and .. | .or .. | .xor ..
  | .sll .. | .srl .. | .sra .. | .slt .. | .sltn .. | .min .. | .max .. | .minn .. | .maxn .. | .clz .. | .ctz .. | .popc ..
  | .adda .. | .tagset .. | .tagget .. | .fadd .. | .fmul .. | .fmin .. | .fmax .. | .fcmpEq .. | .fcmpLt .. | .fcmpLe ..
  | .barinit .. | .barinitCad .. | .bararr .. | .barwait .. | .pend .. | .pendCad .. | .tkwait .. | .tkpoll ..
  | .vstart .. | .vpush .. | .vpop .. | .vsync .. | .inpop .. | .inpeek .. | .aiset .. | .aret .. | .ecall .. | .ebreak ..
  | .pause .. | .addi .. | .andi .. | .ori .. | .xori .. | .slli .. | .srli .. | .srai .. | .slti .. | .fcvt .. | .ld ..
  | .ldn .. | .st .. | .jalr .. | .lpset .. | .lpidx .. | .fence .. | .kget .. | .kset .. | .kbis .. | .kbic .. | .li ..
  | .lis .. | .jal .. | .beq .. | .bne .. | .blt .. | .bge .. | .bltn .. | .bgen .. | .lpend .. | .amo .. | .amocas ..
  | .waitge .. | .ldOrdered .. | .ldnOrdered .. | .stOrdered .. | .qbase .. | .qdim .. | .qfmt .. | .qstart .. | .qstop ..
  | .qstat .. | .qfill .. | .qrow .. | .qstore .. | .gupd .. | .gclr .. | .gdone .. | .glim .. | .gchk .. | .xcopy ..
  | .xfill .. | .xtag .. | .xtagrd .. | .xgath .. | .xscat .. | .xsadd .. | .xbcast .. | .xred .. | .xenq .. | .xpref ..
  | .stbind .. | .stflush .. | .stread .. | .streset .. | .starm .. | .eret .. | .wfi .. | .tlbinv .. | .tlbflush ..
  | .ctxsave .. | .ctxload .. | .ctxwait .. | .halt .. => true
  | _ => false

/-- The fields of C-stream instructions beyond their widths (R189, R190, R256 to R272). -/
def Instr.cOk : Instr → Bool
  | .inpop _ d _ => decide (4 ≤ d.toNat) && d.toNat % 4 == 0
  | .fcvt _ _ _ m _ _ => decide (m.toNat < 4)
  | .lpset _ n _ _ => decide (n.toNat < 6)
  | .lpidx _ _ n => decide (n.toNat < 6)
  | .lpend _ n _ => decide (n.toNat < 6)
  | .fence _ s => scopeOk s
  | .amo _ _ _ _ op m => m.ok && decide (op.toNat < 12) && decide (2 ≤ m.size.toNat) && (m.size == 2 || decide (op.toNat < 9))
  | .amocas _ _ _ _ _ m => m.ok && decide (2 ≤ m.size.toNat)
  | .waitge _ _ _ m => m.ok && m.size == 2 && !m.rl
  | .ldOrdered _ _ _ m => m.ok && !m.rl
  | .ldnOrdered _ _ _ m => m.ok && !m.rl
  | .stOrdered _ _ _ m => m.ok && !m.aq
  | .qbase _ _ b _ _ ssp => b != 0 || ssp == 0
  | .qdim _ _ _ _ _ j _ => j != 3
  | .qfmt _ _ _ _ t => t != 3
  | .qfill _ _ sa sb na nb => sa.ok na && sb.ok nb && (na != 0 || nb != 0)
  | .qstore _ _ _ col idx cvt mode t sc tke =>
    (if col then decide (idx.toNat < 384) else decide (idx.toNat < 256)) && (cvt || mode == 0) && scopeOk sc &&
    (tke || (t == 0 && sc == 0))
  | .gupd _ _ fa fb half => half != 3 && (gupdClass fa).isSome && gupdClass fa == gupdClass fb
  | .gclr _ v n => decide (v.toNat + n.toNat < 256)
  | .gdone _ v n => decide (v.toNat + n.toNat < 256)
  | .glim _ c _ => decide (c.toNat < 384)
  | .xcopy _ _ _ _ f => scopeOk f.scope
  | .xfill _ _ _ _ f => scopeOk f.scope && f.ssp == 0
  | .xtag _ _ _ _ f => scopeOk f.scope && f.dsp == 0 && f.ssp == 0 && !f.rb
  | .xtagrd _ _ _ _ f => scopeOk f.scope && f.ssp == 0 && !f.rb
  | .xgath _ _ a _ f => scopeOk f.scope && a.toNat % 2 == 0
  | .xscat _ _ a _ f => scopeOk f.scope && a.toNat % 2 == 0
  | .xsadd _ _ a _ f => scopeOk f.scope && a.toNat % 2 == 0
  | .xbcast _ _ a _ f => scopeOk f.scope && a.toNat % 2 == 0 && f.dsp == 2
  | .xred _ _ _ _ f => scopeOk f.scope
  | .xenq _ _ _ _ f => scopeOk f.scope && f.dsp == 0
  | .xpref _ _ _ f => scopeOk f.scope && f.dsp == 0 && f.ssp == 0 && !f.rb
  | .stflush _ a all => !all || a == 0
  | _ => true

/-- A well-formed instruction of either stream; events have no encoding and are always well formed. -/
def Instr.wf (i : Instr) : Bool :=
  match i.vshape with
  | some (f, sh) => f.fits sh && i.vtypeOk
  | none => i.cOk

end Sys2Proof
end

