-- ==== Sys2Proof/Decode.lean ====
section
/-! DEFINITION. The decoder and the encoder of both streams (R174 to R192). A word or pair of words that fails check 1 to 4
of R183 decodes to `none`; the encoder writes the words of a well-formed instruction from the same tables. -/

namespace Sys2Proof

/-! ### Fields of the C-stream (R175) -/

def fMaj (w : Word) : Nat := (w.extractLsb' 22 6).toNat
def fH (w : Word) : Hal := w.extractLsb' 28 4
def fD (w : Word) : Reg := w.extractLsb' 16 6
def fA (w : Word) : Reg := w.extractLsb' 10 6
def fB (w : Word) : Reg := w.extractLsb' 4 6
def fFn (w : Word) : BitVec 4 := w.extractLsb' 0 4
def fImm (w : Word) : BitVec 10 := w.extractLsb' 0 10
def fI16 (w : Word) : BitVec 16 := w.extractLsb' 0 16

/-- Whether a C-stream instruction with this first word has a second (R174, R187). -/
def isTwoWord (w : Word) : Bool := decide (0x27 ≤ fMaj w) && decide (fMaj w ≤ 0x2B)

/-- Keeps the instruction if a condition on its words holds. -/
def ifc (c : Bool) (i : Instr) : Option Instr := if c then some i else none

/-- The unused fields of a word are zero (check 3). -/
def z6 (r : Reg) : Bool := r == 0

def decIntA (w : Word) : Option Instr :=
  let h := fH w; let d := fD w; let a := fA w; let b := fB w
  match (fFn w).toNat with
  | 0 => some (.add h d a b) | 1 => some (.sub h d a b) | 2 => some (.mul h d a b) | 3 => some (.mulh h d a b)
  | 4 => some (.mulhn h d a b) | 5 => some (.div h d a b) | 6 => some (.divn h d a b) | 7 => some (.rem h d a b)
  | 8 => some (.remn h d a b) | 9 => some (.and h d a b) | 10 => some (.or h d a b) | 11 => some (.xor h d a b)
  | 12 => some (.sll h d a b) | 13 => some (.srl h d a b) | 14 => some (.sra h d a b) | _ => some (.slt h d a b)

def decIntB (w : Word) : Option Instr :=
  let h := fH w; let d := fD w; let a := fA w; let b := fB w
  match (fFn w).toNat with
  | 0 => some (.sltn h d a b) | 1 => some (.min h d a b) | 2 => some (.max h d a b) | 3 => some (.minn h d a b)
  | 4 => some (.maxn h d a b)
  | 5 => ifc (z6 b) (.clz h d a) | 6 => ifc (z6 b) (.ctz h d a) | 7 => ifc (z6 b) (.popc h d a)
  | _ => none

def decPtr (w : Word) : Option Instr :=
  let h := fH w; let d := fD w; let a := fA w; let b := fB w
  match (fFn w).toNat with
  | 0 => some (.adda h d a b) | 1 => some (.tagset h d a b) | 2 => ifc (z6 b) (.tagget h d a)
  | _ => none

def decFloat (w : Word) : Option Instr :=
  let h := fH w; let d := fD w; let a := fA w; let b := fB w
  match (fFn w).toNat with
  | 0 => some (.fadd h d a b) | 1 => some (.fmul h d a b) | 2 => some (.fmin h d a b) | 3 => some (.fmax h d a b)
  | 4 => some (.fcmpEq h d a b) | 5 => some (.fcmpLt h d a b) | 6 => some (.fcmpLe h d a b)
  | _ => none

def decSync (w : Word) : Option Instr :=
  let h := fH w; let d := fD w; let a := fA w; let b := fB w
  let b4 : BitVec 4 := w.extractLsb' 4 4; let b5 : BitVec 5 := w.extractLsb' 4 5
  let in4 := decide (b.toNat < 16); let in5 := decide (b.toNat < 32)
  match (fFn w).toNat with
  | 0 => ifc (z6 d && in4) (.barinit h a b4)
  | 1 => ifc in4 (.barinitCad h d a b4)
  | 2 => ifc (z6 d && z6 a && in4) (.bararr h b4)
  | 3 => ifc (z6 d && z6 a && in4) (.barwait h b4)
  | 4 => ifc (z6 d && z6 a && in4) (.pend h b4)
  | 5 => ifc (z6 d && z6 a && in4) (.pendCad h b4)
  | 6 => ifc (z6 d && z6 a && in5) (.tkwait h b5)
  | 7 => ifc (z6 a && in5) (.tkpoll h d b5)
  | _ => none

def decVi (w : Word) : Option Instr :=
  let h := fH w; let d := fD w; let a := fA w; let b := fB w
  let b4 : BitVec 4 := w.extractLsb' 4 4
  let in4 := decide (b.toNat < 16)
  match (fFn w).toNat with
  | 0 => ifc (z6 d && z6 b) (.vstart h a)
  | 1 => ifc (z6 d && z6 b) (.vpush h a)
  | 2 => ifc (z6 a && z6 b) (.vpop h d)
  | 3 => ifc (z6 d && z6 a && z6 b) (.vsync h)
  | 4 => ifc (z6 a && in4) (.inpop h d b4)
  | 5 => ifc (z6 a && in4) (.inpeek h d b4)
  | 6 => ifc (z6 d) (.aiset h a b)
  | 7 => ifc (z6 d && z6 a && z6 b) (.aret h)
  | _ => none

def decEnv (w : Word) : Option Instr :=
  let h := fH w
  let z := w.extractLsb' 4 18 == 0
  match (fFn w).toNat with
  | 0 => ifc z (.ecall h) | 1 => ifc z (.ebreak h) | 2 => ifc z (.pause h)
  | _ => none

/-- Majors 0x08 to 0x1E (R189). -/
def decImm (w : Word) : Option Instr :=
  let h := fH w; let d := fD w; let a := fA w; let m := fImm w
  let sh : BitVec 6 := w.extractLsb' 0 6; let shz := w.extractLsb' 6 4 == 0
  let sp : BitVec 2 := w.extractLsb' 8 2; let sz : BitVec 2 := w.extractLsb' 6 2
  let n3 : BitVec 3 := w.extractLsb' 0 3; let hi7 := w.extractLsb' 3 7 == 0
  match fMaj w with
  | 0x08 => some (.addi h d a m) | 0x09 => some (.andi h d a m) | 0x0A => some (.ori h d a m) | 0x0B => some (.xori h d a m)
  | 0x0C => ifc shz (.slli h d a sh) | 0x0D => ifc shz (.srli h d a sh) | 0x0E => ifc shz (.srai h d a sh)
  | 0x0F => some (.slti h d a m)
  | 0x10 => ifc (w.extractLsb' 0 1 == 0) (.fcvt h d a (w.extractLsb' 7 3) (w.extractLsb' 4 3) (w.extractLsb' 1 3))
  | 0x11 => some (.ld h d a sp sz sh) | 0x12 => some (.ldn h d a sp sz sh) | 0x13 => some (.st h d a sp sz sh)
  | 0x14 => some (.jalr h d a m)
  | 0x15 => ifc (decide (d.toNat < 8)) (.lpset h (w.extractLsb' 16 3) a m)
  | 0x16 => ifc (z6 a && hi7) (.lpidx h d n3)
  | 0x17 => ifc (z6 d && z6 a && hi7) (.fence h n3)
  | 0x18 => ifc (z6 a) (.kget h d m)
  | 0x19 => ifc (z6 d) (.kset h a m) | 0x1A => ifc (z6 d) (.kbis h a m) | 0x1B => ifc (z6 d) (.kbic h a m)
  | 0x1C => some (.li h d (fI16 w)) | 0x1D => some (.lis h d (fI16 w)) | 0x1E => some (.jal h d (fI16 w))
  | _ => none

/-- Majors 0x20 to 0x26, whose fields a and b stand at [21:16] and [15:10] (R175). -/
def decBranch (w : Word) : Option Instr :=
  let h := fH w; let a := fD w; let b := fA w; let o := fImm w
  match fMaj w with
  | 0x20 => some (.beq h a b o) | 0x21 => some (.bne h a b o) | 0x22 => some (.blt h a b o) | 0x23 => some (.bge h a b o)
  | 0x24 => some (.bltn h a b o) | 0x25 => some (.bgen h a b o)
  | 0x26 => ifc (decide (a.toNat < 8) && z6 b) (.lpend h (w.extractLsb' 16 3) o)
  | _ => none

def decSys (w : Word) : Option Instr :=
  let h := fH w; let d := fD w; let a := fA w; let b := fB w
  let s2 : BitVec 2 := w.extractLsb' 16 2; let s4 := decide (d.toNat < 4)
  match (fFn w).toNat with
  | 0 => ifc (z6 d && z6 a && z6 b) (.eret h) | 1 => ifc (z6 d && z6 a && z6 b) (.wfi h)
  | 2 => ifc s4 (.tlbinv h s2 a b) | 3 => ifc (s4 && z6 b) (.tlbflush h s2 a)
  | 4 => ifc (z6 d) (.ctxsave h a b) | 5 => ifc (z6 d && z6 b) (.ctxload h a)
  | 6 => ifc (z6 a && z6 b) (.ctxwait h d) | 7 => ifc (z6 d) (.halt h a b)
  | _ => none

/-- The body of major 0x27 (R190). -/
def bodyMem (v : Word) : MemOrd :=
  ⟨v.extractLsb' 25 3, v.extractLsb' 24 1 == 1, v.extractLsb' 23 1 == 1, v.extractLsb' 21 2, v.extractLsb' 19 2, v.extractLsb' 0 9⟩

def decMem (w v : Word) : Option Instr :=
  let h := fH w; let d := fD w; let a := fA w; let b := fB w
  let m := bodyMem v; let op : BitVec 4 := v.extractLsb' 15 4; let c : Reg := v.extractLsb' 9 6
  match (fFn w).toNat with
  | 0 => ifc (z6 c) (.amo h d a b op m)
  | 1 => ifc (op == 0) (.amocas h d a b c m)
  | 2 => ifc (z6 d && z6 c && op == 0) (.waitge h a b m)
  | 3 => ifc (z6 b && z6 c && op == 0) (.ldOrdered h d a m)
  | 4 => ifc (z6 b && z6 c && op == 0) (.ldnOrdered h d a m)
  | 5 => ifc (z6 b && z6 c && op == 0) (.stOrdered h d a m)
  | _ => none

/-- A `qfill` source field (R258). -/
def decQSrc (x : BitVec 6) : Option QSrc :=
  if x.extractLsb' 5 1 == 1 then some (.rank (x.extractLsb' 0 5))
  else if x.extractLsb' 4 1 == 0 then some (.stream (x.extractLsb' 0 4)) else none

def decStream (w v : Word) : Option Instr :=
  let h := fH w; let d := fD w; let a := fA w; let b := fB w
  let n : BitVec 4 := v.extractLsb' 24 4
  match (fFn w).toNat with
  | 0 => ifc (z6 d && v.extractLsb' 0 20 == 0) (.qbase h a b n (v.extractLsb' 22 2) (v.extractLsb' 20 2))
  | 1 => ifc (v.extractLsb' 0 21 == 0) (.qdim h d a b n (v.extractLsb' 22 2) (v.extractLsb' 21 1 == 1))
  | 2 => ifc (z6 d && z6 b && v.extractLsb' 0 18 == 0) (.qfmt h a n (v.extractLsb' 20 4) (v.extractLsb' 18 2))
  | 3 => ifc (z6 d && z6 b && v.extractLsb' 0 24 == 0) (.qstart h a n)
  | 4 => ifc (z6 d && z6 a && z6 b && v.extractLsb' 0 24 == 0) (.qstop h n)
  | 5 => ifc (z6 d && z6 b && v.extractLsb' 0 17 == 0) (.qstat h a n (v.extractLsb' 22 2) (v.extractLsb' 17 5))
  | 6 =>
    match decQSrc (v.extractLsb' 22 6), decQSrc (v.extractLsb' 16 6) with
    | some sa, some sb => ifc (z6 d && z6 b && v.extractLsb' 0 10 == 0) (.qfill h a sa sb (v.extractLsb' 13 3) (v.extractLsb' 10 3))
    | _, _ => none
  | 7 => ifc (z6 d && z6 b && v.extractLsb' 0 16 == 0) (.qrow h a n (v.extractLsb' 16 8))
  | 8 => ifc (z6 d && z6 b && v.extractLsb' 0 1 == 0 && v.extractLsb' 23 1 == 0)
      (.qstore h a n (v.extractLsb' 22 1 == 1) (v.extractLsb' 13 9) (v.extractLsb' 12 1 == 1) (v.extractLsb' 10 2)
        (v.extractLsb' 5 5) (v.extractLsb' 2 3) (v.extractLsb' 1 1 == 1))
  | _ => none

def decGrid (w v : Word) : Option Instr :=
  let h := fH w; let d := fD w; let a := fA w; let b := fB w
  let z := z6 d && z6 a && z6 b
  match (fFn w).toNat with
  | 0 => ifc (z6 d && z6 b && v.extractLsb' 0 18 == 0) (.gupd h a (v.extractLsb' 24 4) (v.extractLsb' 20 4) (v.extractLsb' 18 2))
  | 1 => ifc (z && v.extractLsb' 0 12 == 0) (.gclr h (v.extractLsb' 20 8) (v.extractLsb' 12 8))
  | 2 => ifc (z && v.extractLsb' 0 12 == 0) (.gdone h (v.extractLsb' 20 8) (v.extractLsb' 12 8))
  | 3 => ifc (z && v.extractLsb' 0 12 == 0) (.glim h (v.extractLsb' 19 9) (v.extractLsb' 12 7))
  | 4 => ifc (z && v.extractLsb' 0 28 == 0) (.gchk h)
  | _ => none

def bodyCopy (v : Word) : CopyF :=
  ⟨v.extractLsb' 23 5, v.extractLsb' 18 5, v.extractLsb' 13 5, v.extractLsb' 8 5, v.extractLsb' 5 3, v.extractLsb' 3 2,
    v.extractLsb' 1 2, v.extractLsb' 0 1 == 1⟩

def decCopy (w v : Word) : Option Instr :=
  let h := fH w; let d := fD w; let a := fA w; let b := fB w; let f := bodyCopy v
  match (fFn w).toNat with
  | 0 => some (.xcopy h d a b f) | 1 => some (.xfill h d a b f) | 2 => some (.xtag h d a b f) | 3 => some (.xtagrd h d a b f)
  | 4 => some (.xgath h d a b f) | 5 => some (.xscat h d a b f) | 6 => some (.xsadd h d a b f) | 7 => some (.xbcast h d a b f)
  | 8 => some (.xred h d a b f) | 9 => some (.xenq h d a b f) | 10 => ifc (z6 d) (.xpref h a b f)
  | _ => none

def decStat (w v : Word) : Option Instr :=
  let h := fH w; let d := fD w; let a := fA w; let b := fB w
  match (fFn w).toNat with
  | 0 => ifc (z6 d && z6 b && v.extractLsb' 0 24 == 0) (.stbind h a (v.extractLsb' 24 4))
  | 1 => ifc (z6 d && z6 b && v.extractLsb' 0 27 == 0) (.stflush h a (v.extractLsb' 27 1 == 1))
  | 2 => ifc (z6 d && v.extractLsb' 0 26 == 0) (.stread h a b (v.extractLsb' 26 2))
  | 3 => ifc (z6 d && v.extractLsb' 0 26 == 0) (.streset h a b (v.extractLsb' 26 2))
  | 4 => ifc (z6 d && v.extractLsb' 0 28 == 0) (.starm h a b)
  | _ => none

/-- The fields of a C-stream instruction, unused fields checked, number fields not yet. -/
def fieldsC (w v : Word) : Option Instr :=
  match fMaj w with
  | 0x01 => decIntA w | 0x02 => decIntB w | 0x03 => decPtr w | 0x04 => decFloat w
  | 0x05 => decSync w | 0x06 => decVi w | 0x07 => decEnv w | 0x3F => decSys w
  | 0x27 => decMem w v | 0x28 => decStream w v | 0x29 => decGrid w v | 0x2A => decCopy w v | 0x2B => decStat w v
  | m => if m < 0x20 then decImm w else decBranch w

/-- Decodes a C-stream instruction; `v` is the word after it, used by format CP only. -/
def decodeC (w v : Word) : Option Instr :=
  if isTwoWord w && v.extractLsb' 28 4 != 0 then none
  else match fieldsC w v with
    | some i => ifc i.cOk i
    | none => none

/-! ### The V-stream (R178, R179, R192) -/

/-- An 11-bit specifier (R179); none where the index has no operand. -/
def decSpec (x : BitVec 11) : Option Spec :=
  let i : BitVec 9 := x.extractLsb' 0 9
  match (x.extractLsb' 9 2).toNat with
  | 0 => if i.toNat < 256 then some (.view (.row (x.extractLsb' 0 8))) else none
  | 1 => if i.toNat < 384 then some (.view (.col i)) else none
  | 2 => if i.toNat < 384 then some (.view (.diag i)) else none
  | _ =>
    if i.toNat < 0x10 then some (.ereg (x.extractLsb' 0 4))
    else if i.toNat < 0x20 then some (.port (x.extractLsb' 0 4))
    else if i.toNat = 0xFF then some .absent
    else if 0x100 ≤ i.toNat then some (.imm (x.extractLsb' 0 8))
    else none

/-- The mask fields (R180). -/
def decMask (w v : Word) : Option (Option Mask) :=
  let i : BitVec 9 := w.extractLsb' 0 9
  let inv := v.extractLsb' 5 1 == 1
  match (v.extractLsb' 3 2).toNat with
  | 0 => if i.toNat < 256 then some (some ⟨.row (w.extractLsb' 0 8), inv⟩) else none
  | 1 => if i.toNat < 384 then some (some ⟨.col i, inv⟩) else none
  | 2 => if i.toNat < 384 then some (some ⟨.diag i, inv⟩) else none
  | _ => if i == 0 && !inv then some none else none

/-- The common fields, sources given. -/
def mkVF (w v : Word) (a b : Spec) : Option VF :=
  match decSpec (w.extractLsb' 9 11), decMask w v with
  | some d, some m => some ⟨fH w, d, m, a, b, v.extractLsb' 2 1 == 1, v.extractLsb' 1 1 == 1, v.extractLsb' 0 1 == 1⟩
  | _, _ => none

/-- The common fields with both source specifiers. -/
def decVF (w v : Word) : Option VF :=
  match decSpec (v.extractLsb' 17 11), decSpec (v.extractLsb' 6 11) with
  | some a, some b => mkVF w v a b
  | _, _ => none

/-- The fields of an instruction that gives word 1 [27:6] another use (R182). -/
def decVX (w v : Word) : Option VF := mkVF w v .absent .absent

/-- Majors whose operands are the three specifiers. -/
def opV (m s : Nat) (t : BitVec 2) (f : VF) : Option Instr :=
  match m, s with
  | 0x01, 0 => some (.vsetvl f)
  | 0x02, _ => some (.vadd t f) | 0x03, _ => some (.vsub t f) | 0x04, _ => some (.vmul t f) | 0x05, _ => some (.vfma t f)
  | 0x06, _ => some (.vmin t f) | 0x07, _ => some (.vmax t f) | 0x08, _ => some (.vabs t f) | 0x09, _ => some (.vneg t f)
  | 0x0A, _ => some (.vrcp t f) | 0x0B, _ => some (.vrsqrt t f) | 0x0C, _ => some (.vsqrt t f) | 0x0D, _ => some (.vexp2 t f)
  | 0x0E, _ => some (.vlog2 t f) | 0x0F, _ => some (.vsig t f) | 0x10, _ => some (.vtanh t f) | 0x11, _ => some (.vsilu t f)
  | 0x12, 0 => some (.vsel f) | 0x13, 0 => some (.vand f) | 0x14, 0 => some (.vor f) | 0x15, 0 => some (.vxor f)
  | 0x16, 0 => some (.vshl f) | 0x16, 1 => some (.vshr f) | 0x16, 2 => some (.vsra f)
  | 0x17, 0 => some (.vcmpEq 0 f) | 0x17, 1 => some (.vcmpLt 0 f) | 0x17, 2 => some (.vcmpLe 0 f) | 0x17, 3 => some (.vcmpNe 0 f)
  | 0x18, 0 => some (.vcmpEq 1 f) | 0x18, 1 => some (.vcmpLt 1 f) | 0x18, 2 => some (.vcmpLe 1 f) | 0x18, 3 => some (.vcmpNe 1 f)
  | 0x19, 0 => some (.vcmpEq 2 f) | 0x19, 1 => some (.vcmpLt 2 f) | 0x19, 2 => some (.vcmpLe 2 f) | 0x19, 3 => some (.vcmpNe 2 f)
  | 0x1A, 0 => some (.vcmpEq 3 f) | 0x1A, 1 => some (.vcmpLt 3 f) | 0x1A, 2 => some (.vcmpLe 3 f) | 0x1A, 3 => some (.vcmpNe 3 f)
  | 0x1B, 0 => some (.vmpop f) | 0x1B, 1 => some (.vmfirst f)
  | 0x1C, 0 => some (.vmlogAnd f) | 0x1C, 1 => some (.vmlogOr f) | 0x1C, 2 => some (.vmlogXor f) | 0x1C, 3 => some (.vmlogAndn f)
  | 0x1D, 0 => some (.vcvt f) | 0x1D, 1 => some (.vcvtSat f)
  | 0x1E, 0 => some (.vquant f) | 0x1F, 0 => some (.vbquant f) | 0x20, 0 => some (.vdequant f) | 0x21, 0 => some (.vpack f)
  | 0x22, 0 => some (.vunpack f)
  | 0x23, 0 => some (.vredAdd 0 f) | 0x23, 1 => some (.vredMax 0 f) | 0x23, 2 => some (.vredMin 0 f)
  | 0x24, 0 => some (.vredAdd 1 f) | 0x24, 1 => some (.vredMax 1 f) | 0x24, 2 => some (.vredMin 1 f)
  | 0x25, 0 => some (.vredAdd 2 f) | 0x25, 1 => some (.vredMax 2 f) | 0x25, 2 => some (.vredMin 2 f) | 0x25, 3 => some (.vredMaxn f)
  | 0x26, 0 => some (.vredMinn f) | 0x26, 1 => some (.vredAnd f) | 0x26, 2 => some (.vredOr f) | 0x26, 3 => some (.vredXor f)
  | 0x27, 0 => some (.vscanAdd 0 f) | 0x27, 1 => some (.vscanMax 0 f) | 0x27, 2 => some (.vscanMin 0 f)
  | 0x28, 0 => some (.vscanAdd 1 f) | 0x28, 1 => some (.vscanMax 1 f) | 0x28, 2 => some (.vscanMin 1 f)
  | 0x29, 0 => some (.vscanAdd 2 f) | 0x29, 1 => some (.vscanMax 2 f) | 0x29, 2 => some (.vscanMin 2 f) | 0x29, 3 => some (.vscanMaxn f)
  | 0x2A, 0 => some (.vscanMinn f) | 0x2A, 1 => some (.vscanAnd f) | 0x2A, 2 => some (.vscanOr f) | 0x2A, 3 => some (.vscanXor f)
  | 0x2B, 0 => some (.vcompress f) | 0x2C, 0 => some (.vexpand f)
  | 0x2D, 0 => some (.vslideUp f) | 0x2D, 1 => some (.vslideDown f) | 0x2E, 0 => some (.vperm f) | 0x2F, 0 => some (.vbcst f)
  | 0x30, 0 => some (.vid f) | 0x31, 0 => some (.vmove f) | 0x32, 0 => some (.vrand f) | 0x32, 1 => some (.vdrop f)
  | 0x33, 0 => some (.vstat f)
  | 0x34, _ => some (.vld t f) | 0x35, _ => some (.vst t f) | 0x36, _ => some (.vgath t f) | 0x37, _ => some (.vscat t f)
  | 0x38, _ => some (.vsaddI t f) | 0x39, _ => some (.vsaddF t f)
  | 0x3A, 0 => some (.vldq f) | 0x3A, 1 => some (.vstq f)
  | 0x3B, 0 => some (.vrel f) | 0x3B, 1 => some (.vfence f) | 0x3B, 2 => some (.vhalt f) | 0x3B, 3 => some (.vtrap f)
  | 0x3C, 0 => some (.eadd f) | 0x3C, 1 => some (.eaddi f) | 0x3C, 2 => some (.esub f) | 0x3C, 3 => some (.emul f)
  | 0x3D, 1 => some (.epop f) | 0x3D, 2 => some (.epush f)
  | 0x3F, 1 => some (.vret f)
  | _, _ => none

/-- Instructions that give word 1 [27:6] another use (R182). -/
def opX (m s : Nat) (v : Word) (f : VF) : Option Instr :=
  let off : BitVec 22 := v.extractLsb' 6 22
  match m, s with
  | 0x01, 1 => ifc (v.extractLsb' 12 2 == 0) (.vsetvli f (v.extractLsb' 14 14) (v.extractLsb' 6 6))
  | 0x3D, 0 => some (.eli f off)
  | 0x3D, 3 => ifc (v.extractLsb' 27 1 == 0 && v.extractLsb' 6 11 == 0x6FF#11) (.eget f (v.extractLsb' 17 10))
  | 0x3E, 0 => some (.vbr f off) | 0x3E, 1 => some (.vbrm f off) | 0x3E, 2 => some (.vbrd f off)
  | 0x3E, 3 => ifc (off == 0) (.vjoin f)
  | 0x3F, 0 => some (.vjal f off)
  | _, _ => none

/-- Whether the major and sub-function give word 1 [27:6] another use. -/
def isX (m s : Nat) : Bool := (m == 1 && s == 1) || (m == 0x3D && (s == 0 || s == 3)) || m == 0x3E || (m == 0x3F && s == 0)

/-- Decodes a V-stream instruction. -/
def decodeV (w v : Word) : Option Instr :=
  let m := fMaj w; let s := (w.extractLsb' 20 2).toNat; let t : BitVec 2 := w.extractLsb' 20 2
  if v.extractLsb' 28 4 != 0 then none
  else
    let i := if isX m s then (match decVX w v with | some f => opX m s v f | none => none)
      else (match decVF w v with | some f => opV m s t f | none => none)
    match i with
    | some i => ifc i.wf i
    | none => none

/-! ### The encoder -/

def cr (h : Hal) (m : BitVec 6) (d a b : Reg) (fn : BitVec 4) : Word := h ++ m ++ d ++ a ++ b ++ fn
def ci (h : Hal) (m : BitVec 6) (d a : Reg) (imm : BitVec 10) : Word := h ++ m ++ d ++ a ++ imm
def cu (h : Hal) (m : BitVec 6) (d : Reg) (imm : BitVec 16) : Word := h ++ m ++ d ++ imm
/-- A second word: a zero nibble above 28 body bits. -/
def w2 (body : BitVec 28) : Word := (0 : BitVec 4) ++ body
def r4 (b : BitVec 4) : Reg := (0 : BitVec 2) ++ b
def r5 (b : BitVec 5) : Reg := (0 : BitVec 1) ++ b
def r3 (b : BitVec 3) : Reg := (0 : BitVec 3) ++ b
def r2 (b : BitVec 2) : Reg := (0 : BitVec 4) ++ b
def b1 (b : Bool) : BitVec 1 := bit b

def encMem (m : MemOrd) (op : BitVec 4) (c : Reg) : Word :=
  w2 (m.scope ++ b1 m.aq ++ b1 m.rl ++ m.space ++ m.size ++ op ++ c ++ m.off)
def encCopy (f : CopyF) : Word := w2 (f.pt ++ f.c1 ++ f.c2 ++ f.c3 ++ f.scope ++ f.dsp ++ f.ssp ++ b1 f.rb)
def encQSrc : QSrc → BitVec 6
  | .stream n => (0 : BitVec 2) ++ n
  | .rank r => (1 : BitVec 1) ++ r

def encSpec : Spec → BitVec 11
  | .view (.row i) => (0 : BitVec 3) ++ i
  | .view (.col i) => (1 : BitVec 2) ++ i
  | .view (.diag i) => (2 : BitVec 2) ++ i
  | .ereg n => (0b11 : BitVec 2) ++ (0 : BitVec 5) ++ n
  | .port n => (0b11 : BitVec 2) ++ (1 : BitVec 5) ++ n
  | .absent => 0x6FF
  | .imm v => (0b111 : BitVec 3) ++ v

def encMaskIdx : Option Mask → BitVec 9
  | some ⟨.row i, _⟩ => (0 : BitVec 1) ++ i
  | some ⟨.col i, _⟩ => i
  | some ⟨.diag i, _⟩ => i
  | none => 0
def encMaskKind : Option Mask → BitVec 2
  | some ⟨.row _, _⟩ => 0
  | some ⟨.col _, _⟩ => 1
  | some ⟨.diag _, _⟩ => 2
  | none => 3
def encMaskPol : Option Mask → Bool
  | some m => m.inv
  | none => false

/-- Word 0 of a V-stream instruction. -/
def v0 (m : BitVec 6) (s : BitVec 2) (f : VF) : Word := f.h ++ m ++ s ++ encSpec f.d ++ encMaskIdx f.mask
/-- Word 1, its bits [27:6] given. -/
def v1x (x : BitVec 22) (f : VF) : Word :=
  (0 : BitVec 4) ++ x ++ b1 (encMaskPol f.mask) ++ encMaskKind f.mask ++ b1 f.maskAgn ++ b1 f.tailAgn ++ b1 f.ce
/-- The two words of an instruction whose sources are specifiers. -/
def vw (m : BitVec 6) (s : BitVec 2) (f : VF) : List Word := [v0 m s f, v1x (encSpec f.a ++ encSpec f.b) f]
def vx (m : BitVec 6) (s : BitVec 2) (f : VF) (x : BitVec 22) : List Word := [v0 m s f, v1x x f]

/-- The words of a C-stream instruction (R175, R187 to R190, R256 to R282, R367). -/
def encodeC : Instr → List Word
  | .add h d a b => [cr h 0x01 d a b 0] | .sub h d a b => [cr h 0x01 d a b 1] | .mul h d a b => [cr h 0x01 d a b 2]
  | .mulh h d a b => [cr h 0x01 d a b 3] | .mulhn h d a b => [cr h 0x01 d a b 4] | .div h d a b => [cr h 0x01 d a b 5]
  | .divn h d a b => [cr h 0x01 d a b 6] | .rem h d a b => [cr h 0x01 d a b 7] | .remn h d a b => [cr h 0x01 d a b 8]
  | .and h d a b => [cr h 0x01 d a b 9] | .or h d a b => [cr h 0x01 d a b 10] | .xor h d a b => [cr h 0x01 d a b 11]
  | .sll h d a b => [cr h 0x01 d a b 12] | .srl h d a b => [cr h 0x01 d a b 13] | .sra h d a b => [cr h 0x01 d a b 14]
  | .slt h d a b => [cr h 0x01 d a b 15]
  | .sltn h d a b => [cr h 0x02 d a b 0] | .min h d a b => [cr h 0x02 d a b 1] | .max h d a b => [cr h 0x02 d a b 2]
  | .minn h d a b => [cr h 0x02 d a b 3] | .maxn h d a b => [cr h 0x02 d a b 4] | .clz h d a => [cr h 0x02 d a 0 5]
  | .ctz h d a => [cr h 0x02 d a 0 6] | .popc h d a => [cr h 0x02 d a 0 7]
  | .adda h d a b => [cr h 0x03 d a b 0] | .tagset h d a b => [cr h 0x03 d a b 1] | .tagget h d a => [cr h 0x03 d a 0 2]
  | .fadd h d a b => [cr h 0x04 d a b 0] | .fmul h d a b => [cr h 0x04 d a b 1] | .fmin h d a b => [cr h 0x04 d a b 2]
  | .fmax h d a b => [cr h 0x04 d a b 3] | .fcmpEq h d a b => [cr h 0x04 d a b 4] | .fcmpLt h d a b => [cr h 0x04 d a b 5]
  | .fcmpLe h d a b => [cr h 0x04 d a b 6]
  | .barinit h a b => [cr h 0x05 0 a (r4 b) 0] | .barinitCad h d a b => [cr h 0x05 d a (r4 b) 1]
  | .bararr h b => [cr h 0x05 0 0 (r4 b) 2] | .barwait h b => [cr h 0x05 0 0 (r4 b) 3] | .pend h b => [cr h 0x05 0 0 (r4 b) 4]
  | .pendCad h b => [cr h 0x05 0 0 (r4 b) 5] | .tkwait h t => [cr h 0x05 0 0 (r5 t) 6] | .tkpoll h d t => [cr h 0x05 d 0 (r5 t) 7]
  | .vstart h a => [cr h 0x06 0 a 0 0] | .vpush h a => [cr h 0x06 0 a 0 1] | .vpop h d => [cr h 0x06 d 0 0 2]
  | .vsync h => [cr h 0x06 0 0 0 3] | .inpop h d b => [cr h 0x06 d 0 (r4 b) 4] | .inpeek h d b => [cr h 0x06 d 0 (r4 b) 5]
  | .aiset h a b => [cr h 0x06 0 a b 6] | .aret h => [cr h 0x06 0 0 0 7]
  | .ecall h => [cr h 0x07 0 0 0 0] | .ebreak h => [cr h 0x07 0 0 0 1] | .pause h => [cr h 0x07 0 0 0 2]
  | .addi h d a m => [ci h 0x08 d a m] | .andi h d a m => [ci h 0x09 d a m] | .ori h d a m => [ci h 0x0A d a m]
  | .xori h d a m => [ci h 0x0B d a m] | .slli h d a s => [ci h 0x0C d a ((0 : BitVec 4) ++ s)]
  | .srli h d a s => [ci h 0x0D d a ((0 : BitVec 4) ++ s)] | .srai h d a s => [ci h 0x0E d a ((0 : BitVec 4) ++ s)]
  | .slti h d a m => [ci h 0x0F d a m] | .fcvt h d a m x y => [ci h 0x10 d a (m ++ x ++ y ++ (0 : BitVec 1))]
  | .ld h d a sp sz o => [ci h 0x11 d a (sp ++ sz ++ o)] | .ldn h d a sp sz o => [ci h 0x12 d a (sp ++ sz ++ o)]
  | .st h d a sp sz o => [ci h 0x13 d a (sp ++ sz ++ o)] | .jalr h d a m => [ci h 0x14 d a m]
  | .lpset h n a m => [ci h 0x15 (r3 n) a m] | .lpidx h d n => [ci h 0x16 d 0 ((0 : BitVec 7) ++ n)]
  | .fence h s => [ci h 0x17 0 0 ((0 : BitVec 7) ++ s)] | .kget h d k => [ci h 0x18 d 0 k] | .kset h a k => [ci h 0x19 0 a k]
  | .kbis h a k => [ci h 0x1A 0 a k] | .kbic h a k => [ci h 0x1B 0 a k]
  | .li h d m => [cu h 0x1C d m] | .lis h d m => [cu h 0x1D d m] | .jal h d m => [cu h 0x1E d m]
  | .beq h a b o => [ci h 0x20 a b o] | .bne h a b o => [ci h 0x21 a b o] | .blt h a b o => [ci h 0x22 a b o]
  | .bge h a b o => [ci h 0x23 a b o] | .bltn h a b o => [ci h 0x24 a b o] | .bgen h a b o => [ci h 0x25 a b o]
  | .lpend h n o => [ci h 0x26 (r3 n) 0 o]
  | .amo h d a b op m => [cr h 0x27 d a b 0, encMem m op 0] | .amocas h d a b c m => [cr h 0x27 d a b 1, encMem m 0 c]
  | .waitge h a b m => [cr h 0x27 0 a b 2, encMem m 0 0] | .ldOrdered h d a m => [cr h 0x27 d a 0 3, encMem m 0 0]
  | .ldnOrdered h d a m => [cr h 0x27 d a 0 4, encMem m 0 0] | .stOrdered h d a m => [cr h 0x27 d a 0 5, encMem m 0 0]
  | .qbase h a b n sp ssp => [cr h 0x28 0 a b 0, w2 (n ++ sp ++ ssp ++ (0 : BitVec 20))]
  | .qdim h d a b n j k => [cr h 0x28 d a b 1, w2 (n ++ j ++ b1 k ++ (0 : BitVec 21))]
  | .qfmt h a n fmt t => [cr h 0x28 0 a 0 2, w2 (n ++ fmt ++ t ++ (0 : BitVec 18))]
  | .qstart h a n => [cr h 0x28 0 a 0 3, w2 (n ++ (0 : BitVec 24))] | .qstop h n => [cr h 0x28 0 0 0 4, w2 (n ++ (0 : BitVec 24))]
  | .qstat h a n sp t => [cr h 0x28 0 a 0 5, w2 (n ++ sp ++ t ++ (0 : BitVec 17))]
  | .qfill h a sa sb na nb => [cr h 0x28 0 a 0 6, w2 (encQSrc sa ++ encQSrc sb ++ na ++ nb ++ (0 : BitVec 10))]
  | .qrow h a n v => [cr h 0x28 0 a 0 7, w2 (n ++ v ++ (0 : BitVec 16))]
  | .qstore h a n col idx cvt mode t sc tke =>
    [cr h 0x28 0 a 0 8, w2 (n ++ (0 : BitVec 1) ++ b1 col ++ idx ++ b1 cvt ++ mode ++ t ++ sc ++ b1 tke ++ (0 : BitVec 1))]
  | .gupd h a fa fb half => [cr h 0x29 0 a 0 0, w2 (fa ++ fb ++ half ++ (0 : BitVec 18))]
  | .gclr h v n => [cr h 0x29 0 0 0 1, w2 (v ++ n ++ (0 : BitVec 12))]
  | .gdone h v n => [cr h 0x29 0 0 0 2, w2 (v ++ n ++ (0 : BitVec 12))]
  | .glim h c r => [cr h 0x29 0 0 0 3, w2 (c ++ r ++ (0 : BitVec 12))] | .gchk h => [cr h 0x29 0 0 0 4, w2 0]
  | .xcopy h d a b f => [cr h 0x2A d a b 0, encCopy f] | .xfill h d a b f => [cr h 0x2A d a b 1, encCopy f]
  | .xtag h d a b f => [cr h 0x2A d a b 2, encCopy f] | .xtagrd h d a b f => [cr h 0x2A d a b 3, encCopy f]
  | .xgath h d a b f => [cr h 0x2A d a b 4, encCopy f] | .xscat h d a b f => [cr h 0x2A d a b 5, encCopy f]
  | .xsadd h d a b f => [cr h 0x2A d a b 6, encCopy f] | .xbcast h d a b f => [cr h 0x2A d a b 7, encCopy f]
  | .xred h d a b f => [cr h 0x2A d a b 8, encCopy f] | .xenq h d a b f => [cr h 0x2A d a b 9, encCopy f]
  | .xpref h a b f => [cr h 0x2A 0 a b 10, encCopy f]
  | .stbind h a n => [cr h 0x2B 0 a 0 0, w2 (n ++ (0 : BitVec 24))]
  | .stflush h a all => [cr h 0x2B 0 a 0 1, w2 (b1 all ++ (0 : BitVec 27))]
  | .stread h a b sp => [cr h 0x2B 0 a b 2, w2 (sp ++ (0 : BitVec 26))]
  | .streset h a b sp => [cr h 0x2B 0 a b 3, w2 (sp ++ (0 : BitVec 26))] | .starm h a b => [cr h 0x2B 0 a b 4, w2 0]
  | .eret h => [cr h 0x3F 0 0 0 0] | .wfi h => [cr h 0x3F 0 0 0 1] | .tlbinv h s a b => [cr h 0x3F (r2 s) a b 2]
  | .tlbflush h s a => [cr h 0x3F (r2 s) a 0 3] | .ctxsave h a b => [cr h 0x3F 0 a b 4] | .ctxload h a => [cr h 0x3F 0 a 0 5]
  | .ctxwait h d => [cr h 0x3F d 0 0 6] | .halt h a b => [cr h 0x3F 0 a b 7]
  | _ => []

/-- The words of a V-stream instruction (R178, R182, R192). -/
def encodeV : Instr → List Word
  | .vsetvl f => vw 0x01 0 f | .vsetvli f c g => vx 0x01 1 f (c ++ (0 : BitVec 2) ++ g)
  | .vadd t f => vw 0x02 t f | .vsub t f => vw 0x03 t f | .vmul t f => vw 0x04 t f | .vfma t f => vw 0x05 t f
  | .vmin t f => vw 0x06 t f | .vmax t f => vw 0x07 t f | .vabs t f => vw 0x08 t f | .vneg t f => vw 0x09 t f
  | .vrcp t f => vw 0x0A t f | .vrsqrt t f => vw 0x0B t f | .vsqrt t f => vw 0x0C t f | .vexp2 t f => vw 0x0D t f
  | .vlog2 t f => vw 0x0E t f | .vsig t f => vw 0x0F t f | .vtanh t f => vw 0x10 t f | .vsilu t f => vw 0x11 t f
  | .vsel f => vw 0x12 0 f | .vand f => vw 0x13 0 f | .vor f => vw 0x14 0 f | .vxor f => vw 0x15 0 f
  | .vshl f => vw 0x16 0 f | .vshr f => vw 0x16 1 f | .vsra f => vw 0x16 2 f
  | .vcmpEq t f => vw (0x17 + t.setWidth 6) 0 f | .vcmpLt t f => vw (0x17 + t.setWidth 6) 1 f
  | .vcmpLe t f => vw (0x17 + t.setWidth 6) 2 f | .vcmpNe t f => vw (0x17 + t.setWidth 6) 3 f
  | .vmpop f => vw 0x1B 0 f | .vmfirst f => vw 0x1B 1 f
  | .vmlogAnd f => vw 0x1C 0 f | .vmlogOr f => vw 0x1C 1 f | .vmlogXor f => vw 0x1C 2 f | .vmlogAndn f => vw 0x1C 3 f
  | .vcvt f => vw 0x1D 0 f | .vcvtSat f => vw 0x1D 1 f | .vquant f => vw 0x1E 0 f | .vbquant f => vw 0x1F 0 f
  | .vdequant f => vw 0x20 0 f | .vpack f => vw 0x21 0 f | .vunpack f => vw 0x22 0 f
  | .vredAdd g f => vw (0x23 + g.setWidth 6) 0 f | .vredMax g f => vw (0x23 + g.setWidth 6) 1 f
  | .vredMin g f => vw (0x23 + g.setWidth 6) 2 f
  | .vredMaxn f => vw 0x25 3 f | .vredMinn f => vw 0x26 0 f | .vredAnd f => vw 0x26 1 f | .vredOr f => vw 0x26 2 f
  | .vredXor f => vw 0x26 3 f
  | .vscanAdd g f => vw (0x27 + g.setWidth 6) 0 f | .vscanMax g f => vw (0x27 + g.setWidth 6) 1 f
  | .vscanMin g f => vw (0x27 + g.setWidth 6) 2 f
  | .vscanMaxn f => vw 0x29 3 f | .vscanMinn f => vw 0x2A 0 f | .vscanAnd f => vw 0x2A 1 f | .vscanOr f => vw 0x2A 2 f
  | .vscanXor f => vw 0x2A 3 f
  | .vcompress f => vw 0x2B 0 f | .vexpand f => vw 0x2C 0 f | .vslideUp f => vw 0x2D 0 f | .vslideDown f => vw 0x2D 1 f
  | .vperm f => vw 0x2E 0 f | .vbcst f => vw 0x2F 0 f | .vid f => vw 0x30 0 f | .vmove f => vw 0x31 0 f
  | .vrand f => vw 0x32 0 f | .vdrop f => vw 0x32 1 f | .vstat f => vw 0x33 0 f
  | .vld t f => vw 0x34 t f | .vst t f => vw 0x35 t f | .vgath t f => vw 0x36 t f | .vscat t f => vw 0x37 t f
  | .vsaddI t f => vw 0x38 t f | .vsaddF t f => vw 0x39 t f | .vldq f => vw 0x3A 0 f | .vstq f => vw 0x3A 1 f
  | .vrel f => vw 0x3B 0 f | .vfence f => vw 0x3B 1 f | .vhalt f => vw 0x3B 2 f | .vtrap f => vw 0x3B 3 f
  | .eadd f => vw 0x3C 0 f | .eaddi f => vw 0x3C 1 f | .esub f => vw 0x3C 2 f | .emul f => vw 0x3C 3 f
  | .eli f m => vx 0x3D 0 f m | .epop f => vw 0x3D 1 f | .epush f => vw 0x3D 2 f
  | .eget f n => vx 0x3D 3 f ((0 : BitVec 1) ++ n ++ (0x6FF : BitVec 11))
  | .vbr f o => vx 0x3E 0 f o | .vbrm f o => vx 0x3E 1 f o | .vbrd f o => vx 0x3E 2 f o | .vjoin f => vx 0x3E 3 f 0
  | .vjal f o => vx 0x3F 0 f o | .vret f => vw 0x3F 1 f
  | _ => []

/-- The words of an instruction; an event has none. -/
def encode (i : Instr) : List Word := if i.isV then encodeV i else encodeC i

/-- The encoding as `%tval` holds it (R184): the first word in [31:0], a second in [63:32]. -/
def encWord (i : Instr) : DWord :=
  match encode i with
  | [w] => (0 : Word) ++ w
  | [w, v] => v ++ w
  | _ => 0

/-- The decoder of a C-stream instruction given by its bits as spec/opcode_table.json numbers them. -/
def decodeTableWord (_nbits w : Nat) : Option Instr := decodeC (BitVec.ofNat 32 w) (BitVec.ofNat 32 (w >>> 32))

end Sys2Proof
end

