-- ==== Sys2Proof/Config.lean ====
section
/-! DEFINITION. What the spec leaves open: free values (constants with no body, so that no proof can learn them) and the
constants that one module's flash, signing keys and board fix. -/

namespace Sys2Proof.Config

/-- A free choice among `n` outcomes for the `k`-th choice of a run, where the spec allows several outcomes and names none
(R135, R137, R138, R148, R296). Taken modulo `n` by its only user. -/
opaque freePick : Nat → Nat → Nat
/-- The free bits of an unstated value (log 5): a register or memory content that the spec gives no value for. -/
opaque freeBits : Nat → Nat

/-- The module's 16-byte serial (R468). -/
opaque serial : BitVec 128
/-- The corrected response of the on-die PUF (R472). -/
opaque pufResponse : BitVec 256
/-- Whether the body of a kind 0x06 record certifies a public key for this module (R470, R472); its layout is not given. -/
opaque certifies : List Byte → List Byte → Bool
/-- SHAKE256 of FIPS 202, `n` bytes (R469, R472, R474); its text is outside the spec. -/
opaque shake256 : List Byte → Nat → List Byte
/-- HashML-DSA-65 verification under FIPS 204: public key, context, message digest, signature (R469). -/
opaque mldsaVerify : List Byte → List Byte → List Byte → List Byte → Bool
/-- ML-DSA-65 key generation from a seed: the public and the private key (R472). -/
opaque mldsaPub : List Byte → List Byte
/-- ML-DSA-65 key generation from a seed: the private key (R472). -/
opaque mldsaPriv : List Byte → List Byte
/-- HashML-DSA-65 signing: private key, context, message digest (R474). -/
opaque mldsaSign : List Byte → List Byte → List Byte → List Byte
/-- The Rhosan root public key in the ROM of each die (R469). -/
opaque rootKey : List Byte
/-- The bytes of sections 1 to 57 of a den slot after the number of their save, by that number: the spec leaves the layout to the
stepping (R416, log 8). -/
opaque sectionByte : Nat → Nat → Byte
/-- A field of the body of a configuration record (R476), whose layout the spec does not give: 0 the module number, 1 and 2 the
base and size of a die's den, 3 a cluster's report rings, 4 the management block, 5 a peer's ports, 6 an aperture entry,
7 the lock, 8 the power limit; then the index. -/
opaque recordField : List Byte → Nat → Nat → Nat
/-- How peer module `m` answers a request to a 2 MiB frame of its window (R462): 0 refused, 1 read only, 2 read and write,
3 poison. Taken modulo 4 by its only user. -/
opaque peerGrant : Nat → Nat → Nat
/-- An entry of the inbound aperture table (R462) that the runtime has not set in this run. -/
opaque inboundEntry : Nat → BitVec 64
/-- What boot firmware leaves in memory before it starts a core, beside the ASID-0 tables and the march image (R475). -/
opaque bootImage : List Byte → List (Nat × Byte)
/-- The answer to a key agreement message (R465, R474); the protocol is outside the spec. -/
opaque ideAnswer : BitVec 256 → List Byte

end Sys2Proof.Config
end

