-- ==== Sys2Proof/Machine/Sparse.lean ====
section
/-! DEFINITION. Sparse maps as sorted lists of pairs: the one form in which memories, register files and tables are held.
`smSet` keeps the canonical form (keys strictly rising, no entry equal to the default); `smPut` keeps the keys rising. -/

namespace Sys2Proof.Machine

/-- A finite map from numbers, as a list of pairs. -/
abbrev SMap (α : Type) := List (Nat × α)

/-- The entry of `k`, or the default. -/
def smGet {α : Type} (d : α) : SMap α → Nat → α
  | [], _ => d
  | (k', v) :: t, k => if k' = k then v else smGet d t k

/-- Removes every entry of `k`. -/
def smErase {α : Type} : SMap α → Nat → SMap α
  | [], _ => []
  | (k', v) :: t, k => if k' = k then smErase t k else (k', v) :: smErase t k

/-- Inserts a new entry before the first larger key. -/
def smIns {α : Type} : SMap α → Nat → α → SMap α
  | [], k, v => [(k, v)]
  | (k', v') :: t, k, v => if k < k' then (k, v) :: (k', v') :: t else (k', v') :: smIns t k v

/-- Writes an entry, listed whatever its value. -/
def smPut {α : Type} (m : SMap α) (k : Nat) (v : α) : SMap α := smIns (smErase m k) k v

/-- Writes an entry in canonical form: writing the default removes the entry. -/
def smSet {α : Type} [DecidableEq α] (d : α) (m : SMap α) (k : Nat) (v : α) : SMap α :=
  if v = d then smErase m k else smPut m k v

/-- The entry of `k`, if one is listed. -/
def smFind {α : Type} (m : SMap α) (k : Nat) : Option α := (m.find? fun p => p.1 == k).map (·.2)

/-- Whether an entry is listed. -/
def smHas {α : Type} (m : SMap α) (k : Nat) : Bool := m.any fun p => p.1 == k

/-- The keys rise strictly above `lo` and no entry equals the default. -/
def smWfFrom {α : Type} [DecidableEq α] (d : α) : Nat → SMap α → Bool
  | _, [] => true
  | lo, (k, v) :: t => decide (lo ≤ k) && decide (v ≠ d) && smWfFrom d (k + 1) t

/-- The canonical form of a sparse map. -/
abbrev smWf {α : Type} [DecidableEq α] (d : α) (m : SMap α) : Prop := smWfFrom d 0 m = true

/-- A byte-addressed memory: a list of cells in canonical form. -/
abbrev Mem := List Host.Cell

/-- What a byte that no entry lists reads as (log 2). -/
def emptyByte : Byte := 0

/-- One byte. -/
def memGet (m : Mem) (a : Nat) : Byte := smGet emptyByte m a
/-- Writes one byte. -/
def memSet (m : Mem) (a : Nat) (b : Byte) : Mem := smSet emptyByte m a b
/-- The canonical form of a memory. -/
abbrev Mem.wf (m : Mem) : Prop := smWf emptyByte m

/-- `n` bytes from `a`, the first lowest (R5). -/
def memBytes (m : Mem) (a : Nat) : Nat → List Byte
  | 0 => []
  | n + 1 => memGet m a :: memBytes m (a + 1) n
/-- Writes bytes from `a` upward. -/
def memPut (m : Mem) (a : Nat) : List Byte → Mem
  | [] => m
  | b :: bs => memPut (memSet m a b) (a + 1) bs

/-- The little-endian value of bytes (R5). -/
def leVal : List Byte → Nat
  | [] => 0
  | b :: bs => b.toNat + 256 * leVal bs
/-- `n` little-endian bytes of a value. -/
def leBytes (v : Nat) : Nat → List Byte
  | 0 => []
  | n + 1 => BitVec.ofNat 8 v :: leBytes (v / 256) n

/-- `n` bytes as a number. -/
def memRd (m : Mem) (a n : Nat) : Nat := leVal (memBytes m a n)
/-- Sets the `n` bytes from `a` to zero. -/
def memClear (m : Mem) (a n : Nat) : Mem := m.filter fun p => decide (p.1 < a) || decide (a + n ≤ p.1)
/-- Writes a number in `n` bytes. -/
def memWr (m : Mem) (a n v : Nat) : Mem := memPut m a (leBytes v n)

end Sys2Proof.Machine
end

