-- ==== Sys2Proof/Machine/State.lean ====
section
/-! DEFINITION. The state of the module: cores, gangs, clusters, memories, queues, the command processors' tables, debug
blocks, flash and links (R16 to R28, R113, R335, R357, R395 to R416, R440 to R452, R466, R476 to R486), and reset. Plain
data throughout; the assumption log's entries are named by number. -/

namespace Sys2Proof.Machine

/-- Why the module stops. -/
inductive Fault where
  /-- Raised by `step` when the module has removed its own power or was never powered (R486): nothing runs. Safe. -/
  | noPower
  deriving DecidableEq, Repr

/-- Why an instruction has no meaning here. -/
inductive Refusal where
  /-- Raised by an arm of `exec` that has no meaning yet. Safe: it only stops the run. -/
  | notModelled (mnemonic : String)
  deriving DecidableEq, Repr

/-! ### Pieces of a core -/

/-- A loop register (R221). -/
structure Loop where
  active : Bool := false
  remaining : BitVec 32 := 0
  index : BitVec 32 := 0
  start : VAddr := 0
  stop : Option VAddr := none
  deriving DecidableEq, Repr

/-- A token slot (R55): pending, with the producer's scope. -/
structure Token where
  pending : Bool := false
  scope : BitVec 3 := 0
  deriving DecidableEq, Repr

/-- A trap waiting to be taken (R251, R284, R363), one per source. -/
structure PTrap where
  src : BitVec 3
  code : BitVec 8
  epc : VAddr
  tval : DWord
  /-- `%pfrec` for a posted fault (R360) -/
  pfrec : DWord
  deriving DecidableEq, Repr

/-- A deferred report on its way to its core, or arrived (R388): the cause 0x06 or 0x08 and its value. -/
structure Report where
  code : BitVec 8
  tval : DWord
  deriving DecidableEq, Repr

/-- A cached leaf translation (R380): ASID, virtual base, size and the leaf. -/
structure TlbEntry where
  asid : BitVec 10
  base : Nat
  size : Nat
  pte : DWord
  deriving DecidableEq, Repr

/-- A cached non-leaf entry (R380): the table that the virtual addresses with the same bits from `lo` upward lead to. -/
structure WalkEntry where
  asid : BitVec 10
  lo : Nat
  page : Nat
  table : Nat
  deriving DecidableEq, Repr

/-- A posted instruction with the register values read at commit (R177). -/
structure Posted where
  instr : Instr
  d : DWord := 0
  a : DWord := 0
  b : DWord := 0
  a1 : DWord := 0
  pc : VAddr := 0
  /-- its halyard waits are taken (R51) -/
  waited : Bool := false
  /-- it has begun; for a producer, its slot is pending -/
  started : Bool := false
  /-- entries, elements or updates done; `progB` is the `qb` side of a `qfill` -/
  prog : Nat := 0
  progB : Nat := 0
  /-- elements gathered of the entry in progress, on each side (R262) -/
  partA : List (Nat × Nat) := []
  partB : List (Nat × Nat) := []
  /-- the element addresses a store walk has written, for overlaps (R137, log 31) -/
  seen : List Nat := []
  /-- flags that local completion ORs into `%fflags` (R84) -/
  flags : BitVec 6 := 0
  /-- it has reached local completion and made its signals, with writes to memory left to make (R52) -/
  signed : Bool := false
  /-- a posted fault stopped it: the stream register whose walk it stopped, 0 for a grid instruction (R368) -/
  fault : Option Nat := none
  deriving DecidableEq, Repr

/-- An operand-queue entry (R116): format, raw elements, scale bytes, the block of each scaled element with whether it is the
block's last (R72), and the elements poisoned by their own parity and by that of a scale byte of their block (R436). -/
structure QEntry where
  fmt : BitVec 4
  elems : List Nat
  scales : List Nat := []
  blocks : List (Nat × Bool) := []
  badElem : List Nat := []
  badScale : List Nat := []
  deriving DecidableEq, Repr

/-- A stream register (R253). -/
structure StreamReg where
  base : DWord := 0
  sp : BitVec 2 := 0
  sbase : DWord := 0
  ssp : BitVec 2 := 0
  count : SMap Nat := []
  stride : SMap Int := []
  sstride : SMap Int := []
  kdim : BitVec 2 := 3
  fmt : BitVec 4 := 0
  target : BitVec 2 := 0
  mcast : BitVec 24 := 0
  recEn : Bool := false
  recId : BitVec 20 := 0
  pos : Nat := 0
  active : Bool := false
  /-- the translations that look-ahead keeps ready (R255) -/
  ahead : List TlbEntry := []
  deriving DecidableEq, Repr

/-- The state of a row (R105). -/
inductive RowSt where
  | v | g | gr
  deriving DecidableEq, Repr

/-- An update that has issued and not yet retired (R264). -/
structure Upd where
  qa : List QEntry
  qb : List QEntry
  half : BitVec 2
  int : Bool
  cols : Nat
  rows : Nat
  /-- number within its `gupd`, the posting address, and whether it is the last -/
  num : Nat
  pc : VAddr
  last : Bool
  h : Hal
  deriving DecidableEq, Repr

/-- A `gdone` that has executed and whose rows are not all handed over (R107). -/
structure Done where
  rows : List Nat
  h : Hal
  deriving DecidableEq, Repr

/-- A copy instruction in flight (R270). -/
structure Flight where
  p : Posted
  /-- sampled slots not yet seen idle -/
  waits : List Nat
  /-- the first element not completed, and the end of the chunk formed (R384) -/
  k : Nat := 0
  chunk : Nat := 0
  pins : List TlbEntry := []
  /-- a posted fault stopped it -/
  stopped : Bool := false
  /-- the fault that the formation of a chunk has noted at its end (R384) -/
  noted : Option (BitVec 8 × DWord) := none
  /-- the element read whose write is held, with its value: it is not read again (R129) -/
  got : Option (Nat × Nat) := none
  /-- the packed requests of an `xgath`'s chunk, once they are sent: the offset each peer's port was chosen by (R463) -/
  asked : Option (SMap Nat) := none
  /-- entries of an `xenq` not yet accepted -/
  unacked : Nat := 0
  sentAll : Bool := false
  deriving DecidableEq, Repr

/-- A partial statistics record (R156, R164). -/
structure Partial where
  amax : BitVec 32 := 0
  nonfinite : Nat := 0
  count : Nat := 0
  bins : SMap Nat := []
  deriving DecidableEq, Repr

/-- A combining-buffer entry (R164), or one on its way to its home die (R166). -/
structure Comb where
  id : BitVec 20
  base : Int
  p : Partial := {}
  /-- frozen aclk do not age an entry (R445) -/
  age : Nat := 0
  asid : BitVec 10 := 0
  launch : Nat := 0
  core : Nat := 0
  eng : Nat := 0
  /-- physical address of the record -/
  pa : Nat := 0
  deriving DecidableEq, Repr

/-- A sett entry (R331); `running` is the state. -/
structure SettE where
  pc : VAddr
  set : BitVec 12288
  joined : BitVec 12288 := 0
  running : Bool := false
  deriving DecidableEq, Repr

/-- The stop record of a convoy stopped inside itself (R290). -/
structure StopRec where
  waits : Bool := false
  cmask : BitVec 12288 := 0
  /-- the record samples, by record id -/
  sample : SMap (List Byte) := []
  ovf : Option Nat := none
  deriving DecidableEq, Repr

/-- A fault of an element, found before its elements run (R325). -/
structure EFault where
  k : Nat
  code : BitVec 8
  tval : DWord
  /-- the element itself completes: a load tag fault -/
  after : Bool := false
  /-- the poison fault has a report-ring entry to write (R389): whether a walk read met it, and its address field -/
  ring : Option (Bool × DWord) := none
  /-- the watchpoint that the faulting access hit at its translation (R443) -/
  watch : Option Nat := none
  deriving DecidableEq, Repr

/-- What a memory convoy has done of an element group before a chunk ended inside it, to be taken back where the convoy stops at the
group's start (R290): the group's first element not done, the cells and the extents the rest has written over, and the results as they
stood. -/
structure Part where
  k : Nat
  cells : List (Nat × Word) := []
  dirty : List (Nat × Nat) := []
  flags : BitVec 6 := 0
  contrib : List (BitVec 20 × BitVec 4 × Nat) := []
  ovf : Option Nat := none
  deriving DecidableEq, Repr

/-- The convoy in flight: its members, the elements done, the range the run in progress works on, and what it commits at
retirement (R286 to R290). -/
structure Convoy where
  pc : VAddr
  next : VAddr
  members : List Instr
  encs : List DWord
  restartable : Bool
  /-- `%vstart` at issue, and the largest element count of a member -/
  v0 : Nat
  n : Nat
  /-- the range of the run in progress, its members not yet run, and whether it takes in the last elements and the tail -/
  lo : Nat
  hi : Nat
  todo : List Instr := []
  last : Bool := false
  /-- the run only looks for faults: it makes no access that others can see -/
  probe : Bool := false
  /-- a run that forms the chunk of the memory member (R384), and one that looks past a stop (R326) -/
  form : Bool := false
  ahead : Bool := false
  /-- the end of the chunk formed, and the fault noted there (R384) -/
  chunk : Nat := 0
  noted : Option EFault := none
  /-- stalled at an element group by a row, or held at a memory port: its chunk may end (R385) -/
  stalled : Bool := false
  /-- a fault met at `lo`, whose stop waits for the contributions of the elements below it (R62, R163) -/
  due : Option EFault := none
  /-- first mismatches that the convoy's checks have found (R433) -/
  mism : Nat := 0
  /-- of a convoy that is not restartable: the members and groups that failed twice, whose dependents are all ones and whose traps
  follow the retirement (R432) -/
  fails : List (Nat × Nat) := []
  fault : Option EFault := none
  /-- the group start at which the pins or a byte budget end the run, and the request that the budget holds (R62, R385) -/
  stallAt : Option (Nat × Option DWord) := none
  /-- atomic elements above the stop that perform, with their values and addresses (R326) -/
  beyond : List (Nat × Nat × DWord) := []
  /-- a member writes wider elements where an earlier one has still to read or write: a run takes every element, the accesses of its
  memory member made before, chunk by chunk (R288, log 78) -/
  whole : Bool := false
  /-- of a whole convoy: its memory accesses below this element are made; a run that makes them alone; and what they gave: the
  values loaded, or 1 for a store to a device page -/
  mlo : Nat := 0
  mem : Bool := false
  mbuf : SMap Nat := []
  /-- one past the last element of a whole convoy whose load was of a device page -/
  mdev : Nat := 0
  /-- the element group that a chunk's end has cut -/
  part : Option Part := none
  /-- a watchpoint that an access of the convoy hit (R443) -/
  watch : Option Nat := none
  /-- the registers `eget` reads, as the convoy issued -/
  egets : SMap DWord := []
  e : SMap DWord := []
  pops : Nat := 0
  pushes : List DWord := []
  rngctr : DWord := 0
  flags : BitVec 6 := 0
  cfg : Option (Nat × BitVec 6) := none
  target : Option VAddr := none
  rels : List (Nat × Nat) := []
  halt : Bool := false
  vtrap : Option DWord := none
  sample : SMap (List Byte) := []
  ovf : Option Nat := none
  contrib : List (BitVec 20 × BitVec 4 × Nat) := []
  sett : Option (List SettE × BitVec 12288) := none
  ret : Option (List (VAddr × BitVec 32)) := none
  strip : Bool := false
  fence : Option (BitVec 3) := none
  /-- a divergent `vbrd` found the sett full after earlier members wrote its mask (R331) -/
  brdFull : Bool := false
  cmask : BitVec 12288 := 0
  /-- the stream register and the walk position of a port member at issue -/
  qpos : Option (Nat × Nat) := none
  pins : List TlbEntry := []
  deriving DecidableEq, Repr

/-! ### The five engines of a core -/

/-- The control core (R113, R240, R357). -/
structure Ctl where
  s : SMap DWord := []
  sup : SMap DWord := []
  shadow : SMap DWord := []
  loops : SMap Loop := []
  pc : VAddr := 0
  fflags : BitVec 6 := 0
  markDone : Bool := false
  arrHandler : VAddr := 0
  arrMask : BitVec 48 := 0
  arrPend : BitVec 48 := 0
  arrRet : VAddr := 0
  inHandler : Bool := false
  waitPoints : SMap (Option (BitVec 32)) := []
  pendArrived : Bool := false
  exiting : Bool := false
  exited : Bool := false
  pauseEnd : Option DWord := none
  /-- a `pend.cad` that has made its test after the cadence elapsed (R153) -/
  cadTested : Bool := false
  /-- the instruction at the PC has stalled (R251, R229) -/
  stalled : Bool := false
  /-- the nibble of a stalled instruction or of an exiting `ecall` whose waits are taken (R51) -/
  took : Option Hal := none
  /-- a `halt` with disposition 0 whose exit a stop of the gang has put off (R366, R370) -/
  exitOwed : Bool := false
  nest : Bool := false
  ppriv : BitVec 2 := 0
  priv : BitVec 2 := 2
  csrc : BitVec 3 := 0
  ccode : BitVec 8 := 0
  epc : VAddr := 0
  tval : DWord := 0
  tvec : BitVec 54 := 0
  scratch0 : DWord := 0
  scratch1 : DWord := 0
  pfrec : DWord := 0
  vtrec : VAddr := 0
  event : BitVec 5 := 0
  rtseg : SMap DWord := []
  /-- stopped until core reset (R365, R370) -/
  waitReset : Bool := false
  /-- bytes stored by the C-stream that its fetch does not see yet: before and after the next core fence (R209) -/
  stale : List Host.Cell := []
  staleFenced : List Host.Cell := []
  /-- the words of the instruction at the PC whose fetch a byte budget has been charged with (R405) -/
  paid : List VAddr := []
  deriving DecidableEq, Repr

/-- The vector engine (R113, R283 to R335). -/
structure Vec where
  pc : VAddr := 0
  halted : Bool := true
  e : SMap DWord := []
  vl : Nat := 0
  kind : BitVec 2 := 0
  grp : BitVec 2 := 0
  sew : BitVec 2 := 2
  vstart : Nat := 0
  rngkey : DWord := 0
  rngctr : DWord := 0
  strec : BitVec 21 := 0
  frag : BitVec 12288 := BitVec.allOnes 12288
  sett : List SettE := []
  ret : List (VAddr × BitVec 32) := []
  stop : StopRec := {}
  cv : Option Convoy := none
  /-- stopped at a V-stream trap, pending or delivered and not returned from (R284) -/
  trapped : Bool := false
  /-- the next convoy is a `vbrd` whose nibble was acted on with its convoy (R331) -/
  brdMark : Bool := false
  /-- traps to take before the next convoy issues (R297 orders 9 and 10, R432) -/
  after : List (BitVec 8 × DWord) := []
  /-- scatter elements not yet acknowledged, by lane cluster (R149) -/
  scat : SMap Nat := []
  /-- the locations this strip has written, with the values each may hold (R138) -/
  strip : List (Nat × List Nat) := []
  /-- memory as the V-stream's fetch sees it since `vstart`, and as the last core `vfence` found it (R283) -/
  img : Option Mem := none
  imgFenced : Option Mem := none
  /-- the words of the convoy at the PC whose fetch a byte budget has been charged with (R405) -/
  paid : List VAddr := []
  retired : Nat := 0
  samples : Nat := 0
  /-- a profile sample to write: the head of its convoy, its members, the sampled member and that member's count (R452) -/
  prof : Option (VAddr × Nat × Nat × Nat) := none
  deriving DecidableEq, Repr

/-- The stream engine (R113, R253 to R262) and the operand queues it fills (R116). -/
structure Str where
  q : SMap StreamReg := []
  queue : List Posted := []
  qa : List QEntry := []
  qb : List QEntry := []
  /-- the blocks that a scale byte popped with bad parity has poisoned, and whose last element is still to be popped (R436) -/
  badA : List Nat := []
  badB : List Nat := []
  stopped : Bool := false
  deriving DecidableEq, Repr

/-- The grid engine and the grid (R94 to R112, R263 to R267). -/
structure Grd where
  cells : SMap Word := []
  rows : SMap RowSt := []
  /-- dirty extent of each row in units of 32 cells; 0 is a clear dirty bit (R112, R417) -/
  dirty : SMap Nat := []
  cols : Nat := 384
  lim : Nat := 128
  queue : List Posted := []
  issued : List Upd := []
  /-- flags of the retired updates of the `gupd` in progress (R84, R263) -/
  flags : BitVec 6 := 0
  dones : List Done := []
  stopped : Bool := false
  /-- posted faults of updates that retired while the engine was stopped at one: the update's number, the queue depth, and whether it
  is the last of its `gupd` (R251, R435) -/
  owed : List (Nat × Nat × Bool) := []
  deriving DecidableEq, Repr

/-- The copy engine (R268 to R277) and the token slots (R55). -/
structure Cpy where
  queue : List Posted := []
  flight : List Flight := []
  tok : SMap Token := []
  stopped : Bool := false
  deriving DecidableEq, Repr

/-- What a core is doing (R354, R370, R411, R437). -/
inductive Run where
  /-- no task and no code -/
  | free
  /-- running task, runtime or firmware code -/
  | run
  /-- stopped by a stop of its gang, its save in progress or done -/
  | stopped
  deriving DecidableEq, Repr

/-- A gang barrier (R231). -/
structure Barrier where
  expected : Nat
  cadence : Bool := false
  len : Nat := 0
  arrivals : Nat := 0
  phase : BitVec 32 := 0
  start : DWord := 0
  deriving DecidableEq, Repr

/-- One core (R15, R16): the engines, the TCM, the inboxes and what joins it to its gang. -/
structure Core where
  ctl : Ctl := {}
  vec : Vec := {}
  str : Str := {}
  grd : Grd := {}
  cpy : Cpy := {}
  hal : SMap Nat := []
  held : SMap Nat := []
  c2v : List DWord := []
  v2c : List DWord := []
  tcm : Mem := []
  tcmDirty : SMap Bool := []
  tcmPoison : List Nat := []
  /-- the ASID whose task last owned each 4 KiB block; 1024 for none (R42) -/
  tcmOwner : SMap Nat := []
  inbox : SMap (List (BitVec 256)) := []
  comb : SMap (List Comb) := []
  ptraps : SMap (Option PTrap) := []
  inflight : List Report := []
  reports : List Report := []
  tlb : List TlbEntry := []
  walkc : List WalkEntry := []
  seq : BitVec 32 := 0
  asid : BitVec 10 := 0
  gang : Nat := 0
  rank : Nat := 0
  placement : BitVec 8 := 0
  run : Run := .free
  /-- the gang's stop has latched and the core acts on it at its next boundary (R410, R366) -/
  latched : Bool := false
  ctxStat : DWord := 0
  /-- a save or load of the context engine in progress: the den slot, whether it is a save, and its flags (R371, R418) -/
  ctxOp : Option (Nat × Bool × Bool) := none
  /-- a save that stopped before its commit and waits for its restart (R419) -/
  ctxErr : Bool := false
  /-- a save of this core has committed, at this slot, and nothing has resumed it since (R368, R370) -/
  savedAt : Option Nat := none
  /-- a `ctxload` of the running handler has loaded the core: its engines go on at the handler's `eret` (R366, R371) -/
  loadHeld : Bool := false
  frozen : Bool := false
  freezeLatch : Bool := false
  /-- by privilege, the address of a claimed `ebreak` that caused a freeze, until it traps or another instruction issues (R447) -/
  ebrk : SMap (Option VAddr) := []
  /-- the instruction count of each vector lane cluster, modulo 32, since the core woke (R430) -/
  lanes : SMap Nat := []
  /-- the updates the grid engine has retired, modulo 12, since the core woke: it names the slice checked (R434) -/
  updNum : Nat := 0
  /-- an inbox reservation granted and not yet filled (R464), by inbox -/
  grants : SMap Nat := []
  /-- the core that each inbox granted last, for the round robin (R464) -/
  lastGrant : SMap Nat := []
  cadMiss : BitVec 32 := 0
  /-- a request of this core is held by a byte budget, and whether it has been reported this class period (R62, R405) -/
  byteHeld : Option (Nat × DWord) := none
  /-- a watchpoint that an access hit, with its engine coded as `%cause`.src (R443) -/
  watchHit : Option (Nat × Nat) := none
  /-- the barriers of the core's last task as it left them: nothing clears them before the next start (R42) -/
  lastBar : SMap Barrier := []
  deriving DecidableEq, Repr

/-! ### Gangs, clusters, queues and tables -/

/-- Where a gang stands in its life (R401 to R423). -/
inductive Life where
  | resident | stopping | saved | loading
  deriving DecidableEq, Repr

/-- A gang and its task (R37 to R42, R59, R231, R403). Gang numbers below 192 are the firmware cores of R475. -/
structure Gang where
  launch : Nat := 0
  asid : BitVec 10 := 0
  g : Nat := 1
  cores : List Nat := []
  cluster : Nat := 0
  tcmBlocks : Nat := 256
  spBase : Nat := 0
  spUnits : Nat := 6144
  tokens : Nat := 32
  barriers : Nat := 16
  bar : SMap Barrier := []
  launchId : BitVec 32 := 0
  arg : DWord := 0
  cIdx : Nat := 0
  dIdx : Nat := 0
  guaranteed : Bool := false
  period : Nat := 0
  cycles : Nat := 0
  budget : Nat := 0
  /-- `%clock` of the start of the first period, and of the current one (R59) -/
  base : DWord := 0
  curPeriod : Nat := 0
  ranIn : Option Nat := none
  life : Life := .resident
  why : Option StopWhy := none
  /-- a cancellation or the end of a faulted task that came during a save: the save runs to its commit (R409, R370) -/
  doom : Option StopWhy := none
  /-- a request that came during a freeze: it latches after the thaw (R448) -/
  late : Option StopWhy := none
  /-- a deadline record that its stop has still to write: `%clock` as the budget ran out (R372, R406) -/
  dlRec : Option DWord := none
  /-- the period in which the budget ran out, until that is acted on (R61) -/
  ranOut : Option Nat := none
  reqClock : DWord := 0
  slots : List Nat := []
  loads : BitVec 8 := 0
  /-- period number from which a saved task may resume -/
  resumeAt : Nat := 0
  cls : BitVec 4 := 0
  reported10 : Bool := false
  deriving DecidableEq, Repr

/-- A consumed launch (R32, R36, R399). -/
structure Launch where
  queue : Nat
  asid : BitVec 10
  id : BitVec 32
  desc : List DWord
  home : Nat
  prio : Nat
  /-- tasks not yet started: for a D index, the next C index and their number -/
  waiting : List (Nat × Nat × Nat)
  /-- all its tasks -/
  total : Nat
  marked : List Nat := []
  running : Nat := 0
  done : Nat := 0
  faulted : Bool := false
  cancelled : Bool := false
  ended : Bool := false
  pred : Option Nat := none
  /-- tasks that a cancellation removed before they started (R409) -/
  removed : Nat := 0
  /-- the round-robin order of each die's dispatcher (R402) -/
  turn : SMap Nat := []
  /-- `%clock` of the dispatch of its first task (R59) -/
  first : Option DWord := none
  /-- the dies on which the launch was held for want of room: its tasks there start in consumption order (R407) -/
  held : List Nat := []
  deriving DecidableEq, Repr

/-- A registered launch queue (R395, R396). -/
structure Queue where
  asid : BitVec 10
  ctl : VAddr
  cls : BitVec 4
  ceiling : Nat
  deadlineEnd : Bool
  home : Nat
  vector : Nat
  ring : VAddr
  ringLog : Nat
  flog : VAddr
  flogLog : Nat
  flogTail : BitVec 32 := 0
  mlog : VAddr
  mlogLog : Nat
  mlogTail : BitVec 32 := 0
  head : BitVec 32 := 0
  qstatus : BitVec 8 := 0
  wfail : BitVec 32 := 0
  cancelAck : BitVec 32 := 0
  /-- false once deregistered: launches already consumed run on (R479) -/
  live : Bool := true
  /-- cancelled tokens with the tail they reach in the ring (R409) -/
  cancels : List (BitVec 32 × BitVec 32) := []
  deriving DecidableEq, Repr

/-- An ASID class (R404): the fields in force, those set for the next period, and each die's counters. -/
structure Class where
  kind : Bool := false
  cperiod : Nat := 0
  hbm : Nat := 0
  mesh : Nat := 0
  newFields : Option (Bool × Nat × Nat × Nat) := none
  hbmLeft : SMap Nat := []
  meshLeft : SMap Nat := []
  /-- the number of the class period in force -/
  num : Nat := 0
  deriving DecidableEq, Repr

/-- A controller's poison record (R391). -/
structure Poison where
  sectors : List Nat := []
  frames : List Nat := []
  failed : Bool := false
  deriving DecidableEq, Repr

/-- The debug block of a cluster (R440 to R452). -/
structure Dbg where
  core : BitVec 8 := 0
  src : BitVec 3 := 0
  reason : BitVec 3 := 0
  unit : BitVec 4 := 0
  frozen : Bool := false
  pending : Bool := false
  claim : BitVec 24 := 0
  gcorr : BitVec 32 := 0
  vcorr : BitVec 32 := 0
  gfail : BitVec 24 := 0
  vfail : BitVec 24 := 0
  coreFail : BitVec 24 := 0
  spadFail : Bool := false
  runs : BitVec 8 := 0
  bkptAddr : SMap DWord := []
  bkptSel : SMap DWord := []
  watchAddr : SMap DWord := []
  watchSel : SMap DWord := []
  trcBase : DWord := 0
  trcCtl : DWord := 0
  trcRp : BitVec 32 := 0
  trcWp : BitVec 32 := 0
  trcLost : BitVec 32 := 0
  /-- records dropped since the last loss marker -/
  lostMark : Nat := 0
  trcSeq : BitVec 32 := 0
  trcPins : List TlbEntry := []
  prf : DWord := 0
  skid : List (Nat × Nat) := []
  /-- writes of a dump window, which take effect at thaw (R446): core, offset, value -/
  dump : List (Nat × Nat × Byte) := []
  /-- the number of the save that sections 1 to 57 of the first core's window show; the other cores' follow it (R446, log 8) -/
  dumpNum : Nat := 0
  deriving DecidableEq, Repr

/-- A cluster: its scratchpad, allotments and power state (R27, R42, R437). -/
structure Cluster where
  spad : Mem := []
  spPoison : List Nat := []
  /-- the ASID that last owned each scratchpad unit; 1024 for none -/
  spOwner : SMap Nat := []
  gated : Bool := false
  gateReq : Bool := false
  drainEnd : Option DWord := none
  marching : Bool := false
  /-- `%clock` at the start of the boot march -/
  marchStart : DWord := 0
  /-- cores short of spares or not finished at the last consolidation, and a scratchpad short of spares (R483) -/
  marchFail : BitVec 24 := 0
  marchSpad : Bool := false
  /-- consolidated, its wake test not yet done -/
  consol : Bool := false
  /-- powered again, its wake test not yet done -/
  waking : Bool := false
  /-- thermal stop of the die, until its wake test (R486) -/
  hot : Bool := false
  deriving DecidableEq, Repr

/-- A flash record (R468), in the order of its bytes; `copyB` is the copy it stands in (R471). -/
structure FlashRec where
  magic : BitVec 32 := 0x58464C31
  kind : BitVec 8
  copyB : Bool
  signer : BitVec 8
  reserved : BitVec 16 := 0
  seq : BitVec 32
  serial : BitVec 128
  body : List Byte
  sig : List Byte
  deriving DecidableEq, Repr

/-- A remote-enqueue entry on its way to an inbox (R275, R464): a peer's (`src` 192 + its number) whose request for a reservation
still waits, or one that is granted. -/
structure Mail where
  src : Nat
  dst : Nat
  inbox : Nat
  data : BitVec 256
  asid : BitVec 10
  ack : Bool
  /-- the copy instruction's slot, and the enqueue address -/
  slot : Nat
  addr : DWord
  granted : Bool := false
  scope : BitVec 3 := 0
  /-- in its inbox, its acknowledgement on the way to a frozen sender (R445) -/
  arrived : Bool := false
  deriving DecidableEq, Repr

/-- A scatter element sent to its atomic unit and not yet acknowledged (R149). -/
structure Ack where
  core : Nat
  lane : Nat
  deriving DecidableEq, Repr

/-- The Quonis ports (R459): replays of the flit at the head, and whether the port retrains. -/
structure Port where
  replays : Nat := 0
  retraining : Bool := false
  deriving DecidableEq, Repr

/-- Which agent moves next. -/
inductive Turn where
  | control (core : Nat)
  | stream (core : Nat)
  | grid (core : Nat)
  | vector (core : Nat)
  | copy (core : Nat)
  | fabric
  | event (i : Instr)
  deriving DecidableEq, Repr

/-- The whole module. -/
structure State where
  /-- `%clock` (R4) and whether die 0 has started the clocks -/
  clock : DWord := 0
  clocksOn : Bool := false
  powered : Bool := true
  cores : SMap Core := []
  gangs : SMap Gang := []
  clusters : SMap Cluster := []
  /-- physical memory by physical address (R453): HBM, shared SRAM, and the host and peer windows -/
  mem : Mem := []
  tags : SMap (BitVec 4) := []
  poison : SMap Poison := []
  ready : DWord := 0
  /-- functions that have reported failed, in the bits of the readiness word -/
  failed : DWord := 0
  bootstat : DWord := 0
  asidtab : DWord := 0
  ecc : SMap DWord := []
  classes : SMap Class := []
  queues : SMap Queue := []
  launches : SMap Launch := []
  nextLaunch : Nat := 0
  nextGang : Nat := 192
  /-- record-table segments held for each ASID (R479), key 4 × asid + die -/
  segs : SMap DWord := []
  mgmtBase : Nat := 0
  denBase : SMap Nat := []
  denSize : SMap Nat := []
  ringBase : SMap Nat := []
  modNum : BitVec 6 := 0
  powerLimit : Nat := 1650
  routes : SMap (BitVec 18) := []
  ports : SMap Port := []
  /-- the inbound aperture table (R462): its runtime sets it; an unlisted entry is free (log 5) -/
  inbound : SMap DWord := []
  qhaBase : SMap DWord := []
  qhaLock : Bool := false
  qhaErr : DWord := 0
  msix : SMap Nat := []
  msixTable : SMap DWord := []
  dbg : SMap Dbg := []
  recs : List Comb := []
  mail : List Mail := []
  acks : List Ack := []
  /-- the content of sections 1 to 57 of each save: the sections' bytes hold the save's number (R416, log 8) -/
  saves : SMap Core := []
  nextSave : Nat := 0
  flash : List FlashRec := []
  repairs : List (BitVec 32) := []
  devCert : Bool := false
  devPub : List Byte := []
  devPriv : List Byte := []
  /-- answers sent on VC 3: attestation reports and key-agreement messages (R474) -/
  vc3 : List (List Byte) := []
  reply : List Byte := []
  cpLog : List (Nat × Nat) := []
  throttle : SMap Nat := []
  /-- the next free choice (log 5) -/
  free : Nat := 0
  cur : Nat := 0
  agenda : List (Nat × Turn) := []
  rr : Nat := 0
  deriving DecidableEq, Repr

/-- The default den of a die: the upper 24 MiB of its shared SRAM (R476). -/
def denDefault (die : Nat) : Nat := 0x008000000000 + die * 0x100000000 + 0x4800000

/-- The module at reset (R4, R42, R475, R476 defaults): no clock running, no core started, nothing in any memory. -/
def State.reset : State where
  mgmtBase := 0x0080047FF000
  denBase := [(0, denDefault 0), (1, denDefault 1), (2, denDefault 2), (3, denDefault 3)]
  denSize := [(0, 0x1800000), (1, 0x1800000), (2, 0x1800000), (3, 0x1800000)]
  ringBase := [(0, denDefault 0 + 0x17D0000), (1, denDefault 0 + 0x17E8000), (2, denDefault 1 + 0x17D0000),
    (3, denDefault 1 + 0x17E8000), (4, denDefault 2 + 0x17D0000), (5, denDefault 2 + 0x17E8000),
    (6, denDefault 3 + 0x17D0000), (7, denDefault 3 + 0x17E8000)]

end Sys2Proof.Machine
end

