-- ==== Sys2Proof/Machine/Base.lean ====
section
/-! DEFINITION. Accessors of the state: cores, gangs, scalar registers (R113, R211, R241, R356), the halyard (R49 to R54),
tokens (R55), the cross queues, row states and cells, control registers, and the free choices of the model. -/

namespace Sys2Proof.Machine

/-! ### Cores, gangs and clusters -/

def State.coreN (s : State) (n : Nat) : Core := smGet {} s.cores n
def State.setCoreN (s : State) (n : Nat) (c : Core) : State := { s with cores := smPut s.cores n c }
/-- The acting core. -/
def State.core (s : State) : Core := s.coreN s.cur
def State.setCore (s : State) (c : Core) : State := s.setCoreN s.cur c
def State.updN (s : State) (n : Nat) (f : Core → Core) : State := s.setCoreN n (f (s.coreN n))
def State.upd (s : State) (f : Core → Core) : State := s.updN s.cur f

def dieOf (n : Nat) : Nat := n / 48
def clusterOf (n : Nat) : Nat := n / 24

/-- The number of the gang a core belongs to; a core without a task has the private gang of R475 under its own number. -/
def gangId (c : Core) (n : Nat) : Nat := if c.gang = 0 then n else c.gang
/-- The full bounds of R475. -/
def fwGang (n : Nat) : Gang := { cores := [n], cluster := clusterOf n }
def State.gangN (s : State) (g : Nat) : Gang := smGet (fwGang g) s.gangs g
def State.setGang (s : State) (g : Nat) (v : Gang) : State := { s with gangs := smPut s.gangs g v }
def State.updGang (s : State) (g : Nat) (f : Gang → Gang) : State := s.setGang g (f (s.gangN g))
def State.gid (s : State) (n : Nat) : Nat := gangId (s.coreN n) n
/-- The gang of a core. -/
def State.gangOf (s : State) (n : Nat) : Gang := s.gangN (s.gid n)
/-- Whether a task is resident on a core. -/
def Core.hasTask (c : Core) : Bool := c.gang != 0

def State.clu (s : State) (k : Nat) : Cluster := smGet {} s.clusters k
def State.setClu (s : State) (k : Nat) (v : Cluster) : State := { s with clusters := smPut s.clusters k v }
def State.dbgOf (s : State) (k : Nat) : Dbg := smGet {} s.dbg k
def State.setDbg (s : State) (k : Nat) (v : Dbg) : State := { s with dbg := smPut s.dbg k v }
def State.cls (s : State) (k : BitVec 4) : Class := smGet {} s.classes k.toNat
def State.setCls (s : State) (k : BitVec 4) (v : Class) : State := { s with classes := smPut s.classes k.toNat v }

/-- The module-wide number of the core of a gang with a rank. -/
def Gang.coreAt (g : Gang) (rank : Nat) : Option Nat := g.cores[rank]?

/-- A free choice among `n` outcomes (log 5), and the state with the next choice due. -/
def State.pick (s : State) (n : Nat) : Nat := Config.freePick s.free n % n
def State.bumpFree (s : State) : State := { s with free := s.free + 1 }

/-! ### Updates of the engines of a core -/

def Core.updCtl (c : Core) (f : Ctl → Ctl) : Core := { c with ctl := f c.ctl }
def Core.updVec (c : Core) (f : Vec → Vec) : Core := { c with vec := f c.vec }
def Core.updStr (c : Core) (f : Str → Str) : Core := { c with str := f c.str }
def Core.updGrd (c : Core) (f : Grd → Grd) : Core := { c with grd := f c.grd }
def Core.updCpy (c : Core) (f : Cpy → Cpy) : Core := { c with cpy := f c.cpy }

/-! ### Scalar registers (R113, R211, R241, R356) -/

/-- Reads a scalar register: `s0` is zero; above task privilege `s48` to `s63` are the supervisor bank; in the arrival
handler `s56` to `s63` are the shadow registers. -/
def regGet (c : Core) (r : Reg) : DWord :=
  if r = 0 then 0
  else if c.ctl.priv ≠ 0 ∧ 48 ≤ r.toNat then smGet 0 c.ctl.sup r.toNat
  else if c.ctl.priv = 0 ∧ c.ctl.inHandler = true ∧ 56 ≤ r.toNat then smGet 0 c.ctl.shadow r.toNat
  else smGet 0 c.ctl.s r.toNat

/-- Writes a scalar register; a write to `s0` is discarded (R211). -/
def regSet (c : Core) (r : Reg) (v : DWord) : Core :=
  if r = 0 then c
  else if c.ctl.priv ≠ 0 ∧ 48 ≤ r.toNat then c.updCtl fun t => { t with sup := smSet 0 t.sup r.toNat v }
  else if c.ctl.priv = 0 ∧ c.ctl.inHandler = true ∧ 56 ≤ r.toNat then
    c.updCtl fun t => { t with shadow := smSet 0 t.shadow r.toNat v }
  else c.updCtl fun t => { t with s := smSet 0 t.s r.toNat v }

def setPc (c : Core) (p : VAddr) : Core := c.updCtl fun t => { t with pc := p }
/-- ORs flags into `%fflags` (R84). -/
def orFlags (c : Core) (f : BitVec 6) : Core := c.updCtl fun t => { t with fflags := t.fflags ||| f }
def loopGet (c : Core) (n : Nat) : Loop := smGet {} c.ctl.loops n
def loopSet (c : Core) (n : Nat) (l : Loop) : Core := c.updCtl fun t => { t with loops := smPut t.loops n l }

/-! ### The halyard (R49 to R54). Engines: 0 control core, 1 stream, 2 grid, 3 vector, 4 copy -/

/-- The counter of before(E) → E. -/
def cWB (e : Nat) : Nat := (2 * e + 8) % 10
/-- The counter of after(E) → E. -/
def cWA (e : Nat) : Nat := 2 * e + 1
/-- The counter of E → before(E). -/
def cSB (e : Nat) : Nat := (2 * e + 9) % 10
/-- The counter of E → after(E). -/
def cSA (e : Nat) : Nat := 2 * e
def hWB (h : Hal) : Bool := h.getLsbD 3
def hWA (h : Hal) : Bool := h.getLsbD 2
def hSB (h : Hal) : Bool := h.getLsbD 1
def hSA (h : Hal) : Bool := h.getLsbD 0

def halGet (c : Core) (i : Nat) : Nat := smGet 0 c.hal i
def heldGet (c : Core) (i : Nat) : Nat := smGet 0 c.held i

/-- Whether the waits of a nibble are satisfied (R51). -/
def waitsOk (c : Core) (e : Nat) (h : Hal) : Bool :=
  (!hWB h || decide (0 < halGet c (cWB e))) && (!hWA h || decide (0 < halGet c (cWA e)))

/-- Takes one wait; a held increment of the counter then applies in the same aclk (R53). -/
def takeOne (c : Core) (i : Nat) : Core :=
  if 0 < heldGet c i then { c with held := smSet 0 c.held i (heldGet c i - 1) }
  else { c with hal := smSet 0 c.hal i (halGet c i - 1) }

def takeWaits (c : Core) (e : Nat) (h : Hal) : Core :=
  let c := if hWB h then takeOne c (cWB e) else c
  if hWA h then takeOne c (cWA e) else c

/-- An event that ends a `pause` does so in the next aclk (R245). -/
def wakePause (clk : DWord) (c : Core) : Core :=
  match c.ctl.pauseEnd with
  | some t => c.updCtl fun k => { k with pauseEnd := some (if clk + 1 < t then clk + 1 else t) }
  | none => c

/-- One increment of a counter, held when it would pass 63 (R53). -/
def bump (c : Core) (i : Nat) : Core :=
  if halGet c i < 63 then { c with hal := smSet 0 c.hal i (halGet c i + 1) }
  else { c with held := smSet 0 c.held i (heldGet c i + 1) }

/-- One signal: an increment that is made, and not held, of counter 1 or 8 ends a `pause` (R245). -/
def signalOne (clk : DWord) (c : Core) (i : Nat) : Core :=
  bump (if (i = 1 ∨ i = 8) ∧ halGet c i < 63 then wakePause clk c else c) i

/-- Returns the decrements of an instruction of the C-stream that takes no effect (R51). -/
def giveBack (c : Core) : Core :=
  match c.ctl.took with
  | none => c
  | some h =>
    let c := c.updCtl fun k => { k with took := none }
    let c := if hWB h then bump c (cWB 0) else c
    if hWA h then bump c (cWA 0) else c

/-- The signals of a nibble at local completion (R50, R52). -/
def signal (clk : DWord) (c : Core) (e : Nat) (h : Hal) : Core :=
  let c := if hSB h then signalOne clk c (cSB e) else c
  if hSA h then signalOne clk c (cSA e) else c

/-- An engine with a held increment issues nothing further (R53). -/
def heldBack (c : Core) (e : Nat) : Bool := decide (0 < heldGet c (cSB e)) || decide (0 < heldGet c (cSA e))

/-! ### Tokens and arrival sources (R55, R240) -/

def tokGet (c : Core) (t : Nat) : Token := smGet {} c.cpy.tok t
def tokPending (c : Core) (t : Nat) : Bool := (tokGet c t).pending
def tokStart (c : Core) (t : Nat) (scope : BitVec 3) : Core := c.updCpy fun k => { k with tok := smPut k.tok t ⟨true, scope⟩ }

/-- An event of an arrival source: recorded only when the source is armed (R240); it ends a `pause` when it becomes pending. -/
def arrive (clk : DWord) (c : Core) (n : Nat) : Core :=
  let c := wakePause clk c
  if c.ctl.arrHandler ≠ 0 ∧ c.ctl.arrMask.getLsbD n = true then
    c.updCtl fun k => { k with arrPend := k.arrPend ||| (1#48 <<< n) }
  else c

/-- A slot becomes idle; it keeps its producer's scope (R55, R57). -/
def tokIdle (clk : DWord) (c : Core) (t : Nat) : Core :=
  arrive clk (c.updCpy fun k => { k with tok := smPut k.tok t { tokGet c t with pending := false } }) (16 + t)

/-! ### The grid (R94 to R112) -/

def cellGet (g : Grd) (i j : Nat) : Word := smGet 0 g.cells (384 * i + j)
def dirtyGet (g : Grd) (i : Nat) : Nat := smGet 0 g.dirty i
/-- Writes a cell and extends the row's dirty extent to it (R112, R417). -/
def cellSet (g : Grd) (i j : Nat) (v : Word) : Grd :=
  { g with cells := smSet 0 g.cells (384 * i + j) v, dirty := smSet 0 g.dirty i (max (dirtyGet g i) (j / 32 + 1)) }
def rowGet (g : Grd) (i : Nat) : RowSt := smGet .v g.rows i
def rowPut (g : Grd) (i : Nat) (r : RowSt) : Grd := { g with rows := smSet .v g.rows i r }

/-- The numbers `lo, …, lo + n − 1`. -/
def nats (lo n : Nat) : List Nat := (List.range n).map (lo + ·)

/-- The rows a grid update with a half field targets (R263). -/
def halfRows (half : BitVec 2) : List Nat := if half = 0 then nats 0 256 else if half = 1 then nats 0 128 else nats 128 128
def halfHas (half : BitVec 2) (i : Nat) : Bool := half == 0 || (half == 1 && decide (i < 128)) || (half == 2 && decide (128 ≤ i))

/-! ### e-registers as the V-stream's members see them (R287) -/

def eregGet (m : SMap DWord) (n : BitVec 4) : DWord := smGet 0 m n.toNat
def eregSet (m : SMap DWord) (n : BitVec 4) (v : DWord) : SMap DWord := smSet 0 m n.toNat v

/-! ### Packed control registers -/

def packVtype (v : Vec) : DWord := (v.kind ++ v.grp ++ v.sew).setWidth 64
def packCoreid (s : State) (n : Nat) : DWord :=
  let p : DWord := (s.coreN n).placement.setWidth 64 <<< 32
  let m : DWord := s.modNum.setWidth 64 <<< 16
  p ||| m ||| (BitVec.ofNat 64 (dieOf n) <<< 14) ||| (BitVec.ofNat 64 (clusterOf n % 2) <<< 13) ||| (BitVec.ofNat 64 (n % 24) <<< 8)
def packStatus (k : Ctl) : DWord := (b1 k.nest ++ k.ppriv ++ k.priv).setWidth 64
def packCause (k : Ctl) : DWord := (k.csrc ++ (0 : BitVec 5) ++ k.ccode).setWidth 64
/-- `%budget` as any rank of the gang reads it (R60). -/
def packBudget (g : Gang) : DWord := if g.period = 0 then BitVec.allOnes 64 else BitVec.ofNat 64 g.budget

/-- The width of elements in bits, and the log2 grouping, in force (R120). -/
def sewBits (x : BitVec 2) : Nat := if x = 0 then 8 else if x = 1 then 16 else 32

end Sys2Proof.Machine
end

