-- ==== Sys2Proof/Machine/Memory.lean ====
section
/-! DEFINITION. Memory: the physical map and its routes (R453 to R462), poison records (R390 to R392), page tables and
cached translations (R375 to R381), the checks of one access in the order of R225 and R325, and the three named accesses
`loadAt`, `storeAt` and `amoAt`, through which every engine reaches memory. Writes perform at once (log 30). -/

namespace Sys2Proof.Machine

/-! ### The physical address map -/

/-- What a physical address names (R453). -/
inductive Target where
  | hbm (die stack : Nat)
  | sram (die : Nat)
  | host
  | peer (m o : Nat)
  | outside
  deriving DecidableEq, Repr

def sramBase (die : Nat) : Nat := 0x008000000000 + die * 0x100000000

def target (pa : Nat) : Target :=
  if pa < 0x008000000000 then
    let off := pa % 0x2000000000
    if off < 0xC00000000 then .hbm (pa / 0x2000000000) 0
    else if off < 0x1800000000 then .hbm (pa / 0x2000000000) 1 else .outside
  else if pa < 0x008400000000 then
    if (pa - 0x008000000000) % 0x100000000 < 0x6000000 then .sram ((pa - 0x008000000000) / 0x100000000) else .outside
  else if 0x8000000000000 ≤ pa ∧ pa < 0x8000000000000 + 0x400000000000 then .host
  else if 0xC000000000000 ≤ pa ∧ pa < 0xC000000000000 + 0x400000000000 then
    .peer ((pa - 0xC000000000000) / 0x10000000000) ((pa - 0xC000000000000) % 0x10000000000)
  else .outside

/-- The leaf's loc field for a target (R453). -/
def Target.loc : Target → Option Nat
  | .hbm _ _ => some 0
  | .sram _ => some 1
  | .host => some 2
  | .peer _ _ => some 3
  | .outside => none

def rtBase (x : DWord) : Nat := (x.extractLsb' 0 20).toNat * 128
def rtSize (x : DWord) : Nat := (x.extractLsb' 32 19).toNat

/-- The den and the record-table segments are outside the map for translations and for the host (R453, R466). -/
def State.denHas (s : State) (pa : Nat) : Bool :=
  s.denBase.any fun p => decide (p.2 ≤ pa) && decide (pa < p.2 + smGet 0 s.denSize p.1)
def State.segHas (s : State) (pa : Nat) : Bool :=
  s.segs.any fun p =>
    let b := sramBase (p.1 % 4) + rtBase p.2
    decide (b ≤ pa) && decide (pa < b + 128 * rtSize p.2)
def mapOk (s : State) (pa loc : Nat) : Bool := (target pa).loc == some loc && !s.denHas pa && !s.segHas pa

/-! ### Routes and readiness (R454 to R461, R477, R478) -/

def readyBit (s : State) (i : Nat) : Bool := s.ready.getLsbD i
/-- Whether the edge between two adjacent dies is ready. -/
def edgeOk (s : State) (a b : Nat) : Bool :=
  let p := if a < b then (a, b) else (b, a)
  if p = (0, 1) then readyBit s 34 else if p = (0, 2) then readyBit s 35 else if p = (1, 3) then readyBit s 36
  else if p = (2, 3) then readyBit s 37 else false
/-- The dies that send a payload from one die to another, column first, the other way round a failed edge (R455). -/
def route (s : State) (a b : Nat) : Option (List Nat) :=
  if a = b then some []
  else if a + b = 3 then
    let m := (a / 2) * 2 + b % 2
    if edgeOk s a m && edgeOk s m b then some [a, m]
    else if edgeOk s a (3 - m) && edgeOk s (3 - m) b then some [a, 3 - m] else none
  else if edgeOk s a b then some [a] else none

def portDie (p : Nat) : Nat := if p < 5 then 0 else if p < 9 then 1 else if p < 13 then 2 else 3
/-- The ready ports of a peer's route, ascending (R459, R461). -/
def peerPorts (s : State) (m : Nat) : List Nat :=
  (List.range 18).filter fun p => (smGet 0 s.routes m).getLsbD p && readyBit s (16 + p)
/-- The port of a peer-window offset (R461). -/
def peerPort (s : State) (m o : Nat) : Option Nat :=
  let l := peerPorts s m
  l[(o / 4096) % l.length]?

/-- The home die of a physical address (R454); none when no path leads to it. -/
def homeDie (s : State) (pa : Nat) : Option Nat :=
  match target pa with
  | .hbm d _ => some d
  | .sram d => some d
  | .host => some 0
  | .peer m o => (peerPort s m o).map portDie
  | .outside => none

/-- Whether an access from a die can reach the memory of an address (R454, R455, R478). -/
def usable (s : State) (die pa : Nat) : Bool :=
  (match target pa with
   | .hbm d st => readyBit s (8 + 2 * d + st)
   | .sram _ => true
   | .host => readyBit s 16
   | .peer _ _ => true
   | .outside => false) &&
  (match homeDie s pa with | some d => (route s die d).isSome | none => false)

/-- How a peer answers a request to an offset of its window (R462): 0 refused, 1 read only, 2 read and write, 3 poison. -/
def peerAns (pa : Nat) : Nat :=
  match target pa with
  | .peer m o => Config.peerGrant m (o / 0x200000) % 4
  | _ => 2

/-! ### Poison (R390 to R392) -/

/-- The controller of a physical address: HBM 2 × die + stack, shared SRAM 8 + die. -/
def ctlOf (pa : Nat) : Option Nat :=
  match target pa with
  | .hbm d st => some (2 * d + st)
  | .sram d => some (8 + d)
  | _ => none
def poisoned (s : State) (pa : Nat) : Bool :=
  match ctlOf pa with
  | some k =>
    let p := smGet {} s.poison k
    p.failed || p.sectors.contains (pa / 32 * 32) || p.frames.contains (pa / 4096 * 4096)
  | none => peerAns pa == 3
/-- A command processor's log of events (R173, R391): code and value. -/
def cpEvent (s : State) (code v : Nat) : State := { s with cpLog := s.cpLog ++ [(code, v)] }
/-- Sets done once every function has reported ready or failed (R477). -/
def checkDone (s : State) : State :=
  if (s.ready ||| s.failed).extractLsb' 0 42 = BitVec.allOnes 42 then { s with ready := s.ready ||| 1#64 <<< 63 } else s
/-- A function is reported failed: it is not ready (R477, R478). -/
def notReady (s : State) (i : Nat) : State :=
  checkDone { s with ready := s.ready &&& ~~~(1#64 <<< i), failed := s.failed ||| (1#64 <<< i) }

/-- A controller detects an uncorrectable error in a sector (R390, R391). -/
def addPoison (s : State) (pa : Nat) : State :=
  match ctlOf pa with
  | none => s
  | some k =>
    let p := smGet {} s.poison k
    if poisoned s pa then s
    else if p.sectors.length < 512 then
      let s := { s with poison := smPut s.poison k { p with sectors := (pa / 32 * 32) :: p.sectors } }
      if p.sectors.length + 1 = 448 then cpEvent s 1 k else s
    else if p.frames.length < 32 then
      cpEvent { s with poison := smPut s.poison k { p with frames := (pa / 4096 * 4096) :: p.frames } } 2 k
    else
      let s := { s with poison := smPut s.poison k { p with failed := true } }
      -- a failed HBM controller is not ready (R478)
      let s := if k < 8 then notReady s (8 + k) else s
      cpEvent s 3 k
/-- One request covering a sector clears its entry (R392). -/
def clearPoison (s : State) (pa : Nat) : State :=
  match ctlOf pa with
  | none => s
  | some k =>
    let p := smGet {} s.poison k
    { s with poison := smPut s.poison k { p with sectors := p.sectors.filter (· ≠ pa / 32 * 32) } }

def tagOf (s : State) (pa : Nat) : BitVec 4 := smGet 0 s.tags (pa / 32)

/-! ### Page tables (R375 to R378) -/

/-- The outcome of a walk: a leaf with the base and size of its page, a failure, poison on a table entry, or a table entry that
a peer refuses to give (R462). -/
inductive Xl where
  | ok (pte : DWord) (base size : Nat)
  | fail
  | bad
  | refused
  deriving DecidableEq, Repr

def pteV (e : DWord) : Bool := e.getLsbD 0
def pteLeaf (e : DWord) : Bool := e.getLsbD 1
def pteR (e : DWord) : Bool := e.getLsbD 4
def pteW (e : DWord) : Bool := e.getLsbD 5
def pteX (e : DWord) : Bool := e.getLsbD 6
def pteDev (e : DWord) : Bool := e.getLsbD 7
def pteTg (e : DWord) : Bool := e.getLsbD 8
def pteQuar (e : DWord) : Bool := e.getLsbD 9
def pteLoc (e : DWord) : Nat := (e.extractLsb' 10 2).toNat
def pteFrame (e : DWord) : Nat := (e.extractLsb' 12 40).toNat * 4096

/-- Reads a table word by physical address. -/
def pWord (s : State) (pa : Nat) : DWord := BitVec.ofNat 64 (memRd s.mem pa 8)

/-- The levels of a walk, each the lowest index bit and the index width (R376). -/
def walkLevels : List (Nat × Nat) := [(48, 8), (39, 9), (30, 9), (21, 9), (12, 9)]

/-- Whether a frame lies in the map (R378, R453), as a table or as the page of a leaf. -/
def frameOk (s : State) (pa : Nat) : Bool := target pa != .outside && !s.denHas pa && !s.segHas pa

/-- Walks from a table that the bits from `hi` upward lead to; a leaf is allowed from level 2 down (R376, R378). Beside the
outcome, the tables that valid entries led to, which a core may cache (R380). -/
def walkFrom (s : State) (die va : Nat) : Nat → Nat → List (Nat × Nat) → List (Nat × Nat) × Xl
  | _, _, [] => ([], .fail)
  | hi, tbl, (lo, w) :: rest =>
    let at' := tbl + 8 * (va / 2 ^ lo % 2 ^ w)
    if !frameOk s tbl then ([], .fail)
    else if !usable s die at' || poisoned s at' then ([(hi, tbl)], .bad)
    else if peerAns at' = 0 then ([(hi, tbl)], .refused)
    else
      let e := pWord s at'
      if !pteV e || e.extractLsb' 52 12 != 0 || e.extractLsb' 2 2 != 0 then ([(hi, tbl)], .fail)
      else if pteLeaf e then
        let size := 2 ^ lo
        if 39 ≤ lo || pteFrame e % size != 0 || (pteW e && !pteR e) || (pteTg e && decide (2 ≤ pteLoc e)) ||
            !mapOk s (pteFrame e + va % size) (pteLoc e) || !mapOk s (pteFrame e) (pteLoc e)
        then ([(hi, tbl)], .fail) else ([(hi, tbl)], .ok e (va / size * size) size)
      else if e.extractLsb' 2 10 != 0 || rest.isEmpty then ([(hi, tbl)], .fail)
      else let (p, r) := walkFrom s die va lo (pteFrame e) rest; ((hi, tbl) :: p, r)

/-- The address of an ASID's entry (R375). -/
def asidEntry (s : State) (asid : BitVec 10) : Nat := (s.asidtab.extractLsb' 12 40).toNat * 4096 + 16 * asid.toNat
/-- A whole walk with its tables (R375, R376). -/
def walkPath (s : State) (die : Nat) (asid : BitVec 10) (va : Nat) : List (Nat × Nat) × Xl :=
  let a := asidEntry s asid
  if !usable s die a || poisoned s a then ([], .bad)
  else
    let e := pWord s a
    if !e.getLsbD 0 || e.extractLsb' 1 11 != 0 || e.extractLsb' 52 12 != 0 || pWord s (a + 8) != 0 then ([], .fail)
    else walkFrom s die va 56 ((e.extractLsb' 12 40).toNat * 4096) walkLevels
def walk (s : State) (die : Nat) (asid : BitVec 10) (va : Nat) : Xl := (walkPath s die asid va).2

def TlbEntry.covers (t : TlbEntry) (asid : BitVec 10) (va : Nat) : Bool :=
  t.asid == asid && decide (t.base ≤ va) && decide (va < t.base + t.size)
def WalkEntry.covers (t : WalkEntry) (asid : BitVec 10) (va : Nat) : Bool := t.asid == asid && t.page == va / 2 ^ t.lo
/-- The walk that starts at a cached table. -/
def WalkEntry.go (s : State) (die va : Nat) (t : WalkEntry) : Xl :=
  (walkFrom s die va t.lo t.table (walkLevels.filter fun l => decide (l.1 < t.lo))).2

/-- Adds a translation to the structures of a core (R380). -/
def tlbAdd (s : State) (n : Nat) (t : TlbEntry) : State := s.updN n fun c => { c with tlb := t :: c.tlb.filter (· ≠ t) }
/-- Adds the tables of a walk to the walk cache of a core (R380). -/
def walkAdd (s : State) (n : Nat) (va : Nat) (p : List (Nat × Nat)) : State :=
  s.updN n fun c =>
    let l := p.map fun x => (⟨c.asid, x.1, va / 2 ^ x.1, x.2⟩ : WalkEntry)
    { c with walkc := l ++ c.walkc.filter fun t => !l.contains t }

/-- The translations that the active stream registers of a core keep ready (R255, R380). -/
def aheadOf (c : Core) : List TlbEntry := (c.str.q.map fun x => if x.2.active then x.2.ahead else []).flatten

/-- What the structures of a core may answer beside the tables (R381): cached leaves, and walks from cached tables that the
walk from the root no longer passes. -/
def oldXl (s : State) (n va : Nat) (path : List (Nat × Nat)) : List Xl :=
  let c := s.coreN n
  (((c.tlb ++ aheadOf c).filter fun t => t.covers c.asid va).map fun t => .ok t.pte t.base t.size) ++
  ((c.walkc.filter fun t => t.covers c.asid va && !path.contains (t.lo, t.table)).map (WalkEntry.go s (dieOf n) va))

/-- A byte outside the map fails its translation, whatever page covers it (R28, R453). -/
def Xl.inMap (s : State) (va : Nat) : Xl → Xl
  | .ok e b z => if mapOk s (pteFrame e + (va - b)) (pteLoc e) then .ok e b z else .fail
  | r => r

/-- Translates for a core. A pinned translation is used as it stands (R383). Where a cached translation or table differs from the
tables in memory, an access may use either (R381): a free choice (log 5). -/
def xlate (s : State) (n : Nat) (pins : List TlbEntry) (va : Nat) : State × Xl :=
  match pins.find? fun t => t.covers (s.coreN n).asid va with
  | some t => (s, (Xl.ok t.pte t.base t.size).inMap s va)
  | none =>
    let (path, r) := walkPath s (dieOf n) (s.coreN n).asid va
    let old := (oldXl s n va path).filter (· ≠ r)
    let q := if old.isEmpty then r else (r :: old).getD (s.pick (old.length + 1)) r
    let s := if old.isEmpty then s else s.bumpFree
    match q with
    | .ok e b z => (walkAdd (tlbAdd s n ⟨(s.coreN n).asid, b, z, e⟩) n va (if q = r then path else []), q.inMap s va)
    | _ => (s, q)

/-! ### Permissions (R379) -/

/-- The kind of an access. -/
inductive Kind where
  | fetch | load | store | amo | walkLoad | walkStore | tagSet
  deriving DecidableEq, Repr
def Kind.reads : Kind → Bool
  | .fetch | .load | .amo | .walkLoad => true
  | _ => false
def Kind.writes : Kind → Bool
  | .store | .amo | .walkStore | .tagSet => true
  | _ => false
/-- The cause of a failed translation (R378): 0x03 for reads, 0x04 for stores and atomics. -/
def Kind.pageFault (k : Kind) : BitVec 8 := if k.writes then 0x04 else 0x03

/-- The check of a leaf for a kind of access (R379). -/
def permFault (k : Kind) (e : DWord) : Option (BitVec 8) :=
  if pteQuar e then some 0x07
  else
    let ok := match k with
      | .fetch => pteX e
      | .load => pteR e
      | .store => pteW e
      | .amo => pteR e && pteW e && !pteDev e && decide (pteLoc e < 2)
      | .walkLoad => pteR e && !pteDev e
      | .walkStore => pteW e && !pteDev e
      | .tagSet => pteW e && pteTg e
    if ok then none else some 0x08

/-! ### Who makes an access, and the report ring (R389) -/

/-- The agent of an access: core, engine coded as `%cause`.src, the address and members it is attributed to, and the index. -/
structure Who where
  core : Nat
  src : Nat
  pc : VAddr
  members : Nat := 0
  index : Nat := 0
  deriving DecidableEq, Repr

/-- Appends an attribution entry to the core's report ring (R389). -/
def ringAppend (s : State) (w : Who) (cause : BitVec 8) (walkRead : Bool) (addr : DWord) (found expected : BitVec 4) : State :=
  let c := s.coreN w.core
  let seq := c.seq + 1
  let at' := smGet 0 s.ringBase (clusterOf w.core) + 4096 * (w.core % 24) + 64 * ((seq - 1).toNat % 64)
  let w0 := seq.toNat * 2 ^ 32 + cause.toNat * 2 ^ 24 + w.src * 2 ^ 21 + (if walkRead then 2 ^ 20 else 0) + c.asid.toNat
  let ws := [w0, w.core * 256 + c.rank, w.pc.toNat, w.members * 2 ^ 48 + w.index % 2 ^ 48, addr.toNat,
    found.toNat * 16 + expected.toNat, s.clock.toNat, 0]
  let m := (ws.zip (List.range 8)).foldl (fun m p => memWr m (at' + 8 * p.2) 8 p.1) s.mem
  ({ s with mem := m }).updN w.core fun c => { c with seq := seq }

/-- A deferred report on its way to its core (R132, R160, R275, R388). -/
def report (s : State) (n : Nat) (code : BitVec 8) (v : DWord) : State :=
  s.updN n fun c => { c with inflight := c.inflight ++ [⟨code, v⟩] }

/-! ### Watchpoints and byte budgets (R443, R62, R405) -/

def watchBit (w : DWord) (i : Nat) : Bool := w.getLsbD i
/-- The engine bit of `watch_sel` for a source code. -/
def watchEng (src : Nat) : Nat := if src = 0 then 40 else if src = 1 then 41 else if src = 2 then 42 else 43
/-- The lowest watchpoint that a `g:` access hits, tested on the virtual address before translation (R443). -/
def watchFind (s : State) (w : Who) (va n : Nat) (rd wr : Bool) : Option Nat :=
  let d := s.dbgOf (clusterOf w.core)
  if d.watchAddr.isEmpty then none
  else
    let asid := (s.coreN w.core).asid
    (List.range 4).find? fun i =>
      let a := smGet 0 d.watchAddr i
      let sel := smGet (5#64 <<< 44) d.watchSel i
      let z := 2 ^ (sel.extractLsb' 44 6).toNat
      let b := (a.extractLsb' 0 56).toNat / z * z
      watchBit a 63 && ((rd && watchBit a 62) || (wr && watchBit a 61)) && decide (va < b + z) && decide (b < va + n) &&
      sel.getLsbD (watchEng w.src) && sel.getLsbD (w.core % 24) && (!sel.getLsbD 34 || sel.extractLsb' 24 10 == asid)
/-- Records a watchpoint that an access hits. -/
def watchCheck (s : State) (w : Who) (va n : Nat) (rd wr : Bool) : State :=
    match watchFind s w va n rd wr with
    | some i => s.updN w.core fun c => { c with watchHit := some (i, w.src) }
    | none => s

def units (n : Nat) : Nat := (n + 63) / 64
/-- The class of the task a core runs. -/
def classOf (s : State) (n : Nat) : BitVec 4 := (s.gangOf n).cls
/-- Whether the class of a core's task counts bytes at all (R404). -/
def counted (s : State) (core : Nat) : Bool := (s.cls (classOf s core)).cperiod != 0 && (s.coreN core).hasTask
/-- How often a die appears in a list of the dies that are charged. -/
def fits (m : SMap Nat) (ds : List Nat) (u : Nat) : Bool := ds.all fun d => decide (u * ds.count d ≤ smGet 0 m d)
def take (m : SMap Nat) (ds : List Nat) (u : Nat) : SMap Nat := ds.foldl (fun m d => smSet 0 m d (smGet 0 m d - u)) m
/-- Charges a request of `n` bytes to the class counters of the HBM dies and of the dies that send it on a mesh edge (R405,
R457); none when it has to be held (R62). -/
def chargeDies (s : State) (core n : Nat) (hbm mesh : List Nat) : Option State :=
  if !counted s core then some s
  else
    let k := classOf s core
    let cl := s.cls k
    let u := units n
    if fits cl.hbmLeft hbm u && fits cl.meshLeft mesh u then
      some (s.setCls k { cl with hbmLeft := take cl.hbmLeft hbm u, meshLeft := take cl.meshLeft mesh u })
    else none
/-- Which payloads of a request cross the mesh: those of a write, the reply of a read, or both for an atomic. -/
inductive Dir where
  | rd | wr | both
  deriving DecidableEq, Repr
def hbmDies (pa : Nat) : List Nat := match target pa with | .hbm d _ => [d] | _ => []
def meshDies (s : State) (core pa : Nat) (d : Dir) : List Nat :=
  let d1 := dieOf core
  let d2 := (homeDie s pa).getD d1
  (if d = .rd then [] else (route s d1 d2).getD []) ++ (if d = .wr then [] else (route s d2 d1).getD [])
def charge (s : State) (core pa n : Nat) (d : Dir) : Option State := chargeDies s core n (hbmDies pa) (meshDies s core pa d)

/-! ### One access -/

/-- Where an access lands. -/
inductive Loc where
  | phys (pa : Nat) (pte : DWord)
  | spad (cluster a : Nat)
  | tcm (core a : Nat)
  deriving DecidableEq, Repr

/-- The outcome of an access: a value (with the found and expected tag on a mismatch), done, a fault, or held (R62). -/
inductive Acc where
  | val (v : Nat) (tag : Option (BitVec 4 × BitVec 4))
  | done
  | fault (code : BitVec 8) (tval : DWord)
  | held
  deriving DecidableEq, Repr

/-- The effective address of R127: `g:` keeps bits [63:56] of the base and wraps bits [55:0]; other spaces wrap at 2^64. -/
def effAddr (space : BitVec 2) (base : DWord) (off : Int) : DWord :=
  if space = 0 then base.extractLsb' 56 8 ++ (base.extractLsb' 0 56 + BitVec.ofInt 56 off)
  else base + BitVec.ofInt 64 off

/-- The form of an address (R41, R126, R130): the value `%tval` takes with cause 0x08, or none. -/
def formFault (s : State) (core : Nat) (space : BitVec 2) (ea : DWord) : Option DWord :=
  let g := s.gangOf core
  if space = 0 then if ea.extractLsb' 56 4 ≠ 0 then some ea else none
  else if space = 1 then if g.spUnits * 127 ≤ ea.toNat / 32 then some (BitVec.ofNat 64 (ea.toNat / 32)) else none
  else if space = 2 then if g.tcmBlocks * 4096 ≤ ea.toNat then some ea else none
  else if ea.extractLsb' 25 39 ≠ 0 ∨ g.g ≤ (ea.extractLsb' 20 5).toNat ∨ g.tcmBlocks * 4096 ≤ (ea.extractLsb' 0 20).toNat
  then some ea else none

/-- The location of an address in a space other than `g:`. -/
def localLoc (s : State) (core : Nat) (space : BitVec 2) (ea : DWord) : Loc :=
  let g := s.gangOf core
  if space = 1 then .spad (clusterOf core) (g.spBase * 4064 + ea.toNat)
  else if space = 2 then .tcm core ea.toNat
  else .tcm ((g.coreAt (ea.extractLsb' 20 5).toNat).getD core) (ea.extractLsb' 0 20).toNat

/-- Checks 2 to 4 of R225 (1 to 4 of R325), and the location. -/
def resolve (s : State) (w : Who) (pins : List TlbEntry) (space : BitVec 2) (ea : DWord) (n : Nat) (k : Kind) :
    State × Except (BitVec 8 × DWord) Loc :=
  if ea.toNat % n ≠ 0 then (s, .error (0x02, ea))
  else match formFault s w.core space ea with
  | some v => (s, .error (0x08, v))
  | none =>
    if space ≠ 0 then (s, .ok (localLoc s w.core space ea))
    else
      let va := (ea.extractLsb' 0 56).toNat
      let s := watchCheck s w va n k.reads k.writes
      match xlate s w.core pins va with
      | (s, .fail) => (s, .error (k.pageFault, ea))
      | (s, .bad) => (ringAppend s w 0x07 true ea 0 0, .error (0x07, ea))
      | (s, .refused) => (s, .error (0x08, ea))
      | (s, .ok e b _) =>
        match permFault k e with
        | some 0x07 => (ringAppend s w 0x07 false ea 0 0, .error (0x07, ea))
        | some cause => (s, .error (cause, ea))
        | none => (s, .ok (.phys (pteFrame e + (va - b)) e))

/-- The tag check of one unit (R131): the found and expected tag on a mismatch. -/
def tagBad (s : State) (pa : Nat) (pte ea : DWord) : Option (BitVec 4 × BitVec 4) :=
  let t : BitVec 4 := ea.extractLsb' 60 4
  if t ≠ 0 ∧ pteTg pte = true ∧ tagOf s pa ≠ t then some (tagOf s pa, t) else none

/-- The bytes a location reads as. -/
def locRead (s : State) (l : Loc) (n : Nat) : Nat :=
  match l with
  | .phys pa _ => memRd s.mem pa n
  | .spad k a => memRd (s.clu k).spad a n
  | .tcm c a => memRd (s.coreN c).tcm a n

/-- Whether the storage of a location reads as poisoned (R390): TCM words of 8 bytes, scratchpad words of 32. -/
def locPoison (s : State) (core : Nat) (l : Loc) : Bool :=
  match l with
  | .phys pa _ => !usable s (dieOf core) pa || poisoned s pa
  | .spad k a => (s.clu k).spPoison.contains (a / 32)
  | .tcm c a => (s.coreN c).tcmPoison.contains (a / 8)

/-- Keeps the old byte of a code location until its fetch may see the new one (R209, R283). -/
def keepStale (l : List Host.Cell) (m : Mem) (pa : Nat) : Nat → List Host.Cell
  | 0 => l
  | n + 1 => keepStale (if smHas l pa then l else l ++ [(pa, memGet m pa)]) m (pa + 1) n

/-- Writes `n` bytes at a location; a write that covers a whole poison unit clears it (R390, R392). Bytes that the C-stream
stores stay unseen by its fetch (R209). -/
def locWrite (s : State) (w : Who) (l : Loc) (n v : Nat) : State :=
  match l with
  | .phys pa _ =>
    let c := s.coreN w.core
    let c := if w.src = 0 then c.updCtl fun k => { k with stale := keepStale k.stale s.mem pa n } else c
    let s := { s with mem := memWr s.mem pa n v }
    let s := if n = 32 then clearPoison s pa else s
    s.setCoreN w.core c
  | .spad k a =>
    let cl := s.clu k
    s.setClu k { cl with spad := memWr cl.spad a n v,
                         spPoison := if n = 32 then cl.spPoison.filter (· ≠ a / 32) else cl.spPoison }
  | .tcm c a => s.updN c fun t =>
      { t with tcm := memWr t.tcm a n v, tcmDirty := smSet false t.tcmDirty (a / 4096) true,
               tcmPoison := if 8 ≤ n then t.tcmPoison.filter (fun x => x < a / 8 ∨ (a + n) / 8 ≤ x) else t.tcmPoison }

/-- A load of `n` bytes (R225, R325): checks, poison, then the value with any tag mismatch. -/
def loadAt (s : State) (w : Who) (pins : List TlbEntry) (space : BitVec 2) (ea : DWord) (n : Nat) (k : Kind) : State × Acc :=
  match resolve s w pins space ea n k with
  | (s, .error (c, v)) => (s, .fault c v)
  | (s, .ok l) =>
    match l with
    | .phys pa pte =>
      match charge s w.core pa n .rd with
      | none => (s, .held)
      | some s =>
        if locPoison s w.core l then (ringAppend s w 0x07 false ea 0 0, .fault 0x07 ea)
        else if peerAns pa = 0 then (s, .fault 0x08 ea)
        else match tagBad s pa pte ea with
        | some (f, e) => (ringAppend s w 0x05 false ea f e, .val (locRead s l n) (some (f, e)))
        | none => (s, .val (locRead s l n) none)
    | _ =>
      if locPoison s w.core l then (ringAppend s w 0x07 false ea 0 0, .fault 0x07 ea) else (s, .val (locRead s l n) none)

/-- A store of `n` bytes, the new value computed from the old where a nibble is merged (R66, R135). A store that a tag
mismatch, a failed path or a peer drops is reported later (R132, R455, R462). -/
def storeAt (s : State) (w : Who) (pins : List TlbEntry) (space : BitVec 2) (ea : DWord) (n : Nat) (k : Kind)
    (f : Nat → Nat) : State × Acc :=
  match resolve s w pins space ea n k with
  | (s, .error (c, v)) => (s, .fault c v)
  | (s, .ok l) =>
    match l with
    | .phys pa pte =>
      match charge s w.core pa n .wr with
      | none => (s, .held)
      | some s =>
        if !usable s (dieOf w.core) pa || peerAns pa != 2 && peerAns pa != 3 then (report s w.core 0x08 ea, .done)
        else match tagBad s pa pte ea with
        | some (fd, e) => (report (ringAppend s w 0x06 false ea fd e) w.core 0x06 ea, .done)
        | none => (locWrite s w l n (f (locRead s l n)), .done)
    | _ => (locWrite s w l n (f (locRead s l n)), .done)

/-- An atomic of `n` bytes at its unit (R145, R227): the old value; the operation answers the new value, or none where it
makes no write. A tag mismatch stops it with no effect (R225). -/
def amoAt (s : State) (w : Who) (pins : List TlbEntry) (space : BitVec 2) (ea : DWord) (n : Nat) (op : Nat → Option Nat) :
    State × Acc :=
  match resolve s w pins space ea n .amo with
  | (s, .error (c, v)) => (s, .fault c v)
  | (s, .ok l) =>
    let go (s : State) : State × Acc :=
      let old := locRead s l n
      match op old with
      | some v => (locWrite s w l n v, .val old none)
      | none => (s, .val old none)
    match l with
    | .phys pa pte =>
      match charge s w.core pa n .both with
      | none => (s, .held)
      | some s =>
        if locPoison s w.core l then (ringAppend s w 0x07 false ea 0 0, .fault 0x07 ea)
        else match tagBad s pa pte ea with
        | some (fd, e) => (ringAppend s w 0x05 false ea fd e, .fault 0x05 ea)
        | none => go s
    | _ => if locPoison s w.core l then (ringAppend s w 0x07 false ea 0 0, .fault 0x07 ea) else go s

/-! ### Fetch (R209, R283) -/

/-- The byte the C-stream's fetch sees at a physical address: the oldest value kept, else memory. -/
def fetchByte (s : State) (st fenced : List Host.Cell) (pa : Nat) : Byte :=
  if smHas fenced pa then smGet 0 fenced pa else if smHas st pa then smGet 0 st pa else memGet s.mem pa

/-- The outcome of the fetch of one word. -/
inductive Fetch where
  | word (w : Word)
  | fault (code : BitVec 8)
  /-- a byte budget holds the request (R62) -/
  | held
  deriving DecidableEq, Repr

/-- Charges the fetch of a word once for each time its instruction comes up (R405, log 59); `head` is where the instruction or
convoy begins. -/
def fetchCharge (s : State) (n : Nat) (v : Bool) (head va : VAddr) (pa : Nat) : Option State :=
  let p := if v then (s.coreN n).vec.paid else (s.coreN n).ctl.paid
  let p := if p.getLast? = some head then p else []
  if !counted s n || p.contains va then some s
  else (charge s n pa 4 .rd).map fun s => s.updN n fun c =>
    if v then c.updVec fun k => { k with paid := va :: p } else c.updCtl fun k => { k with paid := va :: p }

/-- Fetches one word for the C-stream (`v` false) or the V-stream of a core. A poison fault has its entry in the report ring
(R389). -/
def fetchWord (s : State) (w : Who) (v : Bool) (head va : VAddr) : State × Fetch :=
  match xlate s w.core [] va.toNat with
  | (s, .fail) => (s, .fault 0x03)
  | (s, .bad) => (ringAppend s w 0x07 true (va.setWidth 64) 0 0, .fault 0x07)
  | (s, .refused) => (s, .fault 0x08)
  | (s, .ok e b _) =>
    match permFault .fetch e with
    | some 0x07 => (ringAppend s w 0x07 false (va.setWidth 64) 0 0, .fault 0x07)
    | some c => (s, .fault c)
    | none =>
      let pa := pteFrame e + (va.toNat - b)
      match fetchCharge s w.core v head va pa with
      | none => (s, .held)
      | some s =>
        if !usable s (dieOf w.core) pa || poisoned s pa then (ringAppend s w 0x07 false (va.setWidth 64) 0 0, .fault 0x07)
        else if peerAns pa = 0 then (s, .fault 0x08)
        else
          let c := s.coreN w.core
          let byte := fun i => if v then memGet (c.vec.img.getD s.mem) (pa + i) else fetchByte s c.ctl.stale c.ctl.staleFenced (pa + i)
          (s, .word (BitVec.ofNat 32 (leVal ((List.range 4).map byte))))

/-- A taken C-stream transfer lets fetch see stores made before the last core fence (R209). R209 names the fence and "a taken control
transfer": that trap entry, `eret`, arrival entry and `aret` are such transfers is the model's choice (log 82). -/
def cTransfer (c : Core) : Core := c.updCtl fun k => { k with staleFenced := [] }
/-- A fence at core scope or wider (R209). -/
def cFenced (c : Core) : Core :=
  c.updCtl fun k => { k with staleFenced := k.staleFenced ++ k.stale.filter (fun p => !smHas k.staleFenced p.1), stale := [] }
/-- A taken V-stream transfer lets fetch see memory as the last core `vfence` found it (R283). -/
def vTransfer (c : Core) : Core := c.updVec fun k => { k with img := if k.imgFenced.isSome then k.imgFenced else k.img, imgFenced := none }
/-- A `vfence` at core scope or wider (R283). -/
def vFenced (s : State) (n : Nat) : State := s.updN n fun c => c.updVec fun k => { k with imgFenced := some s.mem }
/-- A start of the V-stream: its fetch sees every store made so far (R283). -/
def vFresh (s : State) (n : Nat) : State := s.updN n fun c => c.updVec fun k => { k with img := some s.mem, imgFenced := none }

/-! ### The command processors' accesses -/

/-- Translates for a command processor, with no cached translation. -/
def cpXlate (s : State) (die : Nat) (asid : BitVec 10) (va : Nat) (wr : Bool) : Option Nat :=
  match walk s die asid va with
  | .ok e b _ =>
    match permFault (if wr then .store else .load) e with
    | none =>
      let pa := pteFrame e + (va - b)
      if usable s die pa && (if wr then peerAns pa == 2 || peerAns pa == 3 else peerAns pa != 0) then some pa else none
    | some _ => none
  | _ => none

/-- Reads `n` bytes for a command processor, 8 at most; none on a failed translation or poison (R398). -/
def cpRead (s : State) (die : Nat) (asid : BitVec 10) (va n : Nat) : Option Nat :=
  match cpXlate s die asid va false with
  | some pa => if poisoned s pa then none else some (memRd s.mem pa n)
  | none => none
/-- Writes `n` bytes for a command processor; none where R398 says it is not written. -/
def cpWrite (s : State) (die : Nat) (asid : BitVec 10) (va n v : Nat) : Option State :=
  (cpXlate s die asid va true).map fun pa => { s with mem := memWr s.mem pa n v }

end Sys2Proof.Machine
end

