-- ==== Sys2Proof/Machine/Launch.lean ====
section
/-! DEFINITION. What the debug block and the command processors write: trace records (R449 to R451), fault records, messages
and MSI-X (R372, R400, R465), completion words (R35, R398), the stop of a gang and the end of a task (R370, R409 to R413),
and cancellation (R408, R409). -/

namespace Sys2Proof.Machine

/-! ### Trace records -/

/-- The size of a trace buffer in 32-byte units (R449, R450). -/
def trcUnits (d : Dbg) : Nat := 2 ^ ((d.trcCtl.extractLsb' 8 5).toNat + 7)
/-- The virtual address of unit `i` of a cluster's trace buffer. -/
def trcVa (d : Dbg) (i : Nat) : Nat := (d.trcBase.extractLsb' 12 44).toNat * 4096 + 32 * (i % trcUnits d)
/-- Translates the page of a unit and pins it, where it is not pinned yet (R386). -/
def trcPinUnit (s : State) (k i : Nat) : State :=
  let d := s.dbgOf k
  let asid := d.trcBase.extractLsb' 0 10
  if d.trcPins.any fun t => t.covers asid (trcVa d i) then s
  else match walk s (k / 2) asid (trcVa d i) with
  | .ok e b z => if (permFault .store e).isNone then s.setDbg k { d with trcPins := d.trcPins ++ [⟨asid, b, z, e⟩] } else s
  | _ => s
/-- The physical address of unit `i` of a cluster's trace buffer, through its pins (R386), where a peer does not refuse it (R462). -/
def trcAddr (s : State) (k : Nat) (i : Nat) : Option Nat :=
  let d := s.dbgOf k
  match d.trcPins.find? fun t => t.covers (d.trcBase.extractLsb' 0 10) (trcVa d i) with
  | some t =>
    let pa := pteFrame t.pte + (trcVa d i - t.base)
    if mapOk s pa (pteLoc t.pte) && usable s (k / 2) pa && decide (2 ≤ peerAns pa) then some pa else none
  | none => none

/-- Writes four words at a unit. -/
def trcUnit (s : State) (pa : Nat) (ws : List Nat) : State :=
  { s with mem := (ws.zip (nats 0 4)).foldl (fun m p => memWr m (pa + 8 * p.2) 8 p.1) s.mem }

/-- Writes one record of whole units if there is room and every unit translates (R450). -/
def trcTry (s : State) (k kind core : Nat) (pc : VAddr) (members detail : Nat) (extra : List (List Nat)) : Option State :=
  let d := s.dbgOf k
  let u := 1 + extra.length
  if trcUnits d < (d.trcWp + BitVec.ofNat 32 u - d.trcRp).toNat then none
  else
    let s := (nats d.trcWp.toNat u).foldl (fun s i => trcPinUnit s k i) s
    let d := s.dbgOf k
    let seq := d.trcSeq + 1
    let asid := (s.coreN core).asid
    let w0 := kind * 2 ^ 56 + u * 2 ^ 52 + core * 2 ^ 44 + asid.toNat * 2 ^ 32 + d.trcSeq.toNat
    let hd := [w0, s.clock.toNat, pc.toNat, members * 2 ^ 48 + detail % 2 ^ 48]
    let addrs := (nats d.trcWp.toNat u).map (trcAddr s k)
    if addrs.any (·.isNone) then none
    else
      let s := (addrs.zip (hd :: extra)).foldl (fun s p => trcUnit s (p.1.getD 0) p.2) s
      some (s.setDbg k { d with trcWp := d.trcWp + BitVec.ofNat 32 u, trcSeq := seq })

/-- A record of an armed trace: a loss marker first where records were lost, else dropped and counted (R450). -/
def trcPut (s : State) (k kind core : Nat) (pc : VAddr) (members detail : Nat) (extra : List (List Nat)) : State :=
  let d := s.dbgOf k
  let drop (s : State) : State :=
    let d := s.dbgOf k
    s.setDbg k { d with trcLost := if d.trcLost = BitVec.allOnes 32 then d.trcLost else d.trcLost + 1, lostMark := d.lostMark + 1 }
  if d.lostMark = 0 then (trcTry s k kind core pc members detail extra).getD (drop s)
  else
    match trcTry s k 0x08 core 0 0 d.lostMark [] with
    | none => drop s
    | some s =>
      let s := s.setDbg k { s.dbgOf k with lostMark := 0 }
      (trcTry s k kind core pc members detail extra).getD (drop s)

/-- The selection bit of `trc_ctl` for a kind of record; freezes and thaws are always recorded (log 33). -/
def trcSel (kind : Nat) : Option Nat :=
  if kind = 1 ∨ kind = 2 then some 4 else if kind = 3 then some 3 else if kind = 4 ∨ kind = 5 then some 2
  else if kind = 0x10 then some 1 else none

/-- An event that a cluster's trace may record (R451). -/
def trace (s : State) (kind core : Nat) (pc : VAddr) (members detail : Nat) (extra : List (List Nat) := []) : State :=
  let k := clusterOf core
  let d := s.dbgOf k
  if d.trcCtl.getLsbD 0 && (match trcSel kind with | some b => d.trcCtl.getLsbD b | none => true) then
    trcPut s k kind core pc members detail extra
  else s

/-! ### Logs, MSI-X and completion words -/

/-- Raises a vector of the QHA-7; 0xFF is none (R396, R465). -/
def msixRaise (s : State) (v : Nat) : State := if v < 64 then { s with msix := smSet 0 s.msix v (smGet 0 s.msix v + 1) } else s

/-- A command processor's write of whole words; none unless every word can be written. -/
def cpWords (s : State) (die : Nat) (asid : BitVec 10) (va : Nat) : List Nat → Option State
  | [] => some s
  | w :: t => (cpWrite s die asid va 8 w).bind fun s => cpWords s die asid (va + 8) t
/-- A write of a control-block field, which has no further report. -/
def cpField (s : State) (q : Queue) (off n v : Nat) : State := (cpWrite s q.home q.asid (q.ctl.toNat + off) n v).getD s

/-- A log or completion write that could not be made (R398). -/
def logFail (s : State) (k : Nat) : State :=
  match smFind s.queues k with
  | none => s
  | some q =>
    let q := { q with wfail := q.wfail + 1 }
    msixRaise (cpField { s with queues := smPut s.queues k q } q 0x58 4 q.wfail.toNat) q.vector

/-- Appends a fault record to a queue's fault log (R400). -/
def flogAppend (s : State) (k : Nat) (ws : List Nat) : State :=
  match smFind s.queues k with
  | none => s
  | some q =>
    let r := cpWords s q.home q.asid (q.flog.toNat + 64 * (q.flogTail.toNat % 2 ^ q.flogLog)) ws
    let q := { q with flogTail := q.flogTail + 1 }
    let s := { (r.getD s) with queues := smPut s.queues k q }
    let s := cpField s q 0x28 4 q.flogTail.toNat
    if r.isSome then msixRaise s q.vector else logFail s k

/-- Appends a message to a queue's message log (R400). -/
def mlogAppend (s : State) (k : Nat) (ws : List Nat) : State :=
  match smFind s.queues k with
  | none => s
  | some q =>
    let r := cpWords s q.home q.asid (q.mlog.toNat + 16 * (q.mlogTail.toNat % 2 ^ q.mlogLog)) ws
    let q := { q with mlogTail := q.mlogTail + 1 }
    let s := { (r.getD s) with queues := smPut s.queues k q }
    let s := cpField s q 0x38 4 q.mlogTail.toNat
    if r.isSome then msixRaise s q.vector else logFail s k

/-- A fault record (R372) for a core, at a time; without a launch it is only logged by the command processor. -/
def faultRecordAt (clk : DWord) (s : State) (n : Nat) (code : BitVec 8) (src : BitVec 3) (dbl : Bool) (epc : VAddr) (tval pfrec detail : DWord) : State :=
  let c := s.coreN n
  let s := cpEvent s (0x100 + code.toNat) n
  match smFind s.launches (s.gangOf n).launch with
  | none => s
  | some l =>
    flogAppend s l.queue
      [l.id.toNat * 2 ^ 32 + code.toNat * 2 ^ 24 + src.toNat * 2 ^ 21 + (if dbl then 2 ^ 20 else 0) + l.asid.toNat,
       n * 256 + c.rank, epc.toNat, tval.toNat, clk.toNat, pfrec.toNat, detail.toNat, 0]
/-- A fault record of the present (R372). -/
def faultRecord (s : State) (n : Nat) (code : BitVec 8) (src : BitVec 3) (dbl : Bool) (epc : VAddr) (tval pfrec detail : DWord) : State :=
  faultRecordAt s.clock s n code src dbl epc tval pfrec detail

def descWord (l : Launch) (i : Nat) : DWord := l.desc.getD i 0

/-- Writes a completion word (R35), or counts the failure (R398). R34 lets a launch have more than 2^32 − 1 tasks, and R35 does not say
what the field then holds: of the count of ended tasks the word has its low 32 bits. R398 does not name a completion_ptr that is
misaligned or has bits [59:56] set: it fails as one that does not translate. Both are the model's choice (log 83). -/
def completion (s : State) (l : Launch) (status done : Nat) : State :=
  let p := descWord l 7
  if p.extractLsb' 56 4 ≠ 0 ∨ p.toNat % 8 ≠ 0 then logFail s l.queue
  else (cpWrite s l.home l.asid (p.extractLsb' 0 56).toNat 8 (done * 2 ^ 32 + status)).getD (logFail s l.queue)

/-- Ends a launch when its last task has ended (R35, R44, R409). -/
def endLaunch (s : State) (k : Nat) : State :=
  match smFind s.launches k with
  | none => s
  | some l =>
    if l.ended || !l.waiting.isEmpty || l.running != 0 then s
    else
      let st := if l.faulted then 4 else if l.cancelled then 3 else 1
      completion { s with launches := smPut s.launches k { l with ended := true } } l st l.done

def State.updLaunch (s : State) (k : Nat) (f : Launch → Launch) : State :=
  match smFind s.launches k with
  | some l => { s with launches := smPut s.launches k (f l) }
  | none => s

/-! ### Profile samples (R452) -/

/-- Writes the sample that is due. The timing fields are free (log 5). -/
def profWrite (s : State) (n : Nat) : State :=
  match (s.coreN n).vec.prof with
  | none => s
  | some (pc, len, k, cnt) =>
    let fb (j w : Nat) : Nat := Config.freeBits (s.free + j) % 2 ^ w
    let ent (j : Nat) : Nat :=
      let el := ((nats 0 cnt).filter fun e => e / 32 % 12 == j).length
      fb (4 * j) 12 * 2 ^ 52 + el * 2 ^ 38 + fb (4 * j + 1) 12 * 2 ^ 26 + fb (4 * j + 2) 13 * 2 ^ 13 + fb (4 * j + 3) 13
    let rows := (nats 0 3).map fun r => (nats (4 * r) 4).map ent
    let d := k * 2 ^ 46 + cnt * 2 ^ 32 + (s.coreN n).cadMiss.toNat
    let s := trace s 0x10 n pc len d rows
    ({ s with free := s.free + 48 }).updN n fun c => c.updVec fun v => { v with prof := none }

/-! ### The end of a task -/

/-- A core after its task: registers, rows, memories and counters stay until the next start (R42); what the task had queued, in
flight or pending is gone, and so is its hold on the core. -/
def Core.freed (c : Core) : Core :=
  { c with
    run := .free, gang := 0, asid := 0, rank := 0, latched := false, freezeLatch := false, ctxOp := none, ctxErr := false,
    savedAt := none, loadHeld := false, ebrk := [], byteHeld := none, watchHit := none, grants := [], ptraps := [], inflight := [], reports := [],
    comb := []
    ctl := { c.ctl with priv := 1, exiting := false, exited := false, exitOwed := false, took := none, pauseEnd := none,
                        pendArrived := false, cadTested := false, stalled := false, arrPend := 0, inHandler := false, paid := [] }
    vec := { c.vec with halted := true, cv := none, trapped := false, brdMark := false, after := [], strip := [], scat := [],
                        stop := {}, prof := none, paid := [] }
    str := { c.str with queue := [], stopped := false }
    grd := { c.grd with queue := [], issued := [], dones := [], stopped := false, owed := [] }
    cpy := { c.cpy with queue := [], flight := [], stopped := false } }

/-- Frees a core (R44, R370): `asid` is 0 with no resident task (R361). A profile sample that is due is written first (R452). -/
def freeCore (s : State) (n : Nat) : State :=
  let s := profWrite s n
  let b := (s.gangOf n).bar
  s.updN n fun c => { c.freed with lastBar := b }

/-- The last stop detail of R451 and how the task counts: 0 exit, 5 faulted, 6 cancelled. -/
def endTask (s : State) (g how : Nat) : State :=
  let t := s.gangN g
  let s := if t.life = .saved then s
    else t.cores.foldl (fun s n => freeCore (trace (profWrite s n) 2 n (s.coreN n).ctl.pc 0 how) n) s
  let s := { s with gangs := smErase s.gangs g }
  let s := s.updLaunch t.launch fun l =>
    { l with running := l.running - 1, done := if how = 0 then l.done + 1 else l.done, faulted := l.faulted || how == 5 }
  endLaunch s t.launch

/-! ### Stopping a gang (R410 to R413) -/

/-- Whether an engine of a core may start anything: not when a stop, a freeze, a save or a load holds it (R371, R411, R444). -/
def engOk (c : Core) : Bool :=
  c.run == .run && !c.latched && !c.frozen && !c.freezeLatch && c.ctxOp.isNone && c.savedAt.isNone && !c.loadHeld

/-- Every engine of the core has stopped: no convoy inside itself, no issued update (R411). -/
def enginesStopped (c : Core) : Bool := c.vec.cv.isNone && c.grd.issued.isEmpty
def coreStopped (c : Core) : Bool := c.run == .stopped && enginesStopped c

/-- The copies of an engine that stops, for a stop of the gang, a freeze or a posted fault: their chunks release their pins, and each
forms a new one where it goes on, from its first element not done (R385, R411). What they have sent has been applied (log 30). -/
def Core.dropPins (c : Core) : Core :=
  c.updCpy fun k => { k with flight := k.flight.map fun f => { f with pins := [], chunk := f.k, noted := none } }

/-- The latch of a request at one core (R410): its posted engines stop, also where its C-stream is in a handler (R366, R411). -/
def latchCore (why : StopWhy) (c : Core) : Core :=
  let b : BitVec 5 := if why = .cancel then 4 else 2
  { c.dropPins with latched := true, ctl := { c.ctl with event := c.ctl.event ||| b } }

/-- Whether a save of the gang has begun, or committed. -/
def saveBegun (s : State) (g : Gang) : Bool := g.cores.any fun n => (s.coreN n).ctxOp.isSome || (s.coreN n).savedAt.isSome

/-- Whether a core of a gang is frozen. -/
def gangFrozen (s : State) (t : Gang) : Bool := t.cores.any fun n => (s.coreN n).frozen
/-- Whether a freeze holds the requests of a gang: it is frozen, or a freeze has latched (R448). -/
def gangHeld (s : State) (t : Gang) : Bool := t.cores.any fun n => (s.coreN n).frozen || (s.coreN n).freezeLatch

/-- Whether a request ends the task. -/
def endsTask (w : StopWhy) : Bool := w == .cancel || w == .faulted
/-- The request that stands of two: the first, but the end of the task before any other, and a faulted end before all. -/
def laterWhy : Option StopWhy → StopWhy → StopWhy
  | none, w => w
  | some v, w => if endsTask w && v != .faulted then w else v

/-- The latch of a request at every core of a gang (R410). -/
def latchAll (s : State) (g : Nat) (why : StopWhy) : State :=
  let t := s.gangN g
  let s := s.setGang g { t with why := some why, reqClock := s.clock, life := .stopping,
                                dlRec := if why = .cancel then none else t.dlRec }
  t.cores.foldl (fun s n => s.updN n (latchCore why)) s

/-- The reason byte of the slots that a gang's ranks have already committed to (R415). -/
def slotReason (s : State) (t : Gang) (code : Nat) : State :=
  t.cores.foldl (fun s n => match (s.coreN n).savedAt with | some a => { s with mem := memWr s.mem (a + 11) 1 code } | none => s) s

/-- A request acts on a gang (R410, R424): the first reason latched stands, but the victim's own budget replaces a reservation, in the
slots already committed too; a cancellation or the end of a faulted task replaces any reason whose save has not begun, and waits for
the commit of a save that has (R409); and a cancellation replaces the end at a deadline, whose record is still to write. While the
gang loads, the request waits for the load. -/
def latchNow (s : State) (g : Nat) (why : StopWhy) : State :=
  let t := s.gangN g
  if t.life = .saved then s
  else if t.life = .loading then s.setGang g { t with why := some (laterWhy t.why why) }
  else match t.why with
  | none => latchAll s g why
  | some w =>
    if w = .faulted then (if why = .cancel ∧ t.dlRec.isSome = true then latchAll s g why else s)
    else if endsTask why then
      if saveBegun s t then
        let doom := if why = .cancel ∧ t.dlRec.isSome = true then why else laterWhy t.doom why
        let s := s.setGang g { t with doom := some doom, dlRec := if why = .cancel then none else t.dlRec }
        t.cores.foldl (fun s n => s.updN n (latchCore why)) s
      else latchAll s g why
    else if w = .reservation ∧ why = .budget then slotReason (s.setGang g { t with why := some why }) t 1
    else s

/-- A request reaches a gang: it acts, but during a freeze it waits for the thaw (R448). -/
def latchGang (s : State) (g : Nat) (why : StopWhy) : State :=
  let t := s.gangN g
  if t.life = .saved then s
  else if gangHeld s t then s.setGang g { t with late := some (laterWhy t.late why) }
  else latchNow s g why

/-- The drains of R412 on one core: no scatter unacknowledged, no granted inbox entry on its way, no report in flight. -/
def drained (s : State) (n : Nat) : Bool :=
  let c := s.coreN n
  c.vec.scat.isEmpty && c.inflight.isEmpty && !s.recs.any (fun e => e.core == n) && c.comb.all (fun p => p.2.isEmpty) &&
  !s.mail.any (fun m => m.granted && (m.dst == n || m.src == n))

/-- The look-ahead of the stream registers is discarded (R115). -/
def Core.dropAhead (c : Core) : Core := c.updStr fun t => { t with q := t.q.map fun x => (x.1, { x.2 with ahead := [] }) }

/-- A core stops at its boundary for a stop of its gang (R411). A `pause` it leaves starts anew after the resume, with a full 64 aclk: the model's choice, the spec is silent (log 48). -/
def stopCore (s : State) (n : Nat) : State :=
  s.updN n fun c =>
    let c := (if c.ctl.pendArrived then c else giveBack c).dropAhead.dropPins
    { c with
      run := .stopped, byteHeld := none,
      ctl := { c.ctl with pauseEnd := none, cadTested := false, stalled := false } }

/-- A gang whose task ends as faulted (R370): every other rank stops precisely. -/
def faultTask (s : State) (n : Nat) : State :=
  let g := s.gid n
  if (s.coreN n).hasTask then
    let s := s.updLaunch (s.gangN g).launch fun l => { l with faulted := true }
    stopCore (latchGang s g .faulted) n
  else s.updN n fun c => c.updCtl fun k => { k with waitReset := true }

/-! ### Cancellation (R408, R409) -/

def tokenOf (l : Launch) : BitVec 32 := (descWord l 5).setWidth 32

/-- A cancellation acts on one gang of a launch. -/
def cancelGang (s : State) (g : Nat) : State :=
  let t := s.gangN g
  if t.life = .saved then endTask s g 6 else latchGang s g .cancel

/-- A cancellation acts on one launch (R409). -/
def cancelLaunch (s : State) (k : Nat) : State :=
  match smFind s.launches k with
  | none => s
  | some l =>
    if l.ended then s
    else
      let s := s.updLaunch k fun l => { l with cancelled := true, removed := l.removed + (l.waiting.map (·.2.2)).foldl (· + ·) 0, waiting := [] }
      let gs := (s.gangs.filter fun p => p.2.launch == k).map (·.1)
      let s := gs.foldl cancelGang s
      endLaunch s k

/-- Cancels a token for every launch of an ASID, consumed or still in a ring (R408, R409). Token 0 cancels nothing. -/
def cancelToken (s : State) (asid : BitVec 10) (tok : BitVec 32) : State :=
  if tok = 0 then s
  else
    let ks := (s.launches.filter fun p => p.2.asid == asid && tokenOf p.2 == tok).map (·.1)
    let s := ks.foldl cancelLaunch s
    { s with queues := s.queues.map fun p =>
        if p.2.asid = asid then
          match cpRead s p.2.home asid p.2.ctl.toNat 4 with
          | some t => (p.1, { p.2 with cancels := (tok, BitVec.ofNat 32 t) :: p.2.cancels })
          | none => p
        else p }

/-! ### Freezes (R441 to R444) -/

/-- A freeze of a core's cluster for a reason (R441, R444): 1 request, 2 breakpoint, 3 watchpoint, 4 `ebreak`. -/
def requestFreeze (s : State) (n : Nat) (reason : BitVec 3) (unit : BitVec 4) (src : BitVec 3) : State :=
  let k := clusterOf n
  let d := s.dbgOf k
  if d.frozen || d.pending then s
  else
    let s := s.setDbg k { d with pending := true, core := BitVec.ofNat 8 n, reason := reason, unit := unit, src := src }
    (nats (24 * k) 24).foldl (fun s m => s.updN m fun c => { c.dropPins with freezeLatch := true }) s

/-- A watchpoint hit of a core is answered, under the engine that made the access (R443). -/
def watchAnswer (s : State) (n : Nat) : State :=
  match (s.coreN n).watchHit with
  | some (u, src) => requestFreeze (s.updN n fun c => { c with watchHit := none }) n 3 (BitVec.ofNat 4 u) (BitVec.ofNat 3 src)
  | none => s

end Sys2Proof.Machine
end

