-- ==== Sys2Proof/Machine/Records.lean ====
section
/-! DEFINITION. Statistics records (R156 to R173): contributions, combining buffers, application at the home die, samples.
A flush applies the entries it sends at once (log 30); an entry that a byte budget holds stays in its buffer, and the flush waits
(R62). How record traffic is charged, and what it does where no path leads to the home die, is log 75. -/

namespace Sys2Proof.Machine

/-- The physical address of a record for a core; none when it is out of table (R159, R160, R360). -/
def recAddr (c : Core) (id : BitVec 20) : Option Nat :=
  let home := (id.extractLsb' 18 2).toNat
  let seg := smGet 0 c.ctl.rtseg home
  let idx := (id.extractLsb' 0 18).toNat
  if idx < rtSize seg then some (sramBase home + rtBase seg + 128 * idx) else none

def recConfig (s : State) (pa : Nat) : BitVec 32 := BitVec.ofNat 32 (memRd s.mem (pa + 20) 4)
/-- The base exponent of a config word (R157). -/
def cfgBase (c : BitVec 32) : Int := (c.extractLsb' 0 9).toInt
def cfgFmt (c : BitVec 32) : BitVec 4 := c.extractLsb' 20 4
def cfgMargin (c : BitVec 32) : Nat := (c.extractLsb' 16 2).toNat

/-! ### One contribution (R158, R162) -/

/-- The bin of a finite value (R158). -/
def binOf (base : Int) (m : Nat) (e : Int) : Nat :=
  if m = 0 then 0
  else
    let x : Int := (Nat.log2 m : Int) + e
    if x < base then 0 else if base + 45 < x then 47 else (x - base + 1).toNat

/-- The amax contribution of a finite value, rounded up to F32 and kept finite (R162). -/
def amaxOf (m : Nat) (e : Int) : Nat :=
  let r := (fconv f32 false 3 0 (.fin false m e)).1
  if r = f32.infCode then 0x7F7FFFFF else r

/-- Adds one element to a partial record. -/
def Partial.add (p : Partial) (base : Int) (v : FVal) : Partial :=
  let p := { p with count := p.count + 1 }
  match v with
  | .fin _ m e =>
    let a := amaxOf m e
    let b := binOf base m e
    { p with amax := if p.amax.toNat < a then BitVec.ofNat 32 a else p.amax,
             bins := smSet 0 p.bins b (min (smGet 0 p.bins b + 1) 0xFFFF) }
  | _ => { p with nonfinite := min (p.nonfinite + 1) 0xFFFFFFFF }

/-! ### Application at the home die (R166, R173) -/

/-- Whether a sector that an entry updates is poisoned: its read gives no data (R391, R392). -/
def entryPoison (s : State) (e : Comb) : Bool :=
  poisoned s e.pa || e.p.bins.any fun b => poisoned s (e.pa + 32 + 32 * (b.1 / 16))

/-- Applies an entry to its record as one step, and sends the non-finite event that it may cause. An entry that meets poison is
dropped and reported, as an update out of table is (the model's choice, log 75). -/
def applyEntry (s : State) (e : Comb) : State :=
  if entryPoison s e then report s e.core 0x08 (e.id.setWidth 64)
  else
  let rd (o n : Nat) := memRd s.mem (e.pa + o) n
  let m := memWr s.mem e.pa 4 (max (rd 0 4) e.p.amax.toNat)
  let m := memWr m (e.pa + 4) 4 (min (rd 4 4 + e.p.nonfinite) 0xFFFFFFFF)
  let m := memWr m (e.pa + 8) 8 (rd 8 8 + e.p.count)
  let m := e.p.bins.foldl (fun m b => memWr m (e.pa + 32 + 2 * b.1) 2 (min (rd (32 + 2 * b.1) 2 + b.2) 0xFFFF)) m
  let cfg := recConfig s e.pa
  let s := { s with mem := m }
  if e.p.nonfinite ≠ 0 ∧ cfg.getLsbD 25 = true ∧ cfg.getLsbD 31 = false then
    let s := { s with mem := memWr s.mem (e.pa + 20) 4 (cfg ||| 0x80000000).toNat }
    let l := smFind s.launches e.launch
    let lid := (l.map (·.id.toNat)).getD 0
    let s := cpEvent s 0x10 (e.id.toNat + 2 ^ 20 * e.asid.toNat + 2 ^ 30 * memRd s.mem (e.pa + 16) 4 +
      2 ^ 62 * (e.core + 256 * e.eng) + 2 ^ 74 * lid)
    match l with
    | some l => cancelToken s e.asid (tokenOf l)
    | none => s
  else s

/-! ### Combining buffers (R164, R165). Buffers: 0 stream, 1 vector, 2 copy -/

def combGet (c : Core) (k : Nat) : List Comb := smGet [] c.comb k
def combPut (c : Core) (k : Nat) (l : List Comb) : Core := { c with comb := smSet [] c.comb k l }
/-- The engine of a buffer, coded as `%cause`.src. -/
def combSrc (k : Nat) : Nat := if k = 0 then 2 else if k = 1 then 1 else 4

/-- A request held at a memory port by a byte budget (R62). -/
def holdAt (s : State) (n src : Nat) (ea : DWord) : State :=
  s.updN n fun c => { c with byteHeld := some (match c.byteHeld with | some x => x | none => (src, ea)) }
/-- The held request of an engine is made. -/
def unhold (s : State) (n src : Nat) : State :=
  s.updN n fun c => { c with byteHeld := match c.byteHeld with | some x => if x.1 = src then none else some x | none => none }

/-- An entry leaves its core along the route to the home die (R456); none where a byte budget holds it. Where no route is left it
is dropped, and reported as a dropped write is (R455). -/
def sendEntry (s : State) (n : Nat) (e : Comb) : Option State :=
  if !usable s (dieOf n) e.pa then some (report s n 0x08 (e.id.setWidth 64))
  else (charge s n e.pa 128 .wr).map fun s => { s with recs := s.recs ++ [e] }

/-- Sends the entries of one buffer that a condition selects; one that is held stays (R62). -/
def sendFrom (s : State) (n k : Nat) (p : Comb → Bool) : State :=
  (combGet (s.coreN n) k).foldl (fun s e =>
    if !p e then s
    else match sendEntry s n e with
      | some s => (unhold s n (combSrc k)).updN n fun c => combPut c k ((combGet c k).filter (·.id != e.id))
      | none => holdAt s n (combSrc k) (e.id.setWidth 64)) s

/-- Sends entries of a core's buffers to their home dies. -/
def sendComb (s : State) (n : Nat) (p : Nat → Comb → Bool) : State :=
  (nats 0 3).foldl (fun s k => sendFrom s n k (p k)) s

/-- Applies every entry of a core that is on its way. -/
def applyCore (s : State) (n : Nat) : State :=
  let mine := s.recs.filter fun e => e.core == n
  mine.foldl applyEntry { s with recs := s.recs.filter fun e => e.core != n }

/-- A flush of the core's entries that a condition selects (R165). -/
def flushComb (s : State) (n : Nat) (p : Nat → Comb → Bool) : State := applyCore (sendComb s n p) n
def flushAll (s : State) (n : Nat) : State := flushComb s n fun _ _ => true
/-- Whether a flush of those entries is complete. -/
def combClear (c : Core) (p : Nat → Comb → Bool) : Bool := (nats 0 3).all fun k => (combGet c k).all fun e => !p k e
def combEmpty (c : Core) : Bool := combClear c fun _ _ => true

/-- Makes room for a new entry in a full buffer: the oldest is sent (R164). Of several of one age the first allocated goes: the
model's choice, the spec names none (log 75). None where a byte budget holds it. -/
def combRoom (s : State) (n k : Nat) : Option State :=
  let l := combGet (s.coreN n) k
  if l.length < 16 then some s
  else
    let old := l.foldl (fun a e => max a e.age) 0
    match l.find? fun e => e.age == old with
    | some e => (sendEntry s n e).map fun s => s.updN n fun c => combPut c k ((combGet c k).filter (·.id != e.id))
    | none => some s

/-- Contributions of one engine to one record (R160 to R164): values of stored elements, in order. None where the engine has to
wait: a byte budget holds the entry that makes room, or the read of the config word (R62, R164). A config word that is poisoned
gives no base (R392): the contribution is dropped and reported (the model's choice, log 75). -/
def contribute (s : State) (n k : Nat) (id : BitVec 20) (vs : List FVal) : Option State :=
  if vs.isEmpty then some s
  else
    match recAddr (s.coreN n) id with
    | none => some (report s n 0x08 (id.setWidth 64))
    | some pa =>
      match (combGet (s.coreN n) k).find? fun e => e.id == id with
      | some e =>
        let e' := { e with p := vs.foldl (fun p v => p.add e.base v) e.p }
        some (s.updN n fun c => combPut c k ((combGet c k).map fun x => if x.id = id then e' else x))
      | none =>
        if !usable s (dieOf n) pa then some (report s n 0x08 (id.setWidth 64))
        else (combRoom s n k).bind fun s => (charge s n pa 4 .rd).map fun s =>
          if poisoned s pa then report s n 0x08 (id.setWidth 64) else
          let base := cfgBase (recConfig s pa)
          let e : Comb := { id := id, base := base, p := vs.foldl (fun p v => p.add base v) {}, asid := (s.coreN n).asid,
                            launch := (s.gangOf n).launch, core := n, eng := combSrc k, pa := pa }
          s.updN n fun c => combPut c k (combGet c k ++ [e])

/-- One access with its contribution (R163): both happen, or neither where either is held. -/
def withContrib (s : State) (n k : Nat) (r : Option (BitVec 20 × List FVal)) (go : State → State × Acc) : State × Acc :=
  match r with
  | none => go s
  | some (id, vs) =>
    match contribute s n k id vs with
    | none => (s, .held)
    | some t =>
      match go t with
      | (t, .done) => (t, .done)
      | (t, .val v x) => (t, .val v x)
      | (_, .held) => (s, .held)
      | (_, .fault _ _) => go s

/-! ### Reads (R166, R168, R170) -/

/-- A record as 128 bytes. -/
def recRead (s : State) (pa : Nat) : List Byte := memBytes s.mem pa 128
/-- Whether a record gives no data: no route leads to its home die (R455), or one of its sectors is poisoned (R390, log 75). -/
def recBad (s : State) (n pa : Nat) : Bool :=
  !usable s (dieOf n) pa || (nats 0 4).any fun i => poisoned s (pa + 32 * i)
def recWord (r : List Byte) (i : Nat) : Nat := leVal ((r.drop (4 * i)).take 4)

/-- `streset` at the home die (R168). -/
def recReset (s : State) (pa : Nat) : State :=
  let gen := BitVec.ofNat 32 (memRd s.mem (pa + 16) 4) + 1
  let cfg := recConfig s pa &&& 0x7FFFFFFF
  let m := memWr s.mem pa 16 0
  let m := memWr m (pa + 32) 96 0
  { s with mem := memWr (memWr m (pa + 16) 4 gen.toNat) (pa + 20) 4 cfg.toNat }

/-- The fields `starm` writes: bits [25:20], [17:16] and [8:0] of the config word (R157, R169). -/
def armMask : BitVec 32 := 0x03F301FF
def armOk (v : DWord) : Bool :=
  (v.toNat < 2 ^ 32 : Bool) && (v.setWidth 32 &&& ~~~(armMask ||| 0x80000000)) == (0 : BitVec 32) &&
  (let f := (v.extractLsb' 20 4).toNat; f == 3 || f == 4 || f == 5 || f == 9)
def recArm (s : State) (pa : Nat) (v : DWord) : State :=
  let cfg := (recConfig s pa &&& ~~~armMask) ||| (v.setWidth 32 &&& armMask)
  { s with mem := memWr s.mem (pa + 20) 4 cfg.toNat }

/-- The scale byte of a record sample, and whether it was clamped (R170, R171). -/
def deriveScale (r : List Byte) : Nat × Bool :=
  let cfg := BitVec.ofNat 32 (recWord r 5)
  let (m, e) := match f32.val (recWord r 0) with | .fin _ m e => (m, e) | _ => (0, 0)
  let x := fitExp (cfgFmt cfg) m e + cfgMargin cfg + 127
  let S := satInt x 0 254
  (S.toNat, decide (S ≠ x))

end Sys2Proof.Machine
end

