-- ==== Sys2Proof/Machine/Ops.lean ====
section
/-! DEFINITION. The shared operations of the control core: what one C-stream instruction does around its own effect (R51,
R52, R183, R210, R356), taking a trap and returning from one (R363 to R365, R368), deferred reports (R388), and releases. -/

namespace Sys2Proof.Machine

/-- The outcome of one step. -/
abbrev Out := Host.Outcome State Fault Refusal

/-- What the effect of a C-stream instruction answers. -/
inductive Res where
  /-- the effect is taken; the next instruction follows -/
  | done (s : State)
  /-- a taken control transfer -/
  | jump (target : VAddr) (s : State)
  /-- a stall: the instruction is tried again -/
  | wait (s : State)
  /-- a precise trap with no effect: cause and `%tval` -/
  | trap (code : BitVec 8) (tval : DWord) (s : State)
  /-- a trap after the effect, `%epc` at the next instruction -/
  | trapAfter (code : BitVec 8) (tval : DWord) (s : State)
  /-- a deferred report taken at this instruction (R388) -/
  | report (r : Report) (s : State)
  /-- the effect itself sets the PC, or stops the core -/
  | own (s : State)
  deriving DecidableEq, Repr

/-! ### Taking a trap (R364, R365) -/

/-- The decrements of the task instruction at the PC, returned; above task privilege they are not the handler's (R356). -/
def leaveBack (c : Core) : Core := if c.ctl.priv = 0 then giveBack c else c

/-- The entry of R364 on one core: the C-stream continues at the handler, at supervisor privilege. The instruction it leaves took
no effect, and its decrements are returned (R51). -/
def enterTrap (c : Core) (src : BitVec 3) (code : BitVec 8) (epc : VAddr) (tval : DWord) (pfrec : Option DWord) : Core :=
  cTransfer ((leaveBack c).updCtl fun k =>
    { k with epc := epc, tval := tval, csrc := src, ccode := code,
             vtrec := if src = 1 then k.pc else k.vtrec,
             pfrec := pfrec.getD k.pfrec,
             ppriv := k.priv, priv := 1, nest := false,
             pc := k.tvec ++ (0 : BitVec 2),
             pauseEnd := none, cadTested := false, stalled := false })

/-- Takes a trap on a core: the handler is entered from task privilege, or from supervisor privilege with nest set; a double
trap or a trap at firmware privilege stops the core and is reported (R365, R372). -/
def takeTrap (s : State) (n : Nat) (src : BitVec 3) (code : BitVec 8) (epc : VAddr) (tval : DWord) (pfrec : Option DWord) : State :=
  let k := (s.coreN n).ctl
  if k.priv = 0 ∨ (k.priv = 1 ∧ k.nest = true) then
    trace (s.updN n fun c => enterTrap c src code epc tval pfrec) 0x03 n epc 0 (src.toNat * 2 ^ 16 + code.toNat)
  else
    let s := faultRecord s n code src (k.priv == 1) epc tval (pfrec.getD k.pfrec) 0
    if k.priv = 1 then faultTask s n else s.updN n fun c => c.updCtl fun k => { k with waitReset := true }

/-- An engine's trap waits for the next C-stream boundary (R251, R284, R363). -/
def raisePending (s : State) (n : Nat) (t : PTrap) : State := s.updN n fun c => { c with ptraps := smSet none c.ptraps t.src.toNat (some t) }

/-- The pending trap that R363 takes first: stream, grid, vector, copy. -/
def duePending (c : Core) : Option PTrap :=
  [2, 3, 1, 4].findSome? fun k => smGet none c.ptraps k

/-- Takes a pending trap. -/
def takePending (s : State) (n : Nat) (t : PTrap) : State :=
  let s := s.updN n fun c => { c with ptraps := smSet none c.ptraps t.src.toNat none }
  if 2 ≤ t.src.toNat then takeTrap s n t.src t.code (s.coreN n).ctl.pc t.tval (some t.pfrec)
  else takeTrap s n t.src t.code t.epc t.tval none

/-! ### The return (R368) -/

/-- The value `%tval` takes, and the cause, when an address that `eret` uses is not a legal one. The registers hold 56 bits,
so bits [63:56] are never set. -/
def eretFault (k : Ctl) : Option (BitVec 8 × DWord) :=
  if k.ppriv = 0 ∧ k.csrc = 1 then
    if k.vtrec.extractLsb' 0 2 ≠ 0 then some (0x02, k.vtrec.setWidth 64)
    else if k.epc.extractLsb' 0 3 ≠ 0 then some (0x02, k.epc.setWidth 64) else none
  else if k.epc.extractLsb' 0 2 ≠ 0 then some (0x02, k.epc.setWidth 64) else none

/-- The instruction that a posted fault stopped goes on at an index (R368, log 55): a walk at that position of its register, a
`qstat` at that part, a `gupd` at that update. -/
def resumeHead (q : List Posted) (idx : Nat) : List Posted :=
  match q with
  | p :: t =>
    (match p.fault, p.instr with
     | some _, .qstat .. | some _, .gupd .. => { p with fault := none, prog := idx }
     | _, _ => { p with fault := none }) :: t
  | [] => []
def resumeWalk (q : List Posted) (r : SMap StreamReg) (idx : Nat) : SMap StreamReg :=
  match q with
  | p :: _ =>
    match p.fault, p.instr with
    | some _, .qstat .. => r
    | some k, _ => smPut r k { smGet {} r k with pos := idx }
    | none, _ => r
  | [] => r

/-- The engine named by a posted-fault record resumes at its index (R251, R368). -/
def resumePosted (c : Core) : Core :=
  let idx := (c.ctl.pfrec.extractLsb' 0 48).toNat
  match (c.ctl.pfrec.extractLsb' 55 3).toNat with
  | 2 => c.updStr fun (e : Str) =>
      { e with stopped := false, q := resumeWalk e.queue e.q idx, queue := resumeHead e.queue idx }
  | 3 => c.updGrd fun e => { e with stopped := false, queue := resumeHead e.queue idx }
  | 4 => c.updCpy fun e =>
      { e with stopped := false,
               flight := e.flight.map fun f => if f.stopped then { f with stopped := false, k := idx, chunk := idx, noted := none } else f }
  | _ => c

/-- The effect of `eret` on its core (R368). -/
def eretCore (c : Core) : Core :=
  let k := c.ctl
  let c := if k.ppriv = 0 ∧ 2 ≤ k.csrc.toNat ∧ k.csrc.toNat ≤ 4 then resumePosted c else c
  let c := if k.ppriv = 0 ∧ k.csrc = 1 then
      c.updVec fun v => { v with pc := k.epc, trapped := false, cv := none }
    else c
  let p := if k.ppriv = 0 ∧ k.csrc = 1 then k.vtrec else k.epc
  cTransfer { (c.updCtl fun t => { t with pc := p, priv := k.ppriv, ppriv := 0 }) with
    savedAt := if k.ppriv = 0 then none else c.savedAt, loadHeld := if k.ppriv = 0 then false else c.loadHeld }

/-! ### One C-stream instruction -/

/-- The waits of an instruction are taken once, when it begins to issue (R51). -/
def takeOnce (c : Core) (h : Hal) : Core := if c.ctl.took.isSome then c else takeWaits c 0 h
/-- The instruction at the PC is done with. What a handler's instruction leaves as it is belongs to the task's (R356). -/
def tookDone (c : Core) : Core := if c.ctl.priv = 0 then c.updCtl fun k => { k with took := none } else c

/-- Completes an instruction: its waits are taken, the PC moves, its signals are made (R51, R52). -/
def finish (s : State) (h : Hal) (p : VAddr) : State :=
  s.upd fun c => signal s.clock (tookDone (takeOnce (setPc c p) h)) 0 h

/-- The trace record of a taken C-stream transfer (R451). -/
def traceJump (s : State) (n : Nat) (pc target : VAddr) : State := trace s 0x04 n pc 0 (BitVec.ofInt 48 (target.toInt - pc.toInt)).toNat

/-- The instruction stalls and is tried again. -/
def stall (s : State) : State := s.upd fun c => c.updCtl fun k => { k with stalled := true }
/-- The instruction stalls with its waits taken (R51); above task privilege it has none (R356). -/
def stallTook (s : State) (h : Hal) : State :=
  stall (s.upd fun c => if c.ctl.priv = 0 then (takeOnce c h).updCtl fun k => { k with took := some h } else c)

/-- Runs one C-stream instruction of `len` bytes on the acting core. A halyard mark above task privilege is illegal (R356);
an unsatisfied wait, or a held signal of this engine, stalls it with no effect (R51, R53). An instruction that stalls with its
waits satisfied has taken them. -/
def scalar (i : Instr) (h : Hal) (len : VAddr) (body : State → Res) (s : State) : Out :=
  let n := s.cur
  let c := s.core
  let pc := c.ctl.pc
  if c.ctl.priv ≠ 0 ∧ h ≠ 0 then .next (takeTrap s n 0 0x01 pc (encWord i) none)
  else if (c.ctl.priv != 0 || c.ctl.took.isNone) && (!waitsOk c 0 h || heldBack c 0) then .next (stall s)
  else match body s with
    | .done t => .next (finish t h (pc + len))
    | .jump p t => .next (traceJump ((finish t h p).upd cTransfer) n pc p)
    | .wait t => .next (stallTook t h)
    | .trap code tval t => .next (takeTrap t n 0 code pc tval none)
    | .trapAfter code tval t => .next (takeTrap (finish t h (pc + len)) n 0 code (pc + len) tval none)
    | .report r t => .next (takeTrap t n 5 r.code pc r.tval none)
    | .own t => .next t

/-- An instruction that only writes a register. -/
def regOp (i : Instr) (h : Hal) (len : VAddr) (d : Reg) (v : Core → DWord) (s : State) : Out :=
  scalar i h len (fun s => .done (s.upd fun c => regSet c d (v c))) s

/-- An event: it acts where it is due and leaves the state as it is where it is not. -/
def event (ok : Bool) (f : State → State) (s : State) : Out := .next (if ok then f s else s)

/-! ### Deferred reports (R388) -/

/-- A reporting instruction waits for the reports on their way, then takes one trap for the oldest unreported one; every
report of its cause is then reported. -/
def reporting (s : State) (k : State → Res) : Res :=
  if !s.core.inflight.isEmpty then .wait s
  else match s.core.reports with
    | r :: _ => .report r (s.upd fun c => { c with reports := c.reports.filter fun x => x.code != r.code })
    | [] => k s

/-- A release at die scope or wider first flushes the core's combining buffers (R141, R165): none while an entry is held. -/
def releaseAt (s : State) (n : Nat) (scope : BitVec 3) : State × Bool :=
  if 2 ≤ scope.toNat then let s := flushAll s n; (s, combEmpty (s.coreN n)) else (s, true)
/-- A C-stream access, with whether it writes; as a release, it performs once its flush is complete (R141, R228). -/
def releasing (rl : Bool) (scope : BitVec 3) (k : State → Res × Bool) (s : State) : Res :=
  match k s with
  | (.done t, true) =>
    if rl then match releaseAt s s.cur scope with
      | (s, true) => (k s).1
      | (s, false) => .wait s
    else .done t
  | (r, _) => r

/-- The C-stream as the agent of an access. -/
def cWho (s : State) : Who := ⟨s.cur, 0, s.core.ctl.pc, 0, 0⟩

/-- A token slot or barrier number beyond the launch's bound (R41). -/
def boundTrap (v bound : Nat) (s : State) (k : State → Res) : Res := if bound ≤ v then .trap 0x08 (BitVec.ofNat 64 v) s else k s

/-- The claimed `ebreak` of the privilege in force that has caused its freeze (R447). -/
def Core.ebrkAt (c : Core) : Option VAddr := smGet none c.ebrk c.ctl.priv.toNat
def Core.setEbrk (c : Core) (a : Option VAddr) : Core := { c with ebrk := smSet none c.ebrk c.ctl.priv.toNat a }

/-- Whether the vector engine is quiescent (R118): halted, or stopped at a V-stream trap delivered and not returned from. -/
def vecQuiet (c : Core) : Bool :=
  (c.vec.halted && c.vec.cv.isNone) || (c.vec.trapped && (smGet none c.ptraps 1).isNone)

end Sys2Proof.Machine
end

