-- ==== Sys2Proof/Machine/Branch.lean ====
section
/-! DEFINITION. Control transfer and hardware loops of the control core (R219 to R223). -/

namespace Sys2Proof.Machine

/-- PC + offset × 4 (R219, R220). -/
def pcRel {w : Nat} (pc : VAddr) (off : BitVec w) : VAddr := pc + off.signExtend 56 * 4

/-- A conditional branch (R219). -/
def branch (i : Instr) (h : Hal) (a b : Reg) (off : BitVec 10) (p : DWord → DWord → Bool) (s : State) : Out :=
  scalar i h 4 (fun s =>
    let c := s.core
    if p (regGet c a) (regGet c b) then .jump (pcRel c.ctl.pc off) s else .done s) s

/-- `beq` (R219). -/
def execBeq (h : Hal) (a b : Reg) (off : BitVec 10) (s : State) : Out := branch (.beq h a b off) h a b off (fun x y => x == y) s
/-- `bne` (R219). -/
def execBne (h : Hal) (a b : Reg) (off : BitVec 10) (s : State) : Out := branch (.bne h a b off) h a b off (fun x y => x != y) s
/-- `blt` (R219). -/
def execBlt (h : Hal) (a b : Reg) (off : BitVec 10) (s : State) : Out := branch (.blt h a b off) h a b off (fun x y => x.slt y) s
/-- `bge` (R219). -/
def execBge (h : Hal) (a b : Reg) (off : BitVec 10) (s : State) : Out := branch (.bge h a b off) h a b off (fun x y => !x.slt y) s
/-- `bltn` (R219). -/
def execBltn (h : Hal) (a b : Reg) (off : BitVec 10) (s : State) : Out := branch (.bltn h a b off) h a b off (fun x y => x.ult y) s
/-- `bgen` (R219). -/
def execBgen (h : Hal) (a b : Reg) (off : BitVec 10) (s : State) : Out := branch (.bgen h a b off) h a b off (fun x y => !x.ult y) s

/-- `jal` (R220). -/
def execJal (h : Hal) (d : Reg) (off : BitVec 16) (s : State) : Out :=
  scalar (.jal h d off) h 4 (fun s =>
    let pc := s.core.ctl.pc
    .jump (pcRel pc off) (s.upd fun c => regSet c d ((pc + 4).setWidth 64))) s

/-- `jalr` (R220). -/
def execJalr (h : Hal) (d a : Reg) (imm : BitVec 10) (s : State) : Out :=
  scalar (.jalr h d a imm) h 4 (fun s =>
    let c := s.core
    let t := regGet c a + sext64 imm * 4
    if t.extractLsb' 0 2 ≠ 0 then .trap 0x02 t s
    else if t.extractLsb' 56 8 ≠ 0 then .trap 0x08 t s
    else .jump (t.setWidth 56) (s.upd fun c => regSet c d ((c.ctl.pc + 4).setWidth 64))) s

/-- `lpset` (R221). -/
def execLpset (h : Hal) (n : BitVec 3) (a : Reg) (imm : BitVec 10) (s : State) : Out :=
  scalar (.lpset h n a imm) h 4 (fun s => .done (s.upd fun c =>
    let trip := min ((regGet c a).toNat + imm.toNat) 0xFFFFFFFF
    loopSet c n.toNat { active := true, remaining := BitVec.ofNat 32 (max trip 1), index := 0, start := c.ctl.pc + 4, stop := none })) s

/-- `lpend` (R222). -/
def execLpend (h : Hal) (n : BitVec 3) (off : BitVec 10) (s : State) : Out :=
  scalar (.lpend h n off) h 4 (fun s =>
    let c := s.core
    let l := loopGet c n.toNat
    let pc := c.ctl.pc
    if !l.active then .done s
    else if pcRel pc off ≠ l.start then .trap 0x01 (encWord (.lpend h n off)) s
    else
      let l' := { l with stop := some pc, index := l.index + 1, remaining := l.remaining - 1 }
      if l'.remaining ≠ 0 then .jump l.start (s.upd fun c => loopSet c n.toNat l')
      else .done (s.upd fun c => loopSet c n.toNat { l' with active := false })) s

/-- `lpidx` (R222). -/
def execLpidx (h : Hal) (d : Reg) (n : BitVec 3) (s : State) : Out :=
  regOp (.lpidx h d n) h 4 d (fun c => (loopGet c n.toNat).index.setWidth 64) s

end Sys2Proof.Machine
end

