-- ==== Sys2Proof/Machine/CtlRegs.lean ====
section
/-! DEFINITION. Control registers (R45, R83, R117 to R125, R246, R357 to R360, R473, R476). -/

namespace Sys2Proof.Machine

/-- The access forms of the control core: get, set, set bits, clear bits. -/
inductive KForm where
  | get | set | bis | bic
  deriving DecidableEq, Repr

/-- The forms each register allows (R117, R357, R476); none where no register has the number. -/
def kForms (k : Nat) : List KForm :=
  match k with
  | 0x000 => [.get, .set, .bis, .bic]
  | 0x002 => [.get, .set, .bis]
  | 0x001 | 0x003 | 0x004 | 0x005 | 0x006 | 0x010 | 0x011 | 0x013 => [.get]
  | 0x012 | 0x014 | 0x015 => [.get, .set]
  | 0x016 => [.get, .set, .bis, .bic]
  | 0x200 => [.get, .set, .bis, .bic]
  | 0x201 | 0x202 | 0x203 | 0x204 | 0x205 | 0x206 | 0x207 | 0x208 | 0x209 | 0x210 | 0x211 | 0x212 | 0x213 => [.get, .set]
  | 0x300 | 0x301 | 0x302 => [.get]
  | 0x303 | 0x304 => [.get, .set]
  | _ => []

/-- The trap of an access, if any (R117, R357). -/
def kFault (priv : BitVec 2) (k : Nat) (f : KForm) : Option (BitVec 8) :=
  if 0x200 ≤ k ∧ priv = 0 then some 0x08
  else if 0x300 ≤ k ∧ priv ≠ 2 then some 0x08
  else if (kForms k).contains f then none else some 0x01

/-- Registers held by the vector engine, which wait until it is quiescent (R118). -/
def kVec (k : Nat) : Bool := decide (0x010 ≤ k) && decide (k ≤ 0x016)

/-- `%idcode` (R473): part 0x0940, stepping B1. -/
def idcode : DWord := (Config.serial.setWidth 32 : BitVec 32) ++ (0x09401100 : BitVec 32)

/-- The value of a control register as core `n` reads it. -/
def kRead (s : State) (n k : Nat) : DWord :=
  let c := s.coreN n
  match k with
  | 0x000 => c.ctl.fflags.setWidth 64
  | 0x001 => BitVec.ofNat 64 c.rank
  | 0x002 => if c.ctl.markDone then 2 else 0
  | 0x003 => packBudget (s.gangOf n)
  | 0x004 => s.clock
  | 0x005 => c.asid.setWidth 64
  | 0x006 => packCoreid s n
  | 0x010 => BitVec.ofNat 64 c.vec.vl
  | 0x011 => packVtype c.vec
  | 0x012 => BitVec.ofNat 64 c.vec.vstart
  | 0x013 => 1536
  | 0x014 => c.vec.rngkey
  | 0x015 => c.vec.rngctr
  | 0x016 => c.vec.strec.setWidth 64
  | 0x200 => packStatus c.ctl
  | 0x201 => packCause c.ctl
  | 0x202 => c.ctl.epc.setWidth 64
  | 0x203 => c.ctl.tval
  | 0x204 => (c.ctl.tvec ++ (0 : BitVec 2)).setWidth 64
  | 0x205 => c.ctl.scratch0
  | 0x206 => c.ctl.scratch1
  | 0x207 => c.ctl.pfrec
  | 0x208 => c.ctl.vtrec.setWidth 64
  | 0x209 => c.ctl.event.setWidth 64
  | 0x210 => smGet 0 c.ctl.rtseg 0
  | 0x211 => smGet 0 c.ctl.rtseg 1
  | 0x212 => smGet 0 c.ctl.rtseg 2
  | 0x213 => smGet 0 c.ctl.rtseg 3
  | 0x300 => idcode
  | 0x301 => s.ready
  | 0x302 => s.bootstat
  | 0x303 => s.asidtab
  | 0x304 => smGet 0 s.ecc (dieOf n)
  | _ => 0

/-- The successor-may-start mark of a core; the task has made it when every core of the gang has (R45). -/
def makeMark (s : State) (n : Nat) : State :=
  let s := s.updN n fun c => c.updCtl fun t => { t with markDone := true }
  let g := s.gangOf n
  if g.cores.all fun m => (s.coreN m).ctl.markDone then
    s.updLaunch g.launch fun l => { l with marked := if l.marked.contains (s.gid n) then l.marked else s.gid n :: l.marked }
  else s

/-- The stored bits of a record-table segment register (R360). -/
def rtsegMask : DWord := 0x0007FFFF000FFFFF

/-- Writes the RW and WO fields of a control register from a value whose other fields keep theirs. -/
def kWrite (s : State) (n k : Nat) (v : DWord) : State :=
  let ctl (f : Ctl → Ctl) : State := s.updN n fun c => c.updCtl f
  let vec (f : Vec → Vec) : State := s.updN n fun c => c.updVec f
  match k with
  | 0x000 => ctl fun t => { t with fflags := v.setWidth 6 }
  | 0x002 => if v.getLsbD 0 then makeMark s n else s
  | 0x012 => vec fun t => { t with vstart := v.toNat % 2 ^ 14, stop := {} }
  | 0x014 => vec fun t => { t with rngkey := v }
  | 0x015 => vec fun t => { t with rngctr := v }
  | 0x016 => vec fun t => { t with strec := v.setWidth 21 }
  | 0x200 => ctl fun t =>
      { t with nest := v.getLsbD 4, ppriv := if v.extractLsb' 2 2 = 3 then t.ppriv else v.extractLsb' 2 2 }
  | 0x201 => ctl fun t => { t with csrc := if 6 ≤ (v.extractLsb' 13 3).toNat then t.csrc else v.extractLsb' 13 3, ccode := v.setWidth 8 }
  | 0x202 => ctl fun t => { t with epc := v.setWidth 56 }
  | 0x203 => ctl fun t => { t with tval := v }
  | 0x204 => ctl fun t => { t with tvec := v.extractLsb' 2 54 }
  | 0x205 => ctl fun t => { t with scratch0 := v }
  | 0x206 => ctl fun t => { t with scratch1 := v }
  | 0x207 => ctl fun t => { t with pfrec := v &&& 0x03FFFFFFFFFFFFFF }
  | 0x208 => ctl fun t => { t with vtrec := v.setWidth 56 }
  | 0x209 => ctl fun t => { t with event := t.event &&& ~~~(v.setWidth 5) }
  | 0x210 => ctl fun t => { t with rtseg := smSet 0 t.rtseg 0 (v &&& rtsegMask) }
  | 0x211 => ctl fun t => { t with rtseg := smSet 0 t.rtseg 1 (v &&& rtsegMask) }
  | 0x212 => ctl fun t => { t with rtseg := smSet 0 t.rtseg 2 (v &&& rtsegMask) }
  | 0x213 => ctl fun t => { t with rtseg := smSet 0 t.rtseg 3 (v &&& rtsegMask) }
  | 0x303 => { s with asidtab := v &&& 0x000FFFFFFFFFF000 }
  | 0x304 => { s with ecc := smSet 0 s.ecc (dieOf n) v }
  | _ => s

/-- The checks and the wait of every control-register access (R117, R118, R246). The register, the form and the privilege are
checks of decoding (R183 checks 4 and 6), which make no halyard wait (R185, log 72); a mark above task privilege comes before
them (R356). -/
def kAccess (i : Instr) (h : Hal) (k : BitVec 10) (f : KForm) (body : State → State) (s : State) : Out :=
  match kFault s.core.ctl.priv k.toNat f with
  | some c => .next (takeTrap s s.cur 0 (if s.core.ctl.priv ≠ 0 ∧ h ≠ 0 then 0x01 else c) s.core.ctl.pc (encWord i) none)
  | none => scalar i h 4 (fun s => if kVec k.toNat && !vecQuiet s.core then .wait s else .done (body s)) s

/-- `kget` (R246). -/
def execKget (h : Hal) (d : Reg) (k : BitVec 10) (s : State) : Out :=
  kAccess (.kget h d k) h k .get (fun s => let v := kRead s s.cur k.toNat; s.upd fun c => regSet c d v) s
/-- `kset` (R246). -/
def execKset (h : Hal) (a : Reg) (k : BitVec 10) (s : State) : Out :=
  kAccess (.kset h a k) h k .set (fun s => kWrite s s.cur k.toNat (regGet s.core a)) s
/-- `kbis` (R246). -/
def execKbis (h : Hal) (a : Reg) (k : BitVec 10) (s : State) : Out :=
  kAccess (.kbis h a k) h k .bis (fun s => kWrite s s.cur k.toNat (kRead s s.cur k.toNat ||| regGet s.core a)) s
/-- `kbic` (R246). -/
def execKbic (h : Hal) (a : Reg) (k : BitVec 10) (s : State) : Out :=
  kAccess (.kbic h a k) h k .bic (fun s => kWrite s s.cur k.toNat (kRead s s.cur k.toNat &&& ~~~(regGet s.core a))) s

end Sys2Proof.Machine
end

