-- ==== Sys2Proof/Machine/Operands.lean ====
section
/-! DEFINITION. Grid operands: the cells of views and the elements of view groups (R94 to R99), the operand forms of the
V-stream (R179), and the checks of register values and address ranges at commit (R250). -/

namespace Sys2Proof.Machine

/-- The cells of a view (R96). -/
def viewCells : View → Nat
  | .row _ => 384
  | _ => 256
/-- Cell `pos` of view `v + d` (R96). -/
def viewCell (v : View) (d pos : Nat) : Nat × Nat :=
  match v with
  | .row i => ((i.toNat + d) % 256, pos)
  | .col i => (pos, (i.toNat + d) % 384)
  | .diag i => (pos, (pos + i.toNat + d) % 384)
/-- The kind code of a view (R120). -/
def viewKind : View → Nat
  | .row _ => 0
  | .col _ => 1
  | .diag _ => 2
def viewIndex : View → Nat
  | .row i => i.toNat
  | .col i => i.toNat
  | .diag i => i.toNat

/-- The cell and the slot of element `k` of a view group at a width of `bits` (R98). -/
def elemPlace (v : View) (bits k : Nat) : Nat × Nat × Nat :=
  let p := 32 / bits
  let q := viewCells v * p
  let (i, j) := viewCell v (k / q) (k % q / p)
  (i, j, k % q % p)
/-- The row an element lies in. -/
def elemRow (v : View) (bits k : Nat) : Nat := (elemPlace v bits k).1

/-- The slot `sub` of a cell. -/
def subGet (c : Word) (bits sub : Nat) : Nat := c.toNat / 2 ^ (bits * sub) % 2 ^ bits
def subSet (c : Word) (bits sub v : Nat) : Word :=
  let sh := 2 ^ (bits * sub)
  BitVec.ofNat 32 (c.toNat - c.toNat / sh % 2 ^ bits * sh + v % 2 ^ bits * sh)

def elemGet (g : Grd) (v : View) (bits k : Nat) : Nat :=
  let (i, j, sub) := elemPlace v bits k
  subGet (cellGet g i j) bits sub
/-- Writes one element; the other elements of its cell keep their bits (R95). -/
def elemSet (g : Grd) (v : View) (bits k x : Nat) : Grd :=
  let (i, j, sub) := elemPlace v bits k
  cellSet g i j (subSet (cellGet g i j) bits sub x)

/-- VLMAX of a kind of view (R99). -/
def vlmax (kind grpLog bits : Nat) : Nat := (if kind = 0 then 384 else 256) * 2 ^ grpLog * (32 / bits)

/-! ### Commit checks (R250) -/

/-- A commit check (R250): the first failure decides. -/
abbrev Check250 := Option (BitVec 8 × DWord)
def chk (bad : Bool) (code : BitVec 8) (v : DWord) : Check250 := if bad then some (code, v) else none
def firstFail (l : List Check250) : Check250 := l.findSome? id

/-- The form of an address given directly (order 3 of R250): reserved bits of `g:`, the fields of `sb:`. -/
def formOnly (s : State) (sp : BitVec 2) (ea : DWord) : Check250 :=
  if sp = 0 then chk (ea.extractLsb' 56 4 != 0) 0x08 ea
  else if sp = 3 then chk (ea.extractLsb' 25 39 != 0 || decide ((s.gangOf s.cur).g ≤ (ea.extractLsb' 20 5).toNat)) 0x08 ea
  else none
/-- A range of `len` bytes: both ends lie in the allotment, and the report names the first address at or beyond the bound
(R41, R250). -/
def rangeCheck (s : State) (sp : BitVec 2) (ea : DWord) (len : Nat) : Check250 :=
  match formFault s s.cur sp ea with
  | some v => some (0x08, v)
  | none =>
    let g := s.gangOf s.cur
    let t := g.tcmBlocks * 4096
    if len = 0 || sp = 0 then none
    else if sp = 1 then chk (decide (g.spUnits * 127 * 32 < ea.toNat + len)) 0x08 (BitVec.ofNat 64 (g.spUnits * 127))
    else if sp = 2 then chk (decide (t < ea.toNat + len)) 0x08 (BitVec.ofNat 64 t)
    else chk (decide (t < (ea.extractLsb' 0 20).toNat + len)) 0x08 (BitVec.ofNat 64 ((ea.toNat / 2 ^ 20) * 2 ^ 20 + t))

end Sys2Proof.Machine
end

