-- ==== Sys2Proof/Machine/Sync.lean ====
section
/-! DEFINITION. Barriers, phase end and tokens of the control core (R231 to R235, R150 to R153). -/

namespace Sys2Proof.Machine

/-! ### Barriers -/

/-- A barrier of a gang, in its task-start state where nothing has used it (R231). -/
def barGet (g : Gang) (b : BitVec 4) : Barrier := smGet { expected := g.g } g.bar b.toNat
def barPut (s : State) (b : BitVec 4) (v : Barrier) : State :=
  s.updGang (s.gid s.cur) fun g => { g with bar := smPut g.bar b.toNat v }
def wpGet (c : Core) (b : BitVec 4) : Option (BitVec 32) := smGet none c.ctl.waitPoints b.toNat
def wpPut (c : Core) (b : BitVec 4) (v : Option (BitVec 32)) : Core :=
  c.updCtl fun k => { k with waitPoints := smSet none k.waitPoints b.toNat v }

/-- One arrival of the acting core (R233): its wait point is recorded; the arrival that reaches E completes the phase. -/
def arriveBar (s : State) (b : BitVec 4) : State :=
  let v := barGet (s.gangOf s.cur) b
  let s := s.upd fun c => wpPut c b (some v.phase)
  if v.expected ≤ v.arrivals + 1 then barPut s b { v with arrivals := 0, phase := v.phase + 1, start := s.clock }
  else barPut s b { v with arrivals := v.arrivals + 1 }

/-- The wait of `barwait`: the state to continue from when the phase of the wait point has completed. -/
def phaseOver (s : State) (b : BitVec 4) : Option State :=
  match wpGet s.core b with
  | none => some s
  | some p => if (barGet (s.gangOf s.cur) b).phase = p then none else some (s.upd fun c => wpPut c b none)

/-- A barrier instruction whose number is in bounds (R41). -/
def barBody (b : BitVec 4) (k : State → Res) (s : State) : Res := boundTrap b.toNat (s.gangOf s.cur).barriers s k

/-- `barinit` (R232). -/
def execBarinit (h : Hal) (a : Reg) (b : BitVec 4) (s : State) : Out :=
  scalar (.barinit h a b) h 4 (fun s =>
    let e := regGet s.core a
    let g := s.gangOf s.cur
    if e.toNat = 0 ∨ g.g < e.toNat then .trap 0x01 e s
    else barBody b (fun s => .done (barPut s b
      { barGet g b with expected := e.toNat, cadence := false, arrivals := 0, start := s.clock })) s) s
/-- `barinit.cad` (R232). -/
def execBarinitCad (h : Hal) (d a : Reg) (b : BitVec 4) (s : State) : Out :=
  scalar (.barinitCad h d a b) h 4 (fun s =>
    let e := regGet s.core a
    let l := regGet s.core d
    let g := s.gangOf s.cur
    if e.toNat = 0 ∨ g.g < e.toNat then .trap 0x01 e s
    else if l.toNat = 0 ∨ 65535 < l.toNat then .trap 0x01 l s
    else barBody b (fun s => .done (barPut s b
      { barGet g b with expected := e.toNat, cadence := true, len := l.toNat, arrivals := 0, start := s.clock })) s) s
/-- `bararr` (R233), a release at gang scope. -/
def execBararr (h : Hal) (b : BitVec 4) (s : State) : Out :=
  scalar (.bararr h b) h 4 (barBody b fun s => .done (arriveBar s b)) s
/-- `barwait` (R233). -/
def execBarwait (h : Hal) (b : BitVec 4) (s : State) : Out :=
  scalar (.barwait h b) h 4 (barBody b fun s => match phaseOver s b with | some s => .done s | none => .wait s) s

/-! ### Phase end -/

/-- The slot an instruction produces (R55, R257, R261, R268). -/
def produces : Instr → Option (BitVec 5)
  | .qstat _ _ _ _ t => some t
  | .qstore _ _ _ _ _ _ _ t _ tke => if tke then some t else none
  | .xcopy _ _ _ _ f | .xfill _ _ _ _ f | .xtag _ _ _ _ f | .xtagrd _ _ _ _ f | .xgath _ _ _ _ f | .xscat _ _ _ _ f
  | .xsadd _ _ _ _ f | .xbcast _ _ _ _ f | .xred _ _ _ _ f | .xenq _ _ _ _ f | .xpref _ _ _ f => some f.pt
  | _ => none

/-- A slot is busy while it is pending, or while a posted producer of it has not issued (DEDUCED, log 11). -/
def slotBusy (c : Core) (t : BitVec 5) : Bool :=
  tokPending c t.toNat || (c.str.queue ++ c.cpy.queue).any fun p => produces p.instr == some t

/-- The conditions of step 1 of R152 other than the report: buffers flushed, scatters acknowledged, stream and copy work done,
every slot idle. -/
def pendQuiet (c : Core) : Bool :=
  combEmpty c && c.vec.scat.isEmpty && c.inflight.isEmpty && c.str.queue.isEmpty && c.cpy.queue.isEmpty && c.cpy.flight.isEmpty &&
  c.cpy.tok.all fun p => !p.2.pending

/-- The arrival and the phase wait of `pend` (R152 steps 3 and 4, R234). -/
def pendArrive (b : BitVec 4) (s : State) : Res :=
  let s := arriveBar s b
  match phaseOver s b with
  | some s => .done (s.upd fun c => c.updCtl fun k => { k with cadTested := false })
  | none => .wait (s.upd fun c => c.updCtl fun k => { k with pendArrived := true, cadTested := false })

/-- The phase wait of a `pend` that has arrived (R234). -/
def pendWait (b : BitVec 4) (s : State) : Res :=
  match phaseOver s b with
  | some s => .done (s.upd fun c => c.updCtl fun k => { k with pendArrived := false })
  | none => .wait s

/-- `pend` from its first step (R152). -/
def pendBody (b : BitVec 4) (s : State) : Res :=
  let s := flushAll s s.cur
  if pendQuiet s.core then reporting s (pendArrive b) else .wait s

/-- `pend` (R152, R234): on a cadence barrier it is illegal (R151). -/
def execPend (h : Hal) (b : BitVec 4) (s : State) : Out :=
  scalar (.pend h b) h 4 (fun s =>
    if s.core.ctl.pendArrived then pendWait b s
    else barBody b (fun s =>
      if (barGet (s.gangOf s.cur) b).cadence then .trap 0x01 (b.setWidth 64) s else pendBody b s) s) s

/-- Whether the cadence of a barrier has elapsed (R153). -/
def cadenceOver (s : State) (b : BitVec 4) : Bool :=
  let v := barGet (s.gangOf s.cur) b
  decide (v.start.toNat + v.len ≤ s.clock.toNat)
/-- The one test after the cadence: a core that is not quiet counts a miss (R153). -/
def cadenceTest (s : State) : State :=
  if s.core.ctl.cadTested then s
  else
    let s := flushAll s s.cur
    s.upd fun c =>
      { (c.updCtl fun k => { k with cadTested := true }) with cadMiss := if pendQuiet c then c.cadMiss else c.cadMiss + 1 }

/-- `pend.cad` (R153, R234): on a counted barrier it is illegal (R151). -/
def execPendCad (h : Hal) (b : BitVec 4) (s : State) : Out :=
  scalar (.pendCad h b) h 4 (fun s =>
    if s.core.ctl.pendArrived then pendWait b s
    else barBody b (fun s =>
      if !(barGet (s.gangOf s.cur) b).cadence then .trap 0x01 (b.setWidth 64) s
      else if cadenceOver s b then pendBody b (cadenceTest s)
      else .wait (flushAll s s.cur)) s) s

/-! ### Tokens -/

/-- `tkwait` (R57, R235): it waits for the slot, then takes a report. -/
def execTkwait (h : Hal) (t : BitVec 5) (s : State) : Out :=
  scalar (.tkwait h t) h 4 (fun s => boundTrap t.toNat (s.gangOf s.cur).tokens s fun s =>
    if slotBusy s.core t then .wait s else reporting s .done) s
/-- `tkpoll` (R235). -/
def execTkpoll (h : Hal) (d : Reg) (t : BitVec 5) (s : State) : Out :=
  scalar (.tkpoll h d t) h 4 (fun s => boundTrap t.toNat (s.gangOf s.cur).tokens s fun s =>
    .done (s.upd fun c => regSet c d (bit (slotBusy c t)))) s

end Sys2Proof.Machine
end

