-- ==== Sys2Proof/Machine/Stream.lean ====
section
/-! DEFINITION. Posting (R20, R177, R250), the stream group and the stream engine (R253 to R262, R279). -/

namespace Sys2Proof.Machine

/-! ### Posting -/

/-- Engine numbers and queue sizes (R20). -/
def queueOf (c : Core) (e : Nat) : List Posted := if e = 1 then c.str.queue else if e = 2 then c.grd.queue else c.cpy.queue
def queueCap (e : Nat) : Nat := if e = 2 then 64 else 16
def pushQueue (c : Core) (e : Nat) (p : Posted) : Core :=
  if e = 1 then c.updStr fun t => { t with queue := t.queue ++ [p] }
  else if e = 2 then c.updGrd fun t => { t with queue := t.queue ++ [p] }
  else c.updCpy fun t => { t with queue := t.queue ++ [p] }

/-- Posts an instruction with the values of its registers (R20, R177): the commit checks come first, a full queue stalls. The
nibble acts at the engine (R50). `d`, `a`, `b` are the registers read. -/
def post (i : Instr) (h : Hal) (e : Nat) (d a b : Reg) (checks : State → DWord → DWord → DWord → DWord → Check250) (s : State) : Out :=
  let n := s.cur
  let c := s.core
  let pc := c.ctl.pc
  let x := regGet c d
  let y := regGet c a
  let z := regGet c b
  let y1 := regGet c (a + 1)
  if c.ctl.priv ≠ 0 ∧ h ≠ 0 then .next (takeTrap s n 0 0x01 pc (encWord i) none)
  else match checks s x y z y1 with
  | some (code, v) => .next (takeTrap s n 0 code pc v none)
  | none =>
    if heldBack c 0 || decide (queueCap e ≤ (queueOf c e).length) then .next (stall s)
    else .next (s.upd fun c => setPc (pushQueue c e { instr := i, d := x, a := y, b := z, a1 := y1, pc := pc }) (pc + 8))

def fits48 (v : DWord) : Bool := (v.extractLsb' 0 48).signExtend 64 == v
def slotCheck (s : State) (t : BitVec 5) : Check250 := chk (decide ((s.gangOf s.cur).tokens ≤ t.toNat)) 0x08 (t.setWidth 64)
def rankCheck (s : State) (src : QSrc) : Check250 :=
  match src with
  | .rank r => chk (decide ((s.gangOf s.cur).g ≤ r.toNat)) 0x08 (r.setWidth 64)
  | _ => none

/-- `qbase` (R256): of two addresses that fail, `%tval` reports the base (the model's choice, log 21). -/
def execQbase (h : Hal) (a b : Reg) (n : BitVec 4) (sp ssp : BitVec 2) (s : State) : Out :=
  post (.qbase h a b n sp ssp) h 1 0 a b (fun s _ y z _ => firstFail [formOnly s sp y, if b = 0 then none else formOnly s ssp z]) s
/-- `qdim` (R256): of several registers that fail, `%tval` reports the count, then the stride, then the scale stride (the model's
choice, log 21). -/
def execQdim (h : Hal) (d a b : Reg) (n : BitVec 4) (j : BitVec 2) (k : Bool) (s : State) : Out :=
  post (.qdim h d a b n j k) h 1 d a b (fun _ x y z _ =>
    firstFail [chk (y.toNat == 0 || decide (65535 < y.toNat)) 0x01 y, chk (!fits48 z) 0x01 z, chk (!fits48 x) 0x01 x]) s
/-- `qfmt` (R256): of several ranks at or above G, `%tval` reports the lowest (the model's choice, log 21). -/
def execQfmt (h : Hal) (a : Reg) (n fmt : BitVec 4) (tgt : BitVec 2) (s : State) : Out :=
  post (.qfmt h a n fmt tgt) h 1 0 a 0 (fun s _ y _ _ =>
    firstFail [chk (y.extractLsb' 24 40 != 0) 0x01 y, chk (tgt != 0 && y != 0) 0x01 y,
      ((List.range 24).find? fun r => y.getLsbD r && decide ((s.gangOf s.cur).g ≤ r)).map fun r => (0x08, BitVec.ofNat 64 r)]) s
/-- `qstart` (R257). -/
def execQstart (h : Hal) (a : Reg) (n : BitVec 4) (s : State) : Out :=
  post (.qstart h a n) h 1 0 a 0 (fun _ _ y _ _ => chk (y.extractLsb' 48 16 != 0) 0x01 y) s
/-- `qstop` (R257). -/
def execQstop (h : Hal) (n : BitVec 4) (s : State) : Out := post (.qstop h n) h 1 0 0 0 (fun _ _ _ _ _ => none) s
/-- `qstat` (R257): where the range and the slot both fail check 3, `%tval` reports the range (the model's choice, log 21). -/
def execQstat (h : Hal) (a : Reg) (n : BitVec 4) (sp : BitVec 2) (t : BitVec 5) (s : State) : Out :=
  post (.qstat h a n sp t) h 1 0 a 0 (fun s _ y _ _ =>
    firstFail [chk (y.extractLsb' 0 4 != 0) 0x02 y, rangeCheck s sp y 16, slotCheck s t]) s
/-- `qfill` (R258): of two ranks that fail, `%tval` reports that of side A (the model's choice, log 21). -/
def execQfill (h : Hal) (a : Reg) (srcA srcB : QSrc) (na nb : BitVec 3) (s : State) : Out :=
  post (.qfill h a srcA srcB na nb) h 1 0 a 0 (fun s _ y _ _ =>
    firstFail [chk (y.extractLsb' 32 32 != 0) 0x01 y, rankCheck s srcA, rankCheck s srcB]) s
/-- `qrow` (R260). -/
def execQrow (h : Hal) (a : Reg) (n : BitVec 4) (v : BitVec 8) (s : State) : Out :=
  post (.qrow h a n v) h 1 0 a 0 (fun _ _ y _ _ => chk (y.toNat == 0 || decide (256 < v.toNat + y.toNat)) 0x01 y) s
/-- `qstore` (R261). -/
def execQstore (h : Hal) (a : Reg) (n : BitVec 4) (col : Bool) (idx : BitVec 9) (cvt : Bool) (mode : BitVec 2) (t : BitVec 5)
    (scope : BitVec 3) (tke : Bool) (s : State) : Out :=
  post (.qstore h a n col idx cvt mode t scope tke) h 1 0 a 0 (fun s _ y _ _ =>
    firstFail [chk (y.toNat == 0 || decide ((if col then 384 else 256) < idx.toNat + y.toNat)) 0x01 y,
      if tke then slotCheck s t else none]) s
/-- `stbind` (R279): its local completion is its placement, and its nibble acts at the control core (R210, R278). -/
def execStbind (h : Hal) (a : Reg) (n : BitVec 4) (s : State) : Out :=
  scalar (.stbind h a n) h 8 (fun s =>
    let v := regGet s.core a
    if v.extractLsb' 21 43 ≠ 0 then .trap 0x01 v s
    else if 16 ≤ s.core.str.queue.length then .wait s
    else .done (s.upd fun c => pushQueue c 1 { instr := .stbind h a n, a := v, pc := c.ctl.pc, waited := true })) s

/-! ### Walks (R254) -/

def strGet (c : Core) (n : BitVec 4) : StreamReg := smGet {} c.str.q n.toNat
def strPut (c : Core) (n : BitVec 4) (r : StreamReg) : Core := c.updStr fun t => { t with q := smPut t.q n.toNat r }
def StreamReg.cnt (r : StreamReg) (j : Nat) : Nat := smGet 1 r.count j
def StreamReg.total (r : StreamReg) : Nat := r.cnt 0 * r.cnt 1 * r.cnt 2
/-- The index of a walk's position in dimension `j`. -/
def StreamReg.idx (r : StreamReg) (p j : Nat) : Nat :=
  if j = 0 then p % r.cnt 0 else if j = 1 then p / r.cnt 0 % r.cnt 1 else p / (r.cnt 0 * r.cnt 1)
def StreamReg.offset (r : StreamReg) (p : Nat) : Int :=
  (nats 0 3).foldl (fun a j => a + (r.idx p j : Int) * smGet 0 r.stride j) 0
def StreamReg.soffset (r : StreamReg) (p : Nat) : Int :=
  (nats 0 3).foldl (fun a j => a + ((if j = r.kdim.toNat then r.idx p j / 128 else r.idx p j : Nat) : Int) * smGet 0 r.sstride j) 0
/-- The address of an element and, for 4-bit formats, its half of the byte. -/
def StreamReg.addr (r : StreamReg) (p : Nat) : DWord × Nat :=
  let off := r.offset p
  if fmtBits r.fmt = 4 then (effAddr r.sp r.base (off / 2), (off % 2).toNat) else (effAddr r.sp r.base (off * (fmtBits r.fmt / 8 : Nat)), 0)
def StreamReg.saddr (r : StreamReg) (p : Nat) : DWord := effAddr r.ssp r.sbase (r.soffset p)
def StreamReg.step (r : StreamReg) : StreamReg := { r with pos := (r.pos + 1) % r.total }
/-- The bytes an element's access covers. -/
def fmtBytes (f : BitVec 4) : Nat := if fmtBits f = 4 then 1 else fmtBits f / 8

/-- A walk that may not run (R257): inactive, another target, or a block-scaled format without kdim. -/
def StreamReg.illegal (r : StreamReg) (tgt : BitVec 2) : Bool :=
  !r.active || r.target != tgt || (fmtScaled r.fmt && r.kdim == 3)

/-! ### The engine -/

/-- A posted fault of an engine (R251): the engine stops, and the trap waits for the C-stream boundary. -/
def postedFault (s : State) (n e : Nat) (code : BitVec 8) (tval : DWord) (depth idx : Nat) : State :=
  let s := raisePending s n ⟨BitVec.ofNat 3 e, code, 0, tval, BitVec.ofNat 64 (e * 2 ^ 55 + depth * 2 ^ 48 + idx % 2 ^ 48)⟩
  s.updN n fun c =>
    if e = 2 then c.updStr fun t => { t with stopped := true }
    else if e = 3 then c.updGrd fun t => { t with stopped := true }
    else c.updCpy fun t => { t with stopped := true }
/-- A posted fault of the stream engine at the walk of register `q` (R262); its look-ahead is discarded (R115). -/
def strFault (s : State) (n q : Nat) (code : BitVec 8) (tval : DWord) (idx : Nat) : State :=
  let s := s.updN n fun c => c.dropAhead.updStr fun t =>
    { t with queue := match t.queue with | p :: l => { p with fault := if q < 16 then some q else none } :: l | [] => [] }
  postedFault s n 2 code tval (s.coreN n).str.queue.length idx

/-- Replaces the instruction at the head of the stream queue. -/
def strHead (s : State) (n : Nat) (p : Posted) : State :=
  s.updN n fun c => c.updStr fun t => { t with queue := p :: t.queue.tail }
/-- Local completion: the flags and the signals are made once (R52, R84). -/
def strSign (s : State) (n : Nat) (p : Posted) (h : Hal) : State :=
  if p.signed then s else s.updN n fun c => signal s.clock (orFlags c p.flags) 1 h
/-- The head instruction leaves the queue, at its local completion at the latest. -/
def strDone (s : State) (n : Nat) (p : Posted) (h : Hal) : State :=
  (strSign s n p h).updN n fun c => c.updStr fun t => { t with queue := t.queue.tail }

/-- What one element access of a walk gives. -/
inductive Elem where
  | ok (v scale : Nat)
  /-- delivered, with a load tag fault at this address after it -/
  | tag (v scale : Nat) (ea : DWord)
  | fault (code : BitVec 8) (tval : DWord)
  | held (ea : DWord)
  deriving DecidableEq, Repr

def strWho (n : Nat) (p : Posted) (pos : Nat) : Who := ⟨n, 2, p.pc, 0, pos⟩

/-- Loads the element at a walk's position, and its scale byte for a block-scaled format (R254, R262, R394). -/
def walkElem (s : State) (n : Nat) (p : Posted) (r : StreamReg) : State × Elem :=
  let w := strWho n p r.pos
  let (ea, half) := r.addr r.pos
  match loadAt s w [] r.sp ea (fmtBytes r.fmt) .walkLoad with
  | (s, .val v t) =>
    let v := if fmtBits r.fmt = 4 then v / 16 ^ half % 16 else v
    if fmtScaled r.fmt then
      let sa := r.saddr r.pos
      match loadAt s w [] r.ssp sa 1 .walkLoad with
      | (s, .val sc t2) =>
        if t.isSome then (s, .tag v sc ea) else if t2.isSome then (s, .tag v sc sa) else (s, .ok v sc)
      | (s, .fault c a) => (s, .fault c a)
      | (s, .held) => (s, .held sa)
      | (s, .done) => (s, .ok v 0)
    else if t.isSome then (s, .tag v 0 ea) else (s, .ok v 0)
  | (s, .fault c a) => (s, .fault c a)
  | (s, .held) => (s, .held ea)
  | (s, .done) => (s, .ok 0 0)

/-- Gathers elements of register `q` until `need` are there: the state, the elements so far, and whether it got them all. A
fault stops the engine with the position recorded (R262). -/
def gather (n : Nat) (p : Posted) (q : BitVec 4) (need : Nat) : Nat → State → List (Nat × Nat) → State × List (Nat × Nat) × Bool
  | 0, s, l => (s, l, decide (need ≤ l.length))
  | k + 1, s, l =>
    if need ≤ l.length then (s, l, true)
    else
      let r := strGet (s.coreN n) q
      match walkElem s n p r with
      | (s, .ok v sc) => gather n p q need k (s.updN n fun c => strPut c q r.step) (l ++ [(v, sc)])
      | (s, .tag v sc ea) =>
        let s := s.updN n fun c => strPut c q r.step
        (strFault s n q.toNat 0x05 ea r.step.pos, l ++ [(v, sc)], false)
      | (s, .fault c a) => (strFault s n q.toNat c a r.pos, l, false)
      | (s, .held ea) => (holdAt s n 2 ea, l, false)

/-! #### `qfill` (R258, R259) -/

def sideNeed (sideB : Bool) : Nat := if sideB then 384 else 128
def sideQueue (c : Core) (sideB : Bool) : List QEntry := if sideB then c.str.qb else c.str.qa
def pushEntry (c : Core) (sideB : Bool) (e : QEntry) : Core :=
  c.updStr fun t => if sideB then { t with qb := t.qb ++ [e] } else { t with qa := t.qa ++ [e] }
def sideDone (p : Posted) (sideB : Bool) : Nat := if sideB then p.progB else p.prog
def sidePart (p : Posted) (sideB : Bool) : List (Nat × Nat) := if sideB then p.partB else p.partA
def setPart (p : Posted) (sideB : Bool) (l : List (Nat × Nat)) : Posted := if sideB then { p with partB := l } else { p with partA := l }
def bumpSide (p : Posted) (sideB : Bool) : Posted :=
  if sideB then { p with progB := p.progB + 1, partB := [] } else { p with prog := p.prog + 1, partA := [] }
/-- The source and the total of entries of a side of a `qfill`. -/
def sideOf (p : Posted) (sideB : Bool) : Option (QSrc × Nat) :=
  match p.instr with
  | .qfill _ _ sa sb na nb =>
    let steps := (p.a.extractLsb' 0 32).toNat
    some (if sideB then (sb, nb.toNat * steps) else (sa, na.toNat * steps))
  | _ => none
def sideLeft (p : Posted) (sideB : Bool) : Bool :=
  match sideOf p sideB with | some (_, t) => decide (sideDone p sideB < t) | none => false
/-- The block of the element at a position: the position of its first element, told apart by sender and stream register, and
whether the element is the block's last (R72). -/
def StreamReg.block (r : StreamReg) (who p : Nat) : Nat × Bool :=
  let k := r.kdim.toNat
  let run := if k = 0 then 1 else if k = 1 then r.cnt 0 else r.cnt 0 * r.cnt 1
  let x := r.idx p k
  ((p - x % 128 * run) * 1024 + who, x % 128 == 127 || x + 1 == r.cnt k)
/-- The entry of the elements that end at a walk's position (R116); `who` is 16 × rank + register. -/
def mkEntry (r : StreamReg) (who : Nat) (l : List (Nat × Nat)) : QEntry :=
  let n := l.length
  { fmt := r.fmt, elems := l.map (·.1), scales := if fmtScaled r.fmt then l.map (·.2) else [],
    blocks := if fmtScaled r.fmt then (List.range n).map fun i => r.block who ((r.pos + n * r.total + i - n) % r.total) else [] }

/-- Whether the stream engine may work on the instruction at its head: it has taken its waits (R51, R53). -/
def strReady (c : Core) : Option Posted :=
  if engOk c && !c.str.stopped && !heldBack c 1 then
    match c.str.queue with
    | p :: _ => if p.waited then some p else none
    | [] => none
  else none

/-- Completes a `qfill` whose sides have both pushed their last entry. -/
def fillSettle (s : State) (n : Nat) : State :=
  match (s.coreN n).str.queue with
  | p :: _ =>
    match p.instr with
    | .qfill h .. => if sideLeft p false || sideLeft p true then s else strDone s n p h
    | _ => s
  | [] => s

/-- A side's register cannot be walked (R257), or it names the core's own rank (R259). -/
def sideBad (c : Core) (src : QSrc) : Bool :=
  match src with
  | .stream q => (strGet c q).illegal 0
  | .rank r => r.toNat == c.rank
/-- The first side that a `qfill` names (its count is not 0) and that cannot be walked, whatever the number of its entries (R257,
R259); of two, side A is reported (the model's choice, log 21). -/
def fillBad (c : Core) (p : Posted) : Option QSrc :=
  match p.instr with
  | .qfill _ _ sa sb na nb =>
    if na != 0 && sideBad c sa then some sa else if nb != 0 && sideBad c sb then some sb else none
  | _ => none

/-- Keeps the elements gathered of an entry that is not whole (R262). -/
def strPart (s : State) (n : Nat) (sideB : Bool) (l : List (Nat × Nat)) : State :=
  match (s.coreN n).str.queue with
  | p :: _ => strHead s n (setPart p sideB l)
  | [] => s

/-- One local entry of one side: gathered whole and pushed, where its queue has room (R258). -/
def localPush (s : State) (n : Nat) (p : Posted) (q : BitVec 4) (sideB : Bool) : State :=
  let (s, l, ok) := gather n p q (sideNeed sideB) 384 s (sidePart p sideB)
  if ok then
    let r := strGet (s.coreN n) q
    let s := s.updN n fun c => pushEntry c sideB (mkEntry r (16 * c.rank + q.toNat) l)
    fillSettle (strHead s n (bumpSide p sideB)) n
  else strPart s n sideB l

/-- The receivers of a sender's walk, the sender apart. -/
def receivers (s : State) (n : Nat) (r : StreamReg) : List Nat :=
  ((List.range 24).filter fun k => r.mcast.getLsbD k).filterMap fun k =>
    match (s.gangOf n).coreAt k with
    | some m => if m = n then none else some m
    | none => none
/-- Whether a core is ready to receive an entry of a sender's rank on a side (R259). -/
def canReceive (s : State) (m rank : Nat) (sideB : Bool) : Bool :=
  let c := s.coreN m
  match strReady c with
  | some p =>
    (match sideOf p sideB with
     | some (.rank r, _) => r.toNat == rank && sideLeft p sideB
     | _ => false) && (fillBad c p).isNone && decide ((sideQueue c sideB).length < 16)
  | none => false

/-- One multicast entry: pushed to every receiver in one step, or not at all (R259, R411). -/
def mcastPush (s : State) (n : Nat) (p : Posted) (q : BitVec 4) (sideB : Bool) : State :=
  let c := s.coreN n
  let r := strGet c q
  let ms := receivers s n r
  let own := r.mcast.getLsbD c.rank
  if ms.all (fun m => canReceive s m c.rank sideB) && (!own || decide ((sideQueue c sideB).length < 16)) then
    let (s, l, ok) := gather n p q (sideNeed sideB) 384 s (sidePart p sideB)
    if ok then
      let e := mkEntry (strGet (s.coreN n) q) (16 * c.rank + q.toNat) l
      let s := if own then s.updN n fun c => pushEntry c sideB e else s
      let s := ms.foldl (fun s m =>
        match (s.coreN m).str.queue with
        | pm :: _ => fillSettle (strHead (s.updN m fun c => pushEntry c sideB e) m (bumpSide pm sideB)) m
        | [] => s) s
      fillSettle (strHead s n (bumpSide p sideB)) n
    else strPart s n sideB l
  else s

/-- Event: one entry of a local side is pushed (R258). -/
def execQfillEntryPush (core : Nat) (sideB : Bool) (s : State) : Out :=
  .next <| match strReady (s.coreN core) with
  | some p =>
    match sideOf p sideB with
    | some (.stream q, _) =>
      if sideLeft p sideB && (fillBad (s.coreN core) p).isNone && (strGet (s.coreN core) q).mcast == 0 &&
          decide ((sideQueue (s.coreN core) sideB).length < 16) then watchAnswer (localPush s core p q sideB) core else s
    | _ => s
  | none => s

/-- Event: one multicast entry is pushed to every receiver (R259). -/
def execMulticastEntryPush (core : Nat) (sideB : Bool) (s : State) : Out :=
  .next <| match strReady (s.coreN core) with
  | some p =>
    match sideOf p sideB with
    | some (.stream q, _) =>
      if sideLeft p sideB && (fillBad (s.coreN core) p).isNone && (strGet (s.coreN core) q).mcast != 0 then
        watchAnswer (mcastPush s core p q sideB) core
      else s
    | _ => s
  | none => s

/-! #### `qrow` (R260) -/

/-- Loads one row, element by element; a row not in state V waits (R108). -/
def rowLoad (n : Nat) (p0 : Posted) (q : BitVec 4) (v bits stop : Nat) : Nat → State → Nat → State
  | 0, s, prog => strHead s n { p0 with prog := prog }
  | k + 1, s, prog =>
    if stop ≤ prog then strHead s n { p0 with prog := prog }
    else
      let r := strGet (s.coreN n) q
      let per := 384 * (32 / bits)
      let view : View := .row (BitVec.ofNat 8 (v + prog / per))
      let put (s : State) (x : Nat) : State := s.updN n fun c =>
        (strPut c q r.step).updGrd fun g => elemSet g view bits (prog % per) x
      match walkElem s n p0 r with
      | (s, .ok x _) => rowLoad n p0 q v bits stop k (put s x) (prog + 1)
      | (s, .tag x _ ea) => strFault (strHead (put s x) n { p0 with prog := prog + 1 }) n q.toNat 0x05 ea r.step.pos
      | (s, .fault c a) => strFault (strHead s n { p0 with prog := prog }) n q.toNat c a r.pos
      | (s, .held ea) => strHead (holdAt s n 2 ea) n { p0 with prog := prog }

def rowStep (s : State) (n : Nat) (p : Posted) (h : Hal) (q : BitVec 4) (v : Nat) : State :=
  let r := strGet (s.coreN n) q
  let bits := fmtBits r.fmt
  let per := 384 * (32 / bits)
  -- a tag fault on the last element has delivered it: nothing is left after the return
  if p.started && decide (p.a.toNat * per ≤ p.prog) then strDone s n p h
  else if r.illegal 1 || bits == 4 || fmtScaled r.fmt then strFault s n q.toNat 0x01 (encWord p.instr) r.pos
  else
    let p := { p with started := true }
    let row := v + p.prog / per
    if rowGet (s.coreN n).grd row ≠ .v then s
    else
      let s := rowLoad n p q v bits ((p.prog / per + 1) * per) per (unhold s n 2) p.prog
      match (s.coreN n).str.queue with
      | p' :: _ => if p'.prog = p.a.toNat * per ∧ (s.coreN n).str.stopped = false then strDone s n p' h else s
      | [] => s

/-! #### `qstore` (R261) -/

/-- The element a cell gives in convert form, with its flags. -/
def storeConv (fmt : BitVec 4) (mode : BitVec 2) (cell : Word) : Nat × Flags :=
  match fmt.toNat with
  | 0 => (cell.toNat, 0)
  | 11 | 14 => (cell.toNat, 0)
  | _ =>
    match fmtFloat fmt with
    | some f => fconv f true mode.toNat 0 (f32.val cell.toNat)
    | none =>
      let w := fmtBits fmt
      (ofS w (satInt cell.toInt (intLo w (fmtSigned fmt)) (intHi w (fmtSigned fmt))), 0)

/-- The element that a `qstore` reads at its progress, with its flags; none while its row waits (R108). An element read before,
whose write was held, is kept in `partA`. -/
def storeElem1 (c : Core) (p : Posted) (fmt : BitVec 4) (view : View) (cvt : Bool) (mode : BitVec 2) (per : Nat) : Option (Nat × Flags) :=
  match p.partA with
  | (x, fl) :: _ => some (x, BitVec.ofNat 6 fl)
  | [] =>
    let bits := fmtBits fmt
    let e := p.prog % per
    let vw : View := match view with
      | .row i => .row (i + BitVec.ofNat 8 (p.prog / per))
      | .col i => .col (i + BitVec.ofNat 9 (p.prog / per))
      | .diag i => .diag i
    let row := if cvt then (viewCell vw 0 e).1 else elemRow vw bits e
    if rowGet c.grd row ≠ .v then none
    else if cvt then let ij := viewCell vw 0 e; some (storeConv fmt mode (cellGet c.grd ij.1 ij.2))
    else some (elemGet c.grd vw bits e, 0)

/-- Stores elements until a view is done, each with its contribution (R163). A location this walk has written before may keep
either value (R137, log 31). A held element has been read: the last one ends the instruction's reads, and so completes it
(R52). -/
def viewStore (n : Nat) (h : Hal) (q : BitVec 4) (view : View) (cvt : Bool) (mode : BitVec 2) (per stop : Nat) :
    Nat → State → Posted → State
  | 0, s, p => strHead s n p
  | k + 1, s, p =>
    if stop ≤ p.prog then strHead s n p
    else
      let c := s.coreN n
      let r := strGet c q
      match storeElem1 c p r.fmt view cvt mode per with
      | none => strHead s n p
      | some (x, fl) =>
        let bits := fmtBits r.fmt
        let (ea, half) := r.addr r.pos
        let key := 2 * ea.toNat + half
        let again := p.seen.contains key
        let keep := again && s.pick 2 == 0
        let s := if again then s.bumpFree else s
        let upd (old : Nat) : Nat :=
          if keep then old else if bits = 4 then old - old / 16 ^ half % 16 * 16 ^ half + x * 16 ^ half else x
        match withContrib s n 0 (if r.recEn then some (r.recId, [elemVal r.fmt 127 x]) else none)
            (fun s => storeAt s (strWho n p r.pos) [] r.sp ea (fmtBytes r.fmt) .walkStore upd) with
        | (s, .fault code a) => strFault (strHead s n { p with partA := [(x, fl.toNat)] }) n q.toNat code a r.pos
        | (s, .held) =>
          let p := { p with partA := [(x, fl.toNat)] }
          let s := holdAt s n 2 ea
          if p.prog + 1 = p.a.toNat * per then
            let p := { p with flags := p.flags ||| fl }
            strHead (strSign s n p h) n { p with signed := true }
          else strHead s n p
        | (s, _) =>
          viewStore n h q view cvt mode per stop k (s.updN n fun c => strPut c q r.step)
            { p with prog := p.prog + 1, partA := [], seen := if again then p.seen else key :: p.seen, flags := p.flags ||| fl }

def storeStep (s : State) (n : Nat) (p : Posted) (h : Hal) (q : BitVec 4) (view : View) (cvt : Bool) (mode : BitVec 2)
    (t : BitVec 5) (scope : BitVec 3) (tke : Bool) : State :=
  let r := strGet (s.coreN n) q
  let bits := fmtBits r.fmt
  if r.illegal 2 || fmtScaled r.fmt || (!cvt && bits == 4) then strFault s n q.toNat 0x01 (encWord p.instr) r.pos
  else if tke && !p.started then
    if tokPending (s.coreN n) t.toNat then s
    else strHead (s.updN n fun c => tokStart c t.toNat scope) n { p with started := true }
  else
    let per := if cvt then viewCells view else viewCells view * (32 / bits)
    let s := viewStore n h q view cvt mode per ((p.prog / per + 1) * per) per (unhold s n 2) p
    match (s.coreN n).str.queue with
    | p' :: _ => if p'.prog = p.a.toNat * per then strDone s n p' h else s
    | [] => s

/-! #### The other stream instructions -/

def cfgReg (s : State) (n : Nat) (q : BitVec 4) (f : StreamReg → StreamReg) : State :=
  s.updN n fun c => strPut c q (f { strGet c q with active := false, pos := 0, ahead := [] })

/-- `qstat` (R257): at issue its slot is pending (R55) and the values are captured, which is its local completion (R52); then it
writes two 8-byte parts, each once. -/
def statStep (s : State) (n : Nat) (p : Posted) (h : Hal) (q : BitVec 4) (sp : BitVec 2) (t : BitVec 5) : State :=
  let c := s.coreN n
  let r := strGet c q
  if !p.started then
    if tokPending c t.toNat then s
    else
      let rec32 : Nat := (if r.recEn then 2 ^ 20 else 0) + r.recId.toNat
      let hi := (if r.active then 1 else 0) + r.fmt.toNat * 2 ^ 8 + r.target.toNat * 2 ^ 16 + rec32 * 2 ^ 32
      strHead (strSign (s.updN n fun c => tokStart c t.toNat 0) n p h) n
        { p with started := true, signed := true, d := BitVec.ofNat 64 r.pos, b := BitVec.ofNat 64 hi }
  else if 2 ≤ p.prog then strDone s n p h
  else
    let v := if p.prog = 0 then p.d else p.b
    match storeAt s (strWho n p 0) [] sp (effAddr sp p.a (8 * p.prog)) 8 .store (fun _ => v.toNat) with
    | (s, .fault c v) => strFault s n q.toNat c v p.prog
    | (s, .held) => holdAt s n 2 p.a
    | (s, _) =>
      let p := { p with prog := p.prog + 1 }
      if p.prog = 2 then strDone (unhold s n 2) n p h else strHead (unhold s n 2) n p

/-! #### Look-ahead (R255) -/

/-- The addresses in global memory that the element at a position touches. -/
def StreamReg.pages (r : StreamReg) (p : Nat) : List Nat :=
  (if r.sp = 0 then [((r.addr p).1.extractLsb' 0 56).toNat] else []) ++
  (if fmtScaled r.fmt && r.ssp == 0 then [((r.saddr p).extractLsb' 0 56).toNat] else [])

/-- The pages that look-ahead has come to: those it can translate, and the bases of those it cannot, 4,096 B each. -/
abbrev Ahead := List TlbEntry × List Nat

/-- Translates one address for look-ahead, which never faults, where it is on no page come to before. A page with no translation
counts among the four, and the walk itself tries it again when it reaches it. -/
def aheadAdd (s : State) (n : Nat) (r : StreamReg) (l : Ahead) (va : Nat) : Ahead :=
  let asid := (s.coreN n).asid
  if l.1.length + l.2.length ≥ 4 || l.1.any (fun t => t.covers asid va) || l.2.contains (va / 4096) then l
  else match r.ahead.find? fun t => t.covers asid va with
  | some t => (l.1 ++ [t], l.2)
  | none =>
    match walk s (dieOf n) asid va with
    | .ok e b z => (l.1 ++ [⟨asid, b, z, e⟩], l.2)
    | _ => (l.1, va / 4096 :: l.2)

/-- The next four distinct pages of the walk, from a position on: `fuel` is the number of positions left, all of them. -/
def aheadScan (s : State) (n : Nat) (r : StreamReg) : Nat → Nat → Ahead → Ahead
  | 0, _, l => l
  | k + 1, p, l =>
    if 4 ≤ l.1.length + l.2.length then l else aheadScan s n r k (p + 1) ((r.pages (p % r.total)).foldl (aheadAdd s n r) l)

/-- An active register keeps ready the translations of the pages its walk comes to next (R255). -/
def lookAhead (s : State) (n q : Nat) : State :=
  let r := smGet {} (s.coreN n).str.q q
  if !r.active then s
  else
    let l := (aheadScan s n r r.total r.pos ([], [])).1
    if l = r.ahead then s else s.updN n fun c => c.updStr fun t => { t with q := smPut t.q q { r with ahead := l } }
def lookAheads (s : State) (n : Nat) : State := ((s.coreN n).str.q.map (·.1)).foldl (fun s q => lookAhead s n q) s

/-- One step of the stream engine on the instruction at its head, its waits taken. -/
def strWork (s : State) (n : Nat) (p : Posted) : State :=
  match p.instr with
  | .qbase h _ b q sp ssp =>
    strDone (cfgReg s n q fun r => { r with base := p.a, sp := sp, sbase := if b = 0 then 0 else p.b, ssp := ssp }) n p h
  | .qdim h _ _ _ q j k =>
    strDone (cfgReg s n q fun r =>
      { r with count := smPut r.count j.toNat p.a.toNat, stride := smPut r.stride j.toNat p.b.toInt,
               sstride := smPut r.sstride j.toNat p.d.toInt, kdim := if k then j else if r.kdim = j then 3 else r.kdim }) n p h
  | .qfmt h _ q f t => strDone (cfgReg s n q fun r => { r with fmt := f, target := t, mcast := p.a.setWidth 24 }) n p h
  | .qstart h _ q =>
    strDone (s.updN n fun c => let r := strGet c q; strPut c q { r with pos := p.a.toNat % r.total, active := true }) n p h
  | .qstop h q => strDone (s.updN n fun c => strPut c q { strGet c q with active := false, ahead := [] }) n p h
  | .qstat h _ q sp t => statStep s n p h q sp t
  | .stbind _ _ q =>
    strDone (s.updN n fun c => strPut c q { strGet c q with recEn := p.a.getLsbD 20, recId := p.a.setWidth 20 }) n p 0
  | .qrow h _ q v => rowStep s n p h q v.toNat
  | .qstore h _ q col idx cvt mode t scope tke =>
    storeStep s n p h q (if col then .col idx else .row (idx.setWidth 8)) cvt mode t scope tke
  | .qfill .. =>
    match fillBad (s.coreN n) p with
    | some (.stream q) => strFault s n q.toNat 0x01 (encWord p.instr) (strGet (s.coreN n) q).pos
    | some (.rank _) => strFault s n 16 0x01 (encWord p.instr) 0
    | none =>
      let go (s : State) (sd : Bool) : State :=
        match strReady (s.coreN n) with
        | some p' =>
          match sideOf p' sd with
          | some (.stream q, _) =>
            if !sideLeft p' sd || p'.pc != p.pc then s
            else if (strGet (s.coreN n) q).mcast = 0 then
              (if (sideQueue (s.coreN n) sd).length < 16 then localPush s n p' q sd else s)
            else mcastPush s n p' q sd
          | _ => s
        | none => s
      fillSettle (go (go s false) true) n
  | _ => s

/-- Whether the convoy in flight uses a stream port. -/
def portHeld (c : Core) : Bool := match c.vec.cv with | some cv => cv.qpos.isSome | none => false

/-- The head of a core's stream queue takes its waits, then works (R51). -/
def strHeadTurn (s : State) (n : Nat) : State :=
  let c := s.coreN n
  if c.str.stopped || (heldBack c 1 && !writing c) then s
  else match c.str.queue with
  | [] => s
  | p :: _ =>
    if p.waited then strWork s n p
    else
      let h := halOf p.instr
      -- a convoy that uses a stream port holds the engine between its own instructions (R323)
      if portHeld c then s else if waitsOk c 1 h then strHead (s.updN n fun c => takeWaits c 1 h) n { p with waited := true } else s
where
  /-- the head instruction has completed and only writes to memory are left: a held signal does not stop them (R52, R53) -/
  writing (c : Core) : Bool := match c.str.queue with | p :: _ => p.signed | [] => false
  /-- the nibble of a posted stream instruction -/
  halOf : Instr → Hal
    | .qbase h .. | .qdim h .. | .qfmt h .. | .qstart h .. | .qstop h .. | .qstat h .. | .qfill h .. | .qrow h .. | .qstore h .. => h
    | _ => 0

/-- The turn of a core's stream engine: its head instruction, then the look-ahead of the active registers, which their own walks, stream
ports, resumes and discards have left behind (R255). -/
def strTurn (s : State) (n : Nat) : State := if engOk (s.coreN n) then lookAheads (strHeadTurn s n) n else s

end Sys2Proof.Machine
end

