-- ==== Sys2Proof/Machine/Grid.lean ====
section
/-! DEFINITION. The grid group and the grid engine (R23, R86 to R88, R105 to R110, R263 to R267), with the checking slice (R434
to R436). -/

namespace Sys2Proof.Machine

/-! ### Posting -/

/-- `gupd` (R263). -/
def execGupd (h : Hal) (a : Reg) (fa fb : BitVec 4) (half : BitVec 2) (s : State) : Out :=
  post (.gupd h a fa fb half) h 2 0 a 0 (fun _ _ y _ _ => chk (y.extractLsb' 32 32 != 0) 0x01 y) s
/-- `gclr` (R266). -/
def execGclr (h : Hal) (v n1 : BitVec 8) (s : State) : Out := post (.gclr h v n1) h 2 0 0 0 (fun _ _ _ _ _ => none) s
/-- `gdone` (R266). -/
def execGdone (h : Hal) (v n1 : BitVec 8) (s : State) : Out := post (.gdone h v n1) h 2 0 0 0 (fun _ _ _ _ _ => none) s
/-- `glim` (R265). -/
def execGlim (h : Hal) (cols1 : BitVec 9) (rows1 : BitVec 7) (s : State) : Out :=
  post (.glim h cols1 rows1) h 2 0 0 0 (fun _ _ _ _ _ => none) s
/-- `gchk` (R267). -/
def execGchk (h : Hal) (s : State) : Out := post (.gchk h) h 2 0 0 0 (fun _ _ _ _ _ => none) s

/-! ### Updates -/

/-- The entries an update pops from `qa` and from `qb` (R23). -/
def shapeOf (fa : BitVec 4) (half : BitVec 2) : Nat × Nat :=
  match gupdClass fa with
  | some 1 => if half = 0 then (2, 1) else (1, 1)
  | some 2 => if half = 0 then (4, 2) else (4, 4)
  | _ => if half = 0 then (2, 1) else (2, 2)

/-- The exact value of an element of an entry. -/
def entryVal (e : QEntry) (i : Nat) : FVal := elemVal e.fmt (e.scales.getD i 127) (e.elems.getD i 0)
def entryInt (e : QEntry) (i : Nat) : Int := toS (fmtBits e.fmt) (e.elems.getD i 0)
/-- Whether an element is poisoned by its own parity or by that of a scale byte of its block (R436). -/
def entryBad (e : QEntry) (i : Nat) : Bool := e.badElem.contains i || e.badScale.contains i
/-- The parity errors that strike one entry of a queue as it is popped. -/
def upsetsOf (ups : List Upset) (sideB : Bool) (k : Nat) (e : QEntry) : List Upset :=
  ups.filter fun u => u.sideB == sideB && u.entry == k && decide (u.pos < e.elems.length)
/-- The blocks whose scale byte has bad parity in the entries popped, and those that earlier pops found (R436). -/
def badBlocks (ups : List Upset) (sideB : Bool) (bad : List Nat) (l : List QEntry) : List Nat :=
  bad ++ (l.zip (List.range l.length)).flatMap fun x =>
    ((upsetsOf ups sideB x.2 x.1).filter (·.scale)).filterMap fun u => (x.1.blocks[u.pos]?).map (·.1)
/-- The entries of one queue that an update pops, with the parity errors found at the pop: a scale byte poisons every element of
its block, in these entries and in later ones (R73, R436). -/
def markEntries (ups : List Upset) (sideB : Bool) (bad : List Nat) (l : List QEntry) : List QEntry :=
  let all := badBlocks ups sideB bad l
  (l.zip (List.range l.length)).map fun x =>
    { x.1 with badElem := x.1.badElem ++ ((upsetsOf ups sideB x.2 x.1).filter fun u => !u.scale).map (·.pos),
               badScale := if all.isEmpty then [] else (List.range x.1.blocks.length).filter fun i =>
                 all.contains ((x.1.blocks.getD i (0, false)).1) }
/-- The poisoned blocks that stay so after a pop: those whose last element is not among the entries (log 81). -/
def keepBad (ups : List Upset) (sideB : Bool) (bad : List Nat) (l : List QEntry) : List Nat :=
  (badBlocks ups sideB bad l).dedup.filter fun k => !l.any fun e => e.blocks.contains (k, true)

/-- The pairs of entries whose products a cell of a row receives, with the row's index in its `qa` entries (R87). -/
def termsOf (u : Upd) (i : Nat) : List (QEntry × QEntry) :=
  let d : QEntry := { fmt := 0, elems := [] }
  let qa (k : Nat) : QEntry := u.qa.getD k d
  let qb (k : Nat) : QEntry := u.qb.getD k d
  if u.half = 0 then
    let t := if i < 128 then 0 else 1
    (nats 0 u.qb.length).map fun k => (qa (2 * k + t), qb k)
  else (nats 0 u.qb.length).map fun k => (qa k, qb k)

/-- The new value of one target cell and its flags (R86, R88). -/
def updCell (u : Upd) (i j : Nat) (old : Word) : Word × Flags :=
  let ts := termsOf u i
  let r := i % 128
  if ts.any fun t => entryBad t.1 r || entryBad t.2 j then (0x7FC00000, 0)
  else if u.int then (BitVec.ofNat 32 (gridInt old.toNat (ts.map fun t => entryInt t.1 r * entryInt t.2 j)), 0)
  else
    let x := gridSum old.toNat (ts.map fun t => fvMul (entryVal t.1 r) (entryVal t.2 j))
    (BitVec.ofNat 32 x.1, x.2)

/-- The target rows of an update within its row limit (R265). -/
def updRows (u : Upd) : List Nat := (halfRows u.half).filter fun i => decide (i % 128 < u.rows)

/-- Writes every target cell of an update. -/
def applyUpd (u : Upd) (g : Grd) : Grd :=
  (updRows u).foldl (fun g i => (nats 0 u.cols).foldl (fun g j =>
    let x := updCell u i j (cellGet g i j)
    { cellSet g i j x.1 with flags := g.flags ||| x.2 }) g) g

/-- Whether any entry of an update is poisoned (R436). -/
def updBad (u : Upd) : Bool := (u.qa ++ u.qb).any fun e => !e.badElem.isEmpty || !e.badScale.isEmpty

def grdFault (s : State) (n : Nat) (code : BitVec 8) (tval : DWord) (depth idx : Nat) : State := postedFault s n 3 code tval depth idx
def grdHead (s : State) (n : Nat) (p : Posted) : State := s.updN n fun c => c.updGrd fun t => { t with queue := p :: t.queue.tail }
def grdPop (s : State) (n : Nat) : State := s.updN n fun c => c.updGrd fun t => { t with queue := t.queue.tail }
def grdSignal (s : State) (n : Nat) (h : Hal) : State := s.updN n fun c => signal s.clock c 2 h

/-- Issues one update of the `gupd` at the head: its rows are in state G, its entries are there and of its formats; they are
popped, with the parity errors found (R116, R263, R436). It waits for the updates before it in its own `gupd`, so that a fault's
index names the update to go on with (R435), and not for the last one of an earlier `gupd` (R107, log 81). -/
def issueUpd (s : State) (n : Nat) (p : Posted) (h : Hal) (fa fb : BitVec 4) (half : BitVec 2) (ups : List Upset) : State :=
  let c := s.coreN n
  let (na, nb) := shapeOf fa half
  if !c.grd.issued.all (·.last) then s
  else if !(halfRows half).all (fun i => rowGet c.grd i == .g) then s
  else if c.str.qa.length < na ∨ c.str.qb.length < nb then s
  else
    let ea := c.str.qa.take na
    let eb := c.str.qb.take nb
    if ea.any (fun e => e.fmt != fa) || eb.any (fun e => e.fmt != fb) then
      grdFault (grdHead s n { p with fault := some 0 }) n 0x01 (encWord p.instr) c.grd.queue.length p.prog
    else
      let last := decide (p.a.toNat ≤ p.prog + 1)
      let u : Upd := { qa := markEntries ups false c.str.badA ea, qb := markEntries ups true c.str.badB eb, half := half, int := gupdClass fa == some 3, cols := c.grd.cols, rows := c.grd.lim,
                       num := p.prog, pc := p.pc, last := last, h := h }
      let s := s.updN n fun c =>
        (c.updStr fun t => { t with qa := t.qa.drop na, qb := t.qb.drop nb, badA := keepBad ups false t.badA ea,
                                    badB := keepBad ups true t.badB eb }).updGrd fun g => { g with issued := g.issued ++ [u] }
      if last then grdPop s n else grdHead s n { p with prog := p.prog + 1 }

/-- Whether the grid engine may issue its head instruction. -/
def grdReady (c : Core) : Option Posted :=
  if engOk c && !c.grd.stopped && !heldBack c 2 then
    match c.grd.queue with
    | p :: _ => if p.waited then some p else none
    | [] => none
  else none

/-- Event: the grid engine issues one update (R263, R264). -/
def execGridUpdate (upd : UpdIssue) (s : State) : Out :=
  .next <| match grdReady (s.coreN upd.core) with
  | some p =>
    match p.instr with
    | .gupd h _ fa fb half => if p.prog < p.a.toNat then issueUpd s upd.core p h fa fb half upd.ups else s
    | _ => s
  | none => s

/-- Cause 0x0D of a check (R432, R435): the fault record, the failing core's bit, the end of the task as faulted, which does not wait
behind a freeze (R448). -/
def escalate (s : State) (n : Nat) (src : BitVec 3) (epc : VAddr) (idx : Nat) (grid : Bool) : State :=
  let s := faultRecord s n 0x0D src false epc (BitVec.ofNat 64 idx) 0 0
  let k := clusterOf n
  let b : BitVec 24 := 1#24 <<< (n % 24)
  let d := s.dbgOf k
  let s := s.setDbg k (if grid then { d with gfail := d.gfail ||| b } else { d with vfail := d.vfail ||| b })
  if (s.coreN n).hasTask then
    latchNow (s.updLaunch (s.gangOf n).launch fun l => { l with faulted := true }) (s.gid n) .faulted
  else s

/-- The value of `%tval` for a fault found by a checker (R432, R435). -/
def checkTval (k : Nat) : DWord := BitVec.ofNat 64 (0x0100000000000000 + k)

/-- A count that saturates at all ones (R441). -/
def satInc (x : BitVec 32) : BitVec 32 := if x = BitVec.allOnes 32 then x else x + 1

/-- The posted fault of update `k` of a `gupd`, which goes on at the next one, where it still has any (R435). -/
def postUpdFault (s : State) (n k depth : Nat) (last : Bool) : State :=
  let s := if last then s else s.updN n fun c => c.updGrd fun t =>
    { t with queue := match t.queue with | p :: l => { p with fault := some 0 } :: l | [] => [] }
  grdFault s n 0x07 (checkTval k) depth (k + 1)

/-- A faulty update has its report-ring entry and its posted fault (R389, R435). One that retires while the engine is stopped at
an earlier fault leaves its own owed until the engine resumes (R251). -/
def updFault (s : State) (n : Nat) (u : Upd) (depth : Nat) : State :=
  let s := ringAppend s ⟨n, 3, u.pc, 0, u.num⟩ 0x07 false 0 0 0
  if (s.coreN n).grd.stopped then s.updN n fun c => c.updGrd fun g => { g with owed := g.owed ++ [(u.num, depth, u.last)] }
  else postUpdFault s n u.num depth u.last

/-- The oldest issued update retires with the outcome of its check (R264, R434 to R436). The slice checked is the core's update
count modulo 12; a slice wholly beyond the column limit compares nothing. An update keeps the copies of its entries (R116). Where the
copies' parity fails, the flags of every cell of the update, the slice's own among them, still enter `%fflags`: R435 names the cells
only (the model's choice, log 81). -/
def retireUpd (s : State) (n : Nat) (u : Upd) (check : Check) : State :=
  let depth := (s.coreN n).grd.queue.length + (if u.last then 1 else 0)
  let sl := (s.coreN n).updNum
  let cs := (nats (32 * sl) 32).filter (· < u.cols)
  let drop (s : State) : State := s.updN n fun c =>
    { (c.updGrd fun g => { g with issued := g.issued.tail }) with updNum := (sl + 1) % 12 }
  let close (s : State) : State :=
    if u.last then
      let s := s.updN n fun c => (orFlags c c.grd.flags).updGrd fun g => { g with flags := 0 }
      grdSignal s n u.h
    else s
  let apply (s : State) : State := s.updN n fun c => c.updGrd (applyUpd u)
  match (if cs.isEmpty then Check.ok else check) with
  | .parityPass => escalate (drop s) n 3 u.pc u.num true
  | .parityFail =>
    let s := (apply s).updN n fun c => c.updGrd fun g =>
      (updRows u).foldl (fun g i => cs.foldl (fun g j => cellSet g i j 0x7FC00000) g) g
    updFault (close (drop s)) n u depth
  | r =>
    let s := close (drop (apply s))
    let k := clusterOf n
    let s := if r = .corrected then s.setDbg k { s.dbgOf k with gcorr := satInc (s.dbgOf k).gcorr } else s
    if updBad u then updFault s n u depth else s

/-- Whether issued updates may retire: they do under a stop, but not while the cluster is frozen (R411, R445). -/
def grdAlive (c : Core) : Bool := !c.frozen && (c.run != .free)

/-- Event: the oldest issued update retires (R264). -/
def execUpdateRetire (core : Nat) (chk : Check) (s : State) : Out :=
  .next <| match (s.coreN core).grd.issued with
  | u :: _ => if grdAlive (s.coreN core) then retireUpd s core u chk else s
  | [] => s

/-! ### Row handover (R106, R107) -/

/-- The lowest row in state GR with no update of an earlier instruction left to retire. -/
def eligibleRow (c : Core) : Option Nat :=
  (List.range 256).find? fun i => rowGet c.grd i == .gr && !c.grd.issued.any fun u => halfHas u.half i

/-- Event: the grid engine hands over one row; a `gdone` completes with the last row it named in state G (R107). R251 stops the
engine with the faulting instruction at the head of its queue, and does not say whether the release set, whose `gdone` have
left the queue, goes on: in this model it does, also while a posted fault is pending (the model's choice, log 77). -/
def execRowHandover (core : Nat) (s : State) : Out :=
  .next <|
    let c := s.coreN core
    if !engOk c then s
    else match eligibleRow c with
    | none => s
    | some i =>
      let ds := c.grd.dones.map fun d => { d with rows := d.rows.filter (· ≠ i) }
      let s := s.updN core fun c => c.updGrd fun g => { rowPut g i .v with dones := ds.filter fun d => !d.rows.isEmpty }
      (ds.filter fun d => d.rows.isEmpty).foldl (fun s d => grdSignal s core d.h) s

/-- `gdone` executes (R106, R107). -/
def doneStep (s : State) (n : Nat) (h : Hal) (v cnt : Nat) : State :=
  let c := s.coreN n
  let rs := (nats v cnt).filter fun i => rowGet c.grd i == .g
  let s := s.updN n fun c => c.updGrd fun g =>
    let g := rs.foldl (fun g i => rowPut g i .gr) g
    { g with dones := if rs.isEmpty then g.dones else g.dones ++ [⟨rs, h⟩] }
  let s := grdPop s n
  if rs.isEmpty then grdSignal s n h else s

/-- `gclr` executes once every named row is in state G and earlier updates have retired (R20, R266). -/
def clrStep (s : State) (n : Nat) (h : Hal) (v cnt : Nat) : State :=
  let c := s.coreN n
  if (nats v cnt).all (fun i => rowGet c.grd i == .g) && c.grd.issued.isEmpty then
    grdSignal (grdPop (s.updN n fun c => c.updGrd fun g =>
      (nats v cnt).foldl (fun g i => (nats 0 384).foldl (fun g j => cellSet g i j 0) g) g) n) n h
  else s

/-- One step of the grid engine on the instruction at its head. -/
def grdWork (s : State) (n : Nat) (p : Posted) : State :=
  match p.instr with
  | .gupd h _ fa fb half =>
    if p.a.toNat ≤ p.prog then
      if (s.coreN n).grd.issued.isEmpty then
        grdSignal ((grdPop s n).updN n fun c => (orFlags c c.grd.flags).updGrd fun g => { g with flags := 0 }) n h
      else grdSignal (grdPop s n) n h
    else issueUpd s n p h fa fb half []
  | .gclr h v n1 => clrStep s n h v.toNat (n1.toNat + 1)
  | .gdone h v n1 => doneStep s n h v.toNat (n1.toNat + 1)
  | .glim h c1 r1 => grdSignal (grdPop (s.updN n fun c => c.updGrd fun g => { g with cols := c1.toNat + 1, lim := r1.toNat + 1 }) n) n h
  | .gchk h => if (s.coreN n).grd.issued.isEmpty then grdSignal (grdPop s n) n h else s
  | _ => s

/-- The nibble of a posted grid instruction. -/
def grdHal : Instr → Hal
  | .gupd h .. | .gclr h .. | .gdone h .. | .glim h .. | .gchk h => h
  | _ => 0

/-- The head instruction takes its waits, then works; an engine that may not issue, or whose waits are not there, does nothing. -/
def grdHeadTurn (s : State) (n : Nat) : State :=
  let c := s.coreN n
  if !engOk c || c.grd.stopped || heldBack c 2 then s
  else match c.grd.queue with
  | [] => s
  | p :: _ =>
    if p.waited then grdWork s n p
    else if waitsOk c 2 (grdHal p.instr) then
      grdHead (s.updN n fun c => takeWaits c 2 (grdHal p.instr)) n { p with waited := true }
    else s

/-- The state a next outcome gives, else the one before. -/
def onward (s : State) (o : Out) : State := match o with | .next t => t | _ => s

/-- The turn of a core's grid engine: an owed fault is posted; else the lowest eligible row is handed over (R107), the head
instruction works, and the oldest update that had issued before the turn retires. -/
def grdTurn (s : State) (n : Nat) : State :=
  let g := (s.coreN n).grd
  match g.owed with
  | (k, depth, last) :: l =>
    if g.stopped || !grdAlive (s.coreN n) then s
    else postUpdFault (s.updN n fun c => c.updGrd fun g => { g with owed := l }) n k depth last
  | [] =>
    let t := grdHeadTurn (onward s (execRowHandover n s)) n
    if g.issued.isEmpty then t else onward t (execUpdateRetire n .ok t)

end Sys2Proof.Machine
end

