-- ==== Sys2Proof/Machine/VIface.lean ====
section
/-! DEFINITION. The control core's side of the vector engine, the inboxes and the arrival interrupt (R236 to R242), and the
environment group (R243 to R245). -/

namespace Sys2Proof.Machine

/-- `vstart` (R236): it waits for a halted vector engine, its address checked first. -/
def execVstart (h : Hal) (a : Reg) (s : State) : Out :=
  scalar (.vstart h a) h 4 (fun s =>
    let t := regGet s.core a
    if t.extractLsb' 0 3 ≠ 0 then .trap 0x02 t s
    else if t.extractLsb' 56 8 ≠ 0 then .trap 0x08 t s
    else if s.core.vec.halted && s.core.vec.cv.isNone then
      .done ((vFresh s s.cur).upd fun c => c.updVec fun v => { v with pc := t.setWidth 56, halted := false, paid := [] })
    else .wait s) s

/-- `vpush` (R48, R237). -/
def execVpush (h : Hal) (a : Reg) (s : State) : Out :=
  scalar (.vpush h a) h 4 (fun s =>
    if s.core.c2v.length < 8 then .done (s.upd fun c => { c with c2v := c.c2v ++ [regGet c a] }) else .wait s) s
/-- `vpop` (R48, R237). -/
def execVpop (h : Hal) (d : Reg) (s : State) : Out :=
  scalar (.vpop h d) h 4 (fun s =>
    match s.core.v2c with
    | x :: t => .done (s.upd fun c => regSet { c with v2c := t } d x)
    | [] => .wait s) s
/-- `vsync` (R238). -/
def execVsync (h : Hal) (s : State) : Out :=
  scalar (.vsync h) h 4 (fun s => if s.core.vec.halted && s.core.vec.cv.isNone then .done s else .wait s) s

/-! ### Inboxes (R239) -/

def inboxGet (c : Core) (b : Nat) : List (BitVec 256) := smGet [] c.inbox b
/-- `inpop` (R239): 32 bytes into four registers. -/
def execInpop (h : Hal) (d : Reg) (b : BitVec 4) (s : State) : Out :=
  scalar (.inpop h d b) h 4 (fun s =>
    match inboxGet s.core b.toNat with
    | x :: t => .done (s.upd fun c =>
        let c := { c with inbox := smSet [] c.inbox b.toNat t }
        let c := regSet c d (x.extractLsb' 0 64)
        let c := regSet c (d + 1) (x.extractLsb' 64 64)
        let c := regSet c (d + 2) (x.extractLsb' 128 64)
        regSet c (d + 3) (x.extractLsb' 192 64))
    | [] => .wait s) s
/-- `inpeek` (R239). -/
def execInpeek (h : Hal) (d : Reg) (b : BitVec 4) (s : State) : Out :=
  regOp (.inpeek h d b) h 4 d (fun c => BitVec.ofNat 64 (inboxGet c b.toNat).length) s

/-! ### The arrival interrupt (R240 to R242) -/

/-- The lowest slot of a source mask that lies at or above the launch's tokens. -/
def badSlot (m : DWord) (tokens : Nat) : Option Nat := (List.range 32).find? fun n => m.getLsbD (16 + n) && decide (tokens ≤ n)

/-- `aiset` (R240). -/
def execAiset (h : Hal) (a b : Reg) (s : State) : Out :=
  scalar (.aiset h a b) h 4 (fun s =>
    let t := regGet s.core a
    let m := regGet s.core b
    if t.extractLsb' 0 2 ≠ 0 then .trap 0x02 t s
    else if t.extractLsb' 56 8 ≠ 0 then .trap 0x08 t s
    else if m.extractLsb' 48 16 ≠ 0 then .trap 0x01 m s
    else match badSlot m (s.gangOf s.cur).tokens with
    | some n => .trap 0x08 (BitVec.ofNat 64 n) s
    | none => .done (s.upd fun c => c.updCtl fun k =>
        let m48 : BitVec 48 := m.setWidth 48
        { k with arrHandler := t.setWidth 56, arrMask := m48, arrPend := if t = 0 then 0 else k.arrPend &&& m48 })) s

/-- `aret` (R242): illegal outside the handler. -/
def execAret (h : Hal) (s : State) : Out :=
  scalar (.aret h) h 4 (fun s =>
    if s.core.ctl.inHandler then .own (finish (s.upd fun c => cTransfer (c.updCtl fun k => { k with inHandler := false })) h s.core.ctl.arrRet)
    else .trap 0x01 (encWord (.aret h)) s) s

/-- The lowest set bit of the pending sources. -/
def lowestSource (m : BitVec 48) : Option Nat := (List.range 48).find? fun n => m.getLsbD n

/-- Whether the arrival interrupt is due (R241). -/
def arrivalDue (c : Core) : Bool := c.ctl.priv == 0 && c.ctl.arrHandler != 0 && !c.ctl.inHandler && c.ctl.arrPend != 0
/-- Entry to the arrival-interrupt handler (R241). The instruction it abandons starts again after the handler: its decrements are
returned, and a `pend.cad` makes its test anew (R51, R234). -/
def enterArrival (c : Core) : Core :=
  match lowestSource c.ctl.arrPend with
  | none => c
  | some n => cTransfer ((giveBack c).updCtl fun k =>
      { k with arrRet := k.pc, inHandler := true, stalled := false, cadTested := false, shadow := smSet 0 k.shadow 56 (BitVec.ofNat 64 n),
               arrPend := k.arrPend &&& ~~~(1#48 <<< n), pc := k.arrHandler })

/-! ### Environment (R243 to R245) -/

/-- `ecall` (R243): service 0 is the exit of the rank, which takes its waits, completes by itself and signals then (R44, R51,
R52); any other service traps to the
runtime. The command processor's part of service 0x2, the message, is written here (R373, R400, log 13). -/
def execEcall (h : Hal) (s : State) : Out :=
  scalar (.ecall h) h 4 (fun s =>
    let n := s.cur
    let c := s.core
    let v := regGet c 63
    if v = 0 then .own (s.upd fun c => (takeOnce c h).updCtl fun k => { k with exiting := true, took := some h })
    else
      let s := if v = 2 then
          match smFind s.launches (s.gangOf n).launch with
          | some l => mlogAppend s l.queue [l.id.toNat * 2 ^ 32 + n * 256 + c.rank, (regGet c 40).toNat]
          | none => s
        else s
      .trapAfter 0x0E v s) s

/-- `ebreak` (R244, R447): claimed by a debugger, it freezes the cluster once and traps after the thaw. -/
def execEbreak (h : Hal) (s : State) : Out :=
  scalar (.ebreak h) h 4 (fun s =>
    let n := s.cur
    let c := s.core
    if (s.dbgOf (clusterOf n)).claim.getLsbD (n % 24) && c.ebrkAt != some c.ctl.pc then
      .wait (requestFreeze (s.upd fun c => c.setEbrk (some c.ctl.pc)) n 4 0 0)
    else .trap 0x0F 0 (s.upd fun c => c.setEbrk none)) s

/-- `pause` (R245): 64 aclk, or until an event ends it. -/
def execPause (h : Hal) (s : State) : Out :=
  scalar (.pause h) h 4 (fun s =>
    match s.core.ctl.pauseEnd with
    | none => .wait (s.upd fun c => c.updCtl fun k => { k with pauseEnd := some (s.clock + 64) })
    | some t =>
      if t.toNat ≤ s.clock.toNat then .done (s.upd fun c => c.updCtl fun k => { k with pauseEnd := none }) else .wait s) s

end Sys2Proof.Machine
end

