-- ==== Sys2Proof/Machine/Copy.lean ====
section
/-! DEFINITION. The copy group and the copy engine (R268 to R277, R383 to R385), remote enqueues (R275, R460, R464) and the
token slots going idle (R55 to R57). -/

namespace Sys2Proof.Machine

/-- The functions of major 0x2A (R271). -/
inductive XOp where
  | copy | fill | tag | tagrd | gath | scat | sadd | bcast | red | enq | pref
  deriving DecidableEq, Repr

/-- The function, nibble and body of a copy instruction. -/
def xView : Instr → Option (XOp × Hal × CopyF)
  | .xcopy h _ _ _ f => some (.copy, h, f) | .xfill h _ _ _ f => some (.fill, h, f) | .xtag h _ _ _ f => some (.tag, h, f)
  | .xtagrd h _ _ _ f => some (.tagrd, h, f) | .xgath h _ _ _ f => some (.gath, h, f) | .xscat h _ _ _ f => some (.scat, h, f)
  | .xsadd h _ _ _ f => some (.sadd, h, f) | .xbcast h _ _ _ f => some (.bcast, h, f) | .xred h _ _ _ f => some (.red, h, f)
  | .xenq h _ _ _ f => some (.enq, h, f) | .xpref h _ _ f => some (.pref, h, f)
  | _ => none

/-- Whether the count counts elements of fmt (R271). -/
def XOp.elem : XOp → Bool
  | .gath | .scat | .sadd | .red => true
  | _ => false
/-- Whether the instruction has an index list (R272). -/
def XOp.indexed : XOp → Bool
  | .gath | .scat | .sadd => true
  | _ => false
/-- The bytes of one element (R384). -/
def xSize (op : XOp) (fmt : BitVec 4) : Nat := if op.elem then fmtBits fmt / 8 else 8
/-- The formats of R272. -/
def xFmtOk (op : XOp) (fmt : BitVec 4) : Bool :=
  match op with
  | .sadd | .red => fmt == 0 || fmt == 11 || fmt == 14
  | _ => decide (fmt.toNat ≤ 4) || (decide (9 ≤ fmt.toNat) && decide (fmt.toNat ≤ 14))

def cntOf (b : DWord) : Nat := (b.extractLsb' 0 40).toNat
def fmtOf (b : DWord) : BitVec 4 := b.extractLsb' 40 4
def ridOf (b : DWord) : BitVec 20 := b.extractLsb' 44 20
/-- The bytes the count stands for. -/
def xBytes (op : XOp) (b : DWord) : Nat :=
  if op.elem then cntOf b * xSize op (fmtOf b) else if op = .enq then 32 * cntOf b else cntOf b
/-- The elements of R384. -/
def xTotal (op : XOp) (b : DWord) : Nat := if op.elem then cntOf b else xBytes op b / 8

/-- The granule that a count is a multiple of (R271). -/
def xGrain : XOp → Nat
  | .copy | .fill | .bcast => 8
  | .tag => 32
  | .tagrd => 64
  | _ => 1

/-- Check 1 of R250 for the copy group (R269, R271 to R273, R275), the count register first (log 21). -/
def xRange (op : XOp) (f : CopyF) (d a b a1 : DWord) : List Check250 :=
  let fmt := fmtOf b
  [chk (!f.rb && (ridOf b != 0 || (!op.elem && fmt != 0))) 0x01 b,
   chk (op.elem && !xFmtOk op fmt) 0x01 b,
   chk (f.rb && (fmtScaled fmt || xBytes op b * 8 % fmtBits fmt != 0)) 0x01 b,
   chk (cntOf b % xGrain op != 0) 0x01 b,
   chk (op == .pref && cntOf b == 0) 0x01 b,
   chk (op == .enq && (cntOf b == 0 || decide (64 < cntOf b))) 0x01 b,
   chk (op == .enq && (d.extractLsb' 24 40 != 0 || d.extractLsb' 4 4 != 0 || decide (23 < (d.extractLsb' 8 5).toNat))) 0x01 d,
   chk (op == .tag && a.extractLsb' 4 60 != 0) 0x01 a,
   chk (op == .bcast && a1.extractLsb' 24 40 != 0) 0x01 a1]

/-- Check 2 of R250: the addresses given directly with their alignment (R271, R272). R271 gives the bases and the contiguous
addresses of `xgath`, `xscat`, `xsadd` and `xred` no alignment; that one off its element's alignment (R128) is a posted fault of the
element, and no trap here, is the model's choice (log 21). -/
def xAlign (op : XOp) (d a a1 : DWord) : List Check250 :=
  let al (n : Nat) (v : DWord) : Check250 := chk (v.toNat % n != 0) 0x02 v
  match op with
  | .copy | .bcast => [al 8 d, al 8 a]
  | .fill => [al 8 d]
  | .tag => [al 32 d]
  | .tagrd | .enq => [al 32 a]
  | .gath | .scat | .sadd => [al 4 a1]
  | .red | .pref => []

/-- Check 3 of R250: the ranges of each operand, ranks and slots. The base of `xgath`, `xscat` and `xsadd` is an address given
directly, so it must itself lie inside its allotment, though an index could bring each access inside: the model's choice,
the spec names only the range (log 21). Of several items that fail check 3, `%tval` reports the first in the order of this list: the
ranges, the lowest rank at or above G, the slots pt, c1, c2, c3; the spec gives no order inside a check (log 21). -/
def xBounds (s : State) (op : XOp) (f : CopyF) (d a b a1 : DWord) : List Check250 :=
  let n := xBytes op b
  let rg (sp : BitVec 2) (v : DWord) (len : Nat) : Check250 := rangeCheck s sp v len
  (match op with
   | .copy | .red => [rg f.dsp d n, rg f.ssp a n]
   | .fill => [rg f.dsp d n]
   | .tag => [rg 0 d n]
   | .tagrd => [rg f.dsp d (n / 64), rg 0 a n]
   | .gath => [rg f.dsp d n, rg f.ssp a 0, rg f.dsp a1 (4 * cntOf b)]
   | .scat | .sadd => [rg f.dsp d 0, rg f.ssp a n, rg f.ssp a1 (4 * cntOf b)]
   | .bcast => [rg 2 d n, rg f.ssp a n,
       ((List.range 24).find? fun r => a1.getLsbD r && decide ((s.gangOf s.cur).g ≤ r)).map fun r => (0x08, BitVec.ofNat 64 r)]
   | .enq => [rg f.ssp a n]
   | .pref => [rg 0 a 0]) ++
  [slotCheck s f.pt, slotCheck s f.c1, slotCheck s f.c2, slotCheck s f.c3]

def xCheck (op : XOp) (f : CopyF) (s : State) (d a b a1 : DWord) : Check250 :=
  firstFail (xRange op f d a b a1 ++ xAlign op d a a1 ++ xBounds s op f d a b a1)

/-- `xcopy` (R271). -/
def execXcopy (h : Hal) (d a b : Reg) (f : CopyF) (s : State) : Out := post (.xcopy h d a b f) h 4 d a b (xCheck .copy f) s
/-- `xfill` (R271). -/
def execXfill (h : Hal) (d a b : Reg) (f : CopyF) (s : State) : Out := post (.xfill h d a b f) h 4 d a b (xCheck .fill f) s
/-- `xtag` (R271, R274). -/
def execXtag (h : Hal) (d a b : Reg) (f : CopyF) (s : State) : Out := post (.xtag h d a b f) h 4 d a b (xCheck .tag f) s
/-- `xtagrd` (R271, R274). -/
def execXtagrd (h : Hal) (d a b : Reg) (f : CopyF) (s : State) : Out := post (.xtagrd h d a b f) h 4 d a b (xCheck .tagrd f) s
/-- `xgath` (R271, R272). -/
def execXgath (h : Hal) (d a b : Reg) (f : CopyF) (s : State) : Out := post (.xgath h d a b f) h 4 d a b (xCheck .gath f) s
/-- `xscat` (R271, R272). -/
def execXscat (h : Hal) (d a b : Reg) (f : CopyF) (s : State) : Out := post (.xscat h d a b f) h 4 d a b (xCheck .scat f) s
/-- `xsadd` (R271, R272). -/
def execXsadd (h : Hal) (d a b : Reg) (f : CopyF) (s : State) : Out := post (.xsadd h d a b f) h 4 d a b (xCheck .sadd f) s
/-- `xbcast` (R271, R273). -/
def execXbcast (h : Hal) (d a b : Reg) (f : CopyF) (s : State) : Out := post (.xbcast h d a b f) h 4 d a b (xCheck .bcast f) s
/-- `xred` (R271, R273). -/
def execXred (h : Hal) (d a b : Reg) (f : CopyF) (s : State) : Out := post (.xred h d a b f) h 4 d a b (xCheck .red f) s
/-- `xenq` (R271, R275). -/
def execXenq (h : Hal) (d a b : Reg) (f : CopyF) (s : State) : Out := post (.xenq h d a b f) h 4 d a b (xCheck .enq f) s
/-- `xpref` (R271, R276). -/
def execXpref (h : Hal) (a b : Reg) (f : CopyF) (s : State) : Out := post (.xpref h a b f) h 4 0 a b (xCheck .pref f) s

/-! ### Instructions in flight -/

/-- The slot an instruction in flight produces. -/
def flSlot (f : Flight) : Nat := match produces f.p.instr with | some t => t.toNat | none => 32
def flGet (c : Core) (t : Nat) : Option Flight := c.cpy.flight.find? fun f => flSlot f == t
def flPut (s : State) (n : Nat) (f : Flight) : State :=
  s.updN n fun c => c.updCpy fun k => { k with flight := k.flight.map fun g => if flSlot g = flSlot f then f else g }
/-- The instruction has ended; its slot becomes idle by its own event. -/
def flDrop (s : State) (n : Nat) (f : Flight) : State :=
  s.updN n fun c => c.updCpy fun k => { k with flight := k.flight.filter fun g => flSlot g != flSlot f }
def cpWho (n : Nat) (f : Flight) (e : Nat) : Who := ⟨n, 4, f.p.pc, 0, e⟩

/-- A posted fault of an instruction in flight: it resumes at element `k` (R251, R277, R360). The engine stops, and with it every
instruction in flight: all release their pins (R385, log 77). -/
def cpFault (s : State) (n : Nat) (f : Flight) (k : Nat) (code : BitVec 8) (tval : DWord) : State :=
  let c := s.coreN n
  flPut ((postedFault s n 4 code tval (c.cpy.queue.length + c.cpy.flight.length) k).updN n Core.dropPins) n
    { f with stopped := true, k := k, chunk := k, pins := [], noted := none }

/-! ### The operands of one element -/

/-- One operand of an element: its space, address, size and kind of access. -/
structure XArg where
  sp : BitVec 2
  ea : DWord
  n : Nat
  k : Kind
  deriving DecidableEq, Repr

/-- The index-list entry of an element (R272). -/
def xIndexArg (op : XOp) (f : CopyF) (p : Posted) (e : Nat) : XArg :=
  let sp := if op = .gath then f.dsp else f.ssp
  ⟨sp, effAddr sp p.a1 (4 * e : Nat), 4, .load⟩
/-- The source of an element; `idx` is its index. -/
def xSrc (op : XOp) (f : CopyF) (p : Posted) (e : Nat) (idx : Int) : Option XArg :=
  let z := xSize op (fmtOf p.b)
  match op with
  | .fill | .tag | .pref => none
  | .gath => some ⟨f.ssp, effAddr f.ssp p.a (idx * z), z, .load⟩
  | .tagrd => some ⟨0, effAddr 0 p.a (8 * e : Nat), 8, .load⟩
  | _ => some ⟨f.ssp, effAddr f.ssp p.a (z * e : Nat), z, .load⟩
/-- The destination of an element. One byte of `xtagrd` stands for 64 source bytes, and its last unit writes it (log 22). -/
def xDst (op : XOp) (f : CopyF) (p : Posted) (e : Nat) (idx : Int) : Option XArg :=
  let z := xSize op (fmtOf p.b)
  match op with
  | .enq | .pref => none
  | .scat => some ⟨f.dsp, effAddr f.dsp p.d (idx * z), z, .store⟩
  | .sadd => some ⟨f.dsp, effAddr f.dsp p.d (idx * z), z, .amo⟩
  | .red => some ⟨f.dsp, effAddr f.dsp p.d (z * e : Nat), z, .amo⟩
  | .tag => some ⟨0, effAddr 0 p.d (8 * e : Nat), 8, .tagSet⟩
  | .bcast => some ⟨2, effAddr 2 p.d (8 * e : Nat), 8, .store⟩
  | .tagrd => if e % 8 = 7 then some ⟨f.dsp, effAddr f.dsp p.d (e / 8 : Nat), 1, .store⟩ else none
  | _ => some ⟨f.dsp, effAddr f.dsp p.d (z * e : Nat), z, .store⟩

/-! ### Forming a chunk (R277, R384) -/

/-- What the formation of one element answers. -/
inductive FormRes where
  | ok (pins : List TlbEntry) (idx : Nat)
  | full
  | fault (code : BitVec 8) (tval : DWord)
  deriving DecidableEq, Repr

/-- The alignment and the form of an operand. -/
def xForm (s : State) (n : Nat) (x : XArg) : Option (BitVec 8 × DWord) :=
  if x.ea.toNat % x.n ≠ 0 then some (0x02, x.ea) else (formFault s n x.sp x.ea).map fun v => (0x08, v)

/-- Translates the operands of an element: for each its leaf or its fault, and the pages that are not pinned yet (R384). -/
def pinLook (w : Who) : List XArg → State → List TlbEntry → State × List TlbEntry × List (XArg × Xl)
  | [], s, _ => (s, [], [])
  | x :: xs, s, pins =>
    if x.sp ≠ 0 then pinLook w xs s pins
    else
      let asid := (s.coreN w.core).asid
      let va := (x.ea.extractLsb' 0 56).toNat
      let (s, r) := xlate s w.core pins va
      let new : List TlbEntry := match r with
        | .ok e b z => if pins.any fun t => t.covers asid va then [] else [⟨asid, b, z, e⟩]
        | _ => []
      let (s, l, rs) := pinLook w xs s (pins ++ new)
      (s, new ++ l, (x, r) :: rs)

/-- The fault of a translated operand (R378, R379); poison has its entry in the ring (R389). The access that faults hits a
watchpoint on it here, since it goes no further (R443). -/
def pinFault (s : State) (w : Who) (x : XArg) (r : Xl) : Option (State × BitVec 8 × DWord) :=
  let hit := watchCheck s w (x.ea.extractLsb' 0 56).toNat x.n x.k.reads x.k.writes
  match r with
  | .fail => some (hit, x.k.pageFault, x.ea)
  | .bad => some (ringAppend hit w 0x07 true x.ea 0 0, 0x07, x.ea)
  | .refused => some (hit, 0x08, x.ea)
  | .ok e _ _ =>
    match permFault x.k e with
    | some 0x07 => some (ringAppend hit w 0x07 false x.ea 0 0, 0x07, x.ea)
    | some c => some (hit, c, x.ea)
    | none => none

/-- Pins the pages of an element's operands. All its pages are counted against the free slots before one of them can fault; a page
that cannot be translated counts as one (R384). -/
def pinArgs (w : Who) (limit : Nat) (xs : List XArg) (s : State) (pins : List TlbEntry) (idx : Nat) : State × FormRes :=
  let (s, new, rs) := pinLook w xs s pins
  let bad := rs.filter fun r => match r.2 with | .ok .. => false | _ => true
  if limit < pins.length + new.length + bad.length then (s, .full)
  else match rs.findSome? fun r => pinFault s w r.1 r.2 with
  | some (s, c, v) => (s, .fault c v)
  | none => (s, .ok (pins ++ new) idx)

/-- One element of the formation: checks, then its pages; an index entry is read through its pin. -/
def formElem (s : State) (n : Nat) (fl : Flight) (op : XOp) (f : CopyF) (limit e : Nat) (pins : List TlbEntry) : State × FormRes :=
  let w := cpWho n fl e
  let rest (s : State) (pins : List TlbEntry) (raw : Nat) : State × FormRes :=
    let idx := toS 32 raw
    let args := (xSrc op f fl.p e idx).toList ++ (xDst op f fl.p e idx).toList
    match args.findSome? (xForm s n) with
    | some (c, v) => (s, .fault c v)
    | none => pinArgs w limit args s pins raw
  if op.indexed then
    let x := xIndexArg op f fl.p e
    match xForm s n x with
    | some (c, v) => (s, .fault c v)
    | none =>
      match pinArgs w limit [x] s pins 0 with
      | (s, .ok pins _) =>
        match loadAt s w pins x.sp x.ea 4 .load with
        | (s, .val v none) => rest s pins v
        | (s, .val _ (some _)) => (s, .fault 0x05 x.ea)
        | (s, .fault c v) => (s, .fault c v)
        | (s, _) => (holdAt s n 4 x.ea, .full)
      | r => r
  else rest s pins 0

/-- Elements from `e` on, at most `fuel`: where the chunk ends, its pins, its indices, and a fault found at its end. -/
def formLoop (n : Nat) (fl : Flight) (op : XOp) (f : CopyF) (limit : Nat) :
    Nat → State → Nat → List TlbEntry → List (Nat × Nat) →
    State × Nat × List TlbEntry × List (Nat × Nat) × Option (BitVec 8 × DWord)
  | 0, s, e, pins, ix => (s, e, pins, ix, none)
  | k + 1, s, e, pins, ix =>
    match formElem s n fl op f limit e pins with
    | (s, .ok pins i) => formLoop n fl op f limit k s (e + 1) pins (if op.indexed then ix ++ [(e, i)] else ix)
    | (s, .full) => (s, e, pins, ix, none)
    | (s, .fault c v) => (s, e, pins, ix, some (c, v))

/-- The pin slots left to the copy engine (R383). -/
def pinsLeft (c : Core) : Nat := 32 - (c.cpy.flight.foldl (fun k f => k + f.pins.length) 0)
/-- The route of an enqueue: whether it names this module, and whether a peer can be reached (R275, R460). -/
def enqLocal (s : State) (d : DWord) : Bool := d.extractLsb' 16 8 == 0xFF || d.extractLsb' 16 8 == s.modNum.setWidth 8
def enqRoute (s : State) (d : DWord) : Bool :=
  enqLocal s d || (decide ((d.extractLsb' 16 8).toNat < 64) && !(peerPorts s (d.extractLsb' 16 8).toNat).isEmpty)

/-- Forms a chunk of an instruction in flight; a fault noted at the end of the chunk before is taken first (R384). A chunk holds at
most 4,096 elements of at most 8 bytes, so an operand's bytes stay within 65,536. -/
def formAny (s : State) (n : Nat) (fl : Flight) (op : XOp) (f : CopyF) : State :=
  if op = .enq ∧ enqRoute s fl.p.d = false then cpFault s n fl fl.k 0x08 fl.p.d
  else match fl.noted with
  | some (c, v) => cpFault s n fl fl.k c v
  | none =>
    let limit := pinsLeft (s.coreN n)
    match formLoop n fl op f limit (min 4096 (xTotal op fl.p.b - fl.k)) (unhold s n 4) fl.k [] [] with
    | (s, e, pins, ix, flt) =>
      if fl.k < e then flPut s n { fl with chunk := e, pins := pins, noted := flt, asked := none, p := { fl.p with partB := ix } }
      else match flt with
        | some (c, v) => cpFault s n fl fl.k c v
        | none => s

/-! #### The order of device accesses (R129) -/

/-- Whether an operand lies on a device page: by a cached leaf, or by the tables. -/
def argDev (s : State) (n : Nat) (x : XArg) : Bool :=
  let c := s.coreN n
  let va := (x.ea.extractLsb' 0 56).toNat
  x.sp == 0 && (match c.tlb.find? fun t => t.covers c.asid va with
    | some t => pteDev t.pte
    | none => match walk s (dieOf n) c.asid va with | .ok e _ _ => pteDev e | _ => false)
/-- Whether an instruction in flight may still make accesses to device pages: it holds the pin of one, or it has elements in no chunk
yet, whose pages only their formation finds. -/
def flMayDev (f : Flight) : Bool :=
  (f.pins.any fun t => pteDev t.pte) ||
  match xView f.p.instr with
  | some (op, _, _) => op != .pref && decide (f.chunk < xTotal op f.p.b)
  | none => false
/-- The instructions in flight issued before one. -/
def flBefore (c : Core) (f : Flight) : List Flight := c.cpy.flight.takeWhile fun g => flSlot g != flSlot f
/-- Whether a chunk as formed has device pages, its index-list entries' among them. -/
def chunkDev (s t : State) (n : Nat) (fl : Flight) (op : XOp) (f : CopyF) : Bool :=
  (match flGet (t.coreN n) (flSlot fl) with | some g => g.pins.any fun x => pteDev x.pte | none => false) ||
  (op.indexed && argDev s n (xIndexArg op f fl.p fl.k))

/-- An instruction in flight forms a chunk. Accesses to device pages go in program order (R129): a chunk that has any is not formed
while an instruction issued before it may still make some (log 77). -/
def formChunk (s : State) (n : Nat) (fl : Flight) (op : XOp) (f : CopyF) : State :=
  let t := formAny s n fl op f
  if (flBefore (s.coreN n) fl).any flMayDev && chunkDev s t n fl op f then s else t

/-! ### Running a chunk -/

/-- The result of the read or the write of one element. -/
inductive XRes where
  | ok (v : Nat)
  | fault (code : BitVec 8) (tval : DWord)
  | held (ea : DWord)
  deriving DecidableEq, Repr

def flIdx (fl : Flight) (e : Nat) : Int := toS 32 (smGet 0 fl.p.partB e)

/-- The charge for the tag of a granule, one request of its 32 bytes at the granule's first unit (R405, log 59). -/
def tagCharge (s : State) (n e : Nat) (l : Loc) (d : Dir) : Option State :=
  match l with
  | .phys pa _ => if e % 4 = 0 then charge s n pa 32 d else some s
  | _ => some s

/-! #### Packed gathers (R463) -/

/-- The peer and the offset that a source on a page mapped normal reaches, by the pins of its chunk. -/
def peerOf (s : State) (n : Nat) (fl : Flight) (x : XArg) : Option (Nat × Nat) :=
  let va := (x.ea.extractLsb' 0 56).toNat
  if x.sp ≠ 0 then none
  else match fl.pins.find? fun t => t.covers (s.coreN n).asid va with
  | some t =>
    if pteDev t.pte then none
    else match target (pteFrame t.pte + (va - t.base)) with
    | .peer m o => some (m, o)
    | _ => none
  | none => none
/-- Sends one packed request: 8 bytes of base and 4 for each of `k` elements, and a reply of their `z` bytes each, charged on the
mesh as one request and one reply (R405, R457, log 59). -/
def packCharge (s : State) (n m base k z : Nat) : Option State :=
  let d := ((peerPort s m base).map portDie).getD (dieOf n)
  (chargeDies s n (8 + 4 * k) [] ((route s (dieOf n) d).getD [])).bind fun s =>
    chargeDies s n (k * z) [] ((route s d (dieOf n)).getD [])
/-- After its chunk is formed, an `xgath` sends each peer one request for its elements there, by the port of the first (R461,
R463): the offsets that chose the ports; none while a byte budget holds one. -/
def askPeers (s : State) (n : Nat) (op : XOp) (f : CopyF) (fl : Flight) : Option (State × SMap Nat) :=
  let l := (nats fl.k (fl.chunk - fl.k)).filterMap fun e => (xSrc op f fl.p e (flIdx fl e)).bind (peerOf s n fl)
  (l.map (·.1)).dedup.foldl (fun r m => r.bind fun (s, a) =>
    let os := (l.filter fun x => x.1 == m).map (·.2)
    let base := os.headD 0
    (packCharge s n m base os.length (xSize op (fmtOf fl.p.b))).map fun s => (s, smPut a m base)) (some (s, []))
/-- Loads the source of an element. One that a packed request covers comes with its reply: it reaches the peer by that request's
port, is charged no more, and faults at its own index (R463). -/
def xLoad (s : State) (n : Nat) (fl : Flight) (w : Who) (x : XArg) : State × Acc :=
  match (peerOf s n fl x).bind fun mo => (smFind (fl.asked.getD []) mo.1).map fun b => (mo.1, b) with
  | none => loadAt s w fl.pins x.sp x.ea x.n .load
  | some (m, base) =>
    match resolve s w fl.pins x.sp x.ea x.n .load with
    | (s, .error (c, v)) => (s, .fault c v)
    | (s, .ok l) =>
      let up := match peerPort s m base with | some p => (route s (dieOf n) (portDie p)).isSome | none => false
      let ans := match l with | .phys pa _ => peerAns pa | _ => 2
      if !up || ans == 3 then (ringAppend s w 0x07 false x.ea 0 0, .fault 0x07 x.ea)
      else if ans = 0 then (s, .fault 0x08 x.ea)
      else (s, .val (locRead s l x.n) none)

/-- The read half of an element: its source, and the poison of an atomic target (R277, R392). `xtagrd` reads the tag of each
granule at its first unit; it checks none (R274). -/
def xRead (s : State) (n : Nat) (fl : Flight) (op : XOp) (f : CopyF) (e : Nat) : State × XRes :=
  let w := cpWho n fl e
  match op with
  | .fill => (s, .ok fl.p.a.toNat)
  | .tagrd =>
    match xSrc op f fl.p e 0 with
    | none => (s, .ok 0)
    | some x =>
      match resolve s w fl.pins 0 x.ea 8 .load with
      | (s, .error (c, v)) => (s, .fault c v)
      | (s, .ok l) =>
        match tagCharge s n e l .rd with
        | none => (s, .held x.ea)
        | some s =>
        if locPoison s n l then (ringAppend s w 0x07 false x.ea 0 0, .fault 0x07 x.ea)
        else match l with
          | .phys pa pte => if peerAns pa = 0 then (s, .fault 0x08 x.ea) else (s, .ok (if pteTg pte then (tagOf s pa).toNat else 0))
          | _ => (s, .ok 0)
  | _ =>
    match xSrc op f fl.p e (flIdx fl e) with
    | none => (s, .ok 0)
    | some x =>
      match xLoad s n fl w x with
      | (s, .val _ (some _)) => (s, .fault 0x05 x.ea)
      | (s, .fault c v) => (s, .fault c v)
      | (s, .held) => (s, .held x.ea)
      | (s, .done) => (s, .ok 0)
      | (s, .val v none) =>
        if op = .sadd ∨ op = .red then
          match xDst op f fl.p e (flIdx fl e) with
          | none => (s, .ok v)
          | some y =>
            match resolve s w fl.pins y.sp y.ea y.n .amo with
            | (s, .error (c, t)) => (s, .fault c t)
            | (s, .ok l) => if locPoison s n l then (ringAppend s w 0x07 false y.ea 0 0, .fault 0x07 y.ea) else (s, .ok v)
        else (s, .ok v)

/-- The add of `xsadd` and `xred` (R272). -/
def xAdd (fmt : BitVec 4) (old v : Nat) : Nat := if fmt = 0 then (fAdd f32 old v).1 else (old + v) % 2 ^ 32

/-- A sector that the instruction covers completely is written by one request, which clears its poison (R392): done at the last
element of the sector. -/
def sectorDone (s : State) (w : Who) (pins : List TlbEntry) (base ea : DWord) (sp : BitVec 2) (z : Nat) : State :=
  if (ea.toNat + z) % 32 = 0 ∧ base.toNat ≤ ea.toNat + z - 32 then
    match resolve s w pins sp (effAddr sp ea (z - 32 : Int)) 8 .store with
    | (s, .ok (.phys pa _)) => clearPoison s pa
    | (s, .ok (.spad k a)) => s.setClu k { s.clu k with spPoison := (s.clu k).spPoison.filter (· ≠ a / 32) }
    | (s, .ok (.tcm c a)) => s.updN c fun t => { t with tcmPoison := t.tcmPoison.filter fun x => decide (x / 4 ≠ a / 32) }
    | (s, .error _) => s
  else s

/-- The write half of an element. -/
def xWrite (s : State) (n : Nat) (fl : Flight) (op : XOp) (f : CopyF) (e v : Nat) : State × XRes :=
  let w := cpWho n fl e
  match xDst op f fl.p e (flIdx fl e) with
  | none => (s, .ok v)
  | some y =>
    match op with
    | .tag =>
      if e % 4 ≠ 0 then (s, .ok v)
      else match resolve s w fl.pins 0 y.ea 8 .tagSet with
        | (s, .ok (.phys pa pte)) =>
          match tagCharge s n e (.phys pa pte) .wr with
          | none => (s, .held y.ea)
          | some s =>
          if usable s (dieOf n) pa then ({ s with tags := smSet 0 s.tags (pa / 32) (fl.p.a.setWidth 4) }, .ok v)
          else (report s n 0x08 y.ea, .ok v)
        | (s, .error (c, t)) => (s, .fault c t)
        | (s, _) => (s, .ok v)
    | .bcast =>
      let s := ((List.range 24).filter fun r => fl.p.a1.getLsbD r).foldl (fun s r =>
        let ea : DWord := BitVec.ofNat 64 (r * 2 ^ 20 + y.ea.toNat)
        sectorDone (storeAt s w [] 3 ea 8 .store fun _ => v).1 w [] (BitVec.ofNat 64 (r * 2 ^ 20 + fl.p.d.toNat)) ea 3 8) s
      (s, .ok v)
    | _ =>
      let byte := (fl.p.partA.getLast?.map (·.1)).getD 0 * 16 + (fl.p.partA.head?.map (·.1)).getD 0
      let upd (old : Nat) : Nat := if op = .sadd ∨ op = .red then xAdd (fmtOf fl.p.b) old v else if op = .tagrd then byte else v
      let before := (s.coreN n).inflight.length
      match storeAt s w fl.pins y.sp y.ea y.n y.k upd with
      | (s, .fault c t) => (s, .fault c t)
      | (s, .held) => (s, .held y.ea)
      | (s, _) =>
        if op.indexed && op != .gath || op == .red || (s.coreN n).inflight.length != before then (s, .ok v)
        else (sectorDone s w fl.pins fl.p.d y.ea y.sp y.n, .ok v)

/-- The elements of fmt that one written element contributes (R161, R269). -/
def xValues (s : State) (op : XOp) (fl : Flight) (v : Nat) : List FVal :=
  let fmt := fmtOf fl.p.b
  let z := fmtBits fmt
  let one := (List.range (if op.elem then 1 else 64 / z)).map fun i => elemVal fmt 127 (v / 2 ^ (z * i) % 2 ^ z)
  if op = .bcast then ((List.range 24).filter fun r => fl.p.a1.getLsbD r).flatMap fun _ => one
  else if op = .enq then (if enqLocal s fl.p.d then one else [])
  else one
/-- An element counts as completed (R163); none while its contribution has to wait (R62, R164). -/
def xContrib (s : State) (n : Nat) (op : XOp) (f : CopyF) (fl : Flight) (v : Nat) : Option State :=
  if f.rb then contribute s n 2 (ridOf fl.p.b) (xValues s op fl v) else some s
/-- The write of an element with its contribution: both happen, or neither where either is held. -/
def xWriteC (s : State) (n : Nat) (fl : Flight) (op : XOp) (f : CopyF) (e v : Nat) : State × XRes :=
  match xContrib s n op f fl v with
  | none => (s, .held (BitVec.ofNat 64 (ridOf fl.p.b).toNat))
  | some t =>
    match xWrite t n fl op f e v with
    | (t, .ok v) => (t, .ok v)
    | (_, .held ea) => (s, .held ea)
    | (_, .fault _ _) => xWrite s n fl op f e v

/-- Whether no element at or above a faulting one may have performed (R277): atomics, enqueues and device pages. `xtagrd`, whose
destination byte stands for 64 source bytes, is strict too: the spec allows it to have written above the fault, the model's
`xtagrd` writes nothing there (log 22). -/
def xStrict (op : XOp) (fl : Flight) : Bool := op == .sadd || op == .red || op == .enq || op == .tagrd || fl.pins.any fun t => pteDev t.pte

/-- Elements above a faulting one that may already have been written: a free subset of them (R277, log 5). -/
def xBeyond (n : Nat) (fl : Flight) (op : XOp) (f : CopyF) (s : State) (e : Nat) : State :=
  let take := s.pick 2 == 1
  let s := s.bumpFree
  if take then
    match xRead s n fl op f e with
    | (t, .ok v) => (xWrite t n fl op f e v).1
    | _ => s
  else s

/-- Reads the element at `k`, unless its value is there and only its write was held. -/
def xReadOnce (s : State) (n : Nat) (fl : Flight) (op : XOp) (f : CopyF) : State × XRes :=
  match fl.got with
  | some (e, v) => if e = fl.k then (s, .ok v) else xRead s n fl op f fl.k
  | none => xRead s n fl op f fl.k

/-- Elements in order, at most `fuel`. -/
def runLoop (n : Nat) (op : XOp) (f : CopyF) : Nat → State → Flight → State
  | 0, s, fl => flPut s n fl
  | k + 1, s, fl =>
    if fl.chunk ≤ fl.k || (op == .enq && fl.p.partA.length == 4) then flPut s n fl
    else match xReadOnce s n fl op f with
    | (s, .fault c v) =>
      let s := if xStrict op fl then s else (nats (fl.k + 1) (fl.chunk - fl.k - 1)).foldl (xBeyond n fl op f) s
      cpFault s n fl fl.k c v
    | (s, .held ea) => flPut (holdAt s n 4 ea) n fl
    | (s, .ok v) =>
      -- `xtagrd` keeps the tags of a byte's two granules, `xenq` the words of an entry
      let fl' := if op = .tagrd then
          (if fl.k % 8 = 0 then { fl with p := { fl.p with partA := [(v, 0)] } }
           else if fl.k % 4 = 0 then { fl with p := { fl.p with partA := fl.p.partA ++ [(v, 0)] } } else fl)
        else if op = .enq then { fl with p := { fl.p with partA := fl.p.partA ++ [(v, 0)] } } else fl
      match (if op = .enq then xWrite s n fl' op f fl.k v else xWriteC s n fl' op f fl.k v) with
      | (s, .fault c t) => cpFault s n { fl with got := some (fl.k, v) } fl.k c t
      | (s, .held ea) => flPut (holdAt s n 4 ea) n { fl with got := some (fl.k, v) }
      | (s, .ok _) =>
        if op = .enq ∧ fl'.p.partA.length = 4 then flPut s n fl'
        else runLoop n op f k s { fl' with k := fl.k + 1, got := none }

/-! #### Accesses of one instruction that meet each other: no order among them (R137, R148, R272) -/

/-- The storage an operand names, for comparison. -/
def xPlace (s : State) (n : Nat) (pins : List TlbEntry) (x : XArg) : Nat × Nat × Nat :=
  if x.sp = 0 then
    let va := (x.ea.extractLsb' 0 56).toNat
    match pins.find? fun t => t.covers (s.coreN n).asid va with
    | some t => (0, 0, pteFrame t.pte + (va - t.base))
    | none => (3, 0, va)
  else match localLoc s n x.sp x.ea with
    | .spad k a => (1, k, a)
    | .tcm c a => (2, c, a)
    | .phys pa _ => (0, 0, pa)

/-- The destinations of an element, every member's for `xbcast`. -/
def xDsts (op : XOp) (f : CopyF) (fl : Flight) (e : Nat) : List XArg :=
  match xDst op f fl.p e (flIdx fl e) with
  | none => []
  | some y =>
    if op = .bcast then ((List.range 24).filter fun r => fl.p.a1.getLsbD r).map fun r => ⟨3, BitVec.ofNat 64 (r * 2 ^ 20 + y.ea.toNat), 8, .store⟩
    else [y]

/-- Whether a read of the chunk meets a write of it, or two of its writes meet. -/
def xClash (s : State) (n : Nat) (op : XOp) (f : CopyF) (fl : Flight) : Bool :=
  if op = .tag ∨ op = .tagrd ∨ op = .fill ∨ op = .enq ∨ fl.pins.any (fun t => pteDev t.pte) = true then false
  else
    let es := nats fl.k (fl.chunk - fl.k)
    let ds := (es.map (xDsts op f fl)).flatten.map (xPlace s n fl.pins)
    let ss := (es.filterMap fun e => xSrc op f fl.p e (flIdx fl e)).map (xPlace s n fl.pins)
    ss.any (fun x => ds.contains x) || (op.indexed && !decide ds.Nodup)

/-- A chunk whose accesses meet: reads and writes in a free order, each write after its own read. Atomics are written in element
order, each with its contribution, and after every earlier read, so that nothing above a fault performs and no element twice
(R277). Answers the values written and the lowest fault. -/
def clashLoop (n : Nat) (op : XOp) (f : CopyF) (fl : Flight) :
    Nat → State → List Nat → List (Nat × Nat) → List (Nat × Nat) → Option (Nat × BitVec 8 × DWord) →
    State × List (Nat × Nat) × Option (Nat × BitVec 8 × DWord)
  | 0, s, _, _, done, flt => (s, done, flt)
  | k + 1, s, rs, ws, done, flt =>
    let m := if xStrict op fl then min 1 rs.length else rs.length
    let w := if xStrict op fl then min 1 ws.length else ws.length
    if m + w = 0 then (s, done, flt)
    else
      let j := s.pick (m + w)
      let s := s.bumpFree
      if j < m then
        let e := rs.getD j 0
        match xRead s n fl op f e with
        | (s, .ok v) => clashLoop n op f fl k s (rs.eraseIdx j) (ws ++ [(e, v)]) done flt
        | (s, .fault c v) => clashLoop n op f fl k s (rs.filter (· < e)) ws done (some (e, c, v))
        | (s, .held _) => (s, done, flt)
      else
        let (e, v) := ws.getD (j - m) (0, 0)
        match (if xStrict op fl then xWriteC s n fl op f e v else xWrite s n fl op f e v) with
        | (s, .ok _) => clashLoop n op f fl k s rs (ws.eraseIdx (j - m)) (smPut done e v) flt
        | (s, .fault c t) => (s, done, some (e, c, t))
        | (s, .held _) => (s, done, flt)

/-- Contributes the elements from `e` on that are done, as far as nothing holds them; where they end. -/
def contribDone (n : Nat) (op : XOp) (f : CopyF) (fl : Flight) (done : List (Nat × Nat)) : Nat → State → Nat → State × Nat
  | 0, s, e => (s, e)
  | k + 1, s, e =>
    if !smHas done e then (s, e)
    else if xStrict op fl then contribDone n op f fl done k s (e + 1)
    else match xContrib s n op f fl (smGet 0 done e) with
      | some s => contribDone n op f fl done k s (e + 1)
      | none => (s, e)

def runClash (s : State) (n : Nat) (op : XOp) (f : CopyF) (fl : Flight) : State :=
  let len := fl.chunk - fl.k
  match clashLoop n op f fl (2 * len) s (nats fl.k len) [] [] none with
  | (s, done, flt) =>
    let (s, k) := contribDone n op f fl done len s fl.k
    match flt with
    | some (e, c, v) => if k = e then cpFault s n { fl with k := k } k c v else flPut s n { fl with k := k }
    | none => flPut s n { fl with k := k }

/-! ### The engine's turn -/

/-- Closes a chunk whose elements are all done, and an instruction that has none left. -/
def flSettle (s : State) (n t : Nat) : State :=
  match flGet (s.coreN n) t with
  | none => s
  | some fl =>
    match xView fl.p.instr with
    | none => s
    | some (op, _, _) =>
      if fl.k < fl.chunk || fl.stopped then s
      else if op ≠ .pref ∧ fl.k < xTotal op fl.p.b then flPut s n { fl with pins := [], p := { fl.p with partB := [] } }
      else if op = .pref ∧ fl.k < cntOf fl.p.b then s
      else if fl.unacked = 0 then flDrop s n fl else flPut s n { fl with pins := [], sentAll := true }

/-- One page of an `xpref` (R276): a page that cannot be translated is skipped. -/
def prefPage (s : State) (n : Nat) (fl : Flight) : State :=
  let va := ((fl.p.a.extractLsb' 0 56).toNat + fl.k) % 2 ^ 56
  match xlate s n [] va with
  | (s, .ok _ b z) => flPut s n { fl with k := fl.k + (b + z - va), chunk := 0 }
  | (s, _) => flPut s n { fl with k := fl.k + (4096 - va % 4096), chunk := 0 }

/-- One turn of an instruction in flight: it forms a chunk, or moves up to 64 elements of it (the 512 B of R270). -/
def flWork (s : State) (n : Nat) (fl : Flight) : State :=
  match xView fl.p.instr with
  | none => s
  | some (op, _, f) =>
    let t := flSlot fl
    if op = .pref then flSettle (prefPage s n fl) n t
    else if fl.chunk ≤ fl.k then
      (if fl.k < xTotal op fl.p.b then formChunk s n { fl with pins := [] } op f else flSettle s n t)
    else match (if op = .gath ∧ fl.asked = none then askPeers s n op f fl else some (s, fl.asked.getD [])) with
    | none => holdAt s n 4 fl.p.a
    | some (s, l) =>
      let fl := { fl with asked := some l }
      if xClash s n op f fl then flSettle (runClash (unhold s n 4) n op f fl) n t
      else flSettle (runLoop n op f 64 (unhold s n 4) fl) n t

/-- Whether the copy engine may move elements. -/
def cpyAlive (c : Core) : Bool := engOk c && !c.cpy.stopped

/-- Issue of the instruction at the head of the copy queue (R270). -/
def cpyIssue (s : State) (n : Nat) (p : Posted) (h : Hal) (f : CopyF) : State :=
  s.updN n fun c =>
    let ws := ([f.c1, f.c2, f.c3].filter fun t => t != f.pt && tokPending c t.toNat).map (·.toNat)
    let c := tokStart c f.pt.toNat f.scope
    let c := c.updCpy fun k => { k with queue := k.queue.tail, flight := k.flight ++ [{ p := { p with started := true }, waits := ws }] }
    signal s.clock c 4 h

/-- Whether an instruction in flight is about to form a chunk, its tokens consumed. -/
def flForms (f : Flight) : Bool :=
  f.waits.isEmpty && !f.stopped && !f.sentAll && decide (f.chunk ≤ f.k) &&
  match xView f.p.instr with | some (op, _, _) => op != .pref && decide (f.k < xTotal op f.p.b) | none => false

/-- The instructions in flight that can do something now, among those issued after `before`: pins go in issue order (R383). -/
def flReadyFrom : List Flight → List Flight → List Flight
  | _, [] => []
  | before, f :: t =>
    let ok := f.waits.isEmpty && !f.stopped && !f.sentAll && decide (f.p.partA.length < 4) && !(flForms f && before.any flForms)
    (if ok then [f] else []) ++ flReadyFrom (before ++ [f]) t
def flReady (s : State) (n : Nat) : List Flight := flReadyFrom [] (s.coreN n).cpy.flight

/-- The turn of a core's copy engine: the head of its queue takes its waits and issues; else one instruction in flight works,
which one being a free choice (R270, log 5). -/
def cpyTurn (s : State) (n : Nat) : State :=
  let c := s.coreN n
  if !cpyAlive c then s
  else
    let work (s : State) : State :=
      let l := flReady s n
      match l[s.pick l.length]? with
      | some fl => flWork s.bumpFree n fl
      | none => s
    match c.cpy.queue with
    | [] => work s
    | p :: _ =>
      match xView p.instr with
      | none => s
      | some (_, h, f) =>
        if heldBack c 4 then work s
        else if !p.waited then
          (if waitsOk c 4 h then
            s.updN n fun c => (takeWaits c 4 h).updCpy fun k => { k with queue := { p with waited := true } :: k.queue.tail }
           else work s)
        else if tokPending c f.pt.toNat || decide (8 ≤ c.cpy.flight.length) then work s
        else cpyIssue s n p h f

/-- Event: an instruction in flight forms a chunk (R384). -/
def execChunkForm (core slot : Nat) (s : State) : Out :=
  .next <| match (flReady s core).find? fun f => flSlot f == slot with
  | some fl =>
    match xView fl.p.instr with
    | some (op, _, f) => if cpyAlive (s.coreN core) && flForms fl then watchAnswer (formChunk s core { fl with pins := [] } op f) core else s
    | none => s
  | none => s

/-! ### Tokens going idle (R55 to R57, R270) -/

/-- Whether a pending slot's producer has ended, with every report of a dropped store arrived (R132, R388). -/
def tokReady (c : Core) (t : Nat) : Bool :=
  tokPending c t && !(c.cpy.flight.any fun f => flSlot f == t) &&
  !(c.str.queue.any fun p => p.started && (produces p.instr).any fun x => x.toNat == t) && c.inflight.isEmpty

/-- The slot becomes idle, and those that sampled it see it. -/
def tokSettle (s : State) (n t : Nat) : State :=
  s.updN n fun c => (tokIdle s.clock c t).updCpy fun k =>
    { k with flight := k.flight.map fun f => { f with waits := f.waits.filter (· ≠ t) } }

/-- Event: a token slot becomes idle (R55, R57). -/
def execTokenIdle (core : Nat) (t : BitVec 5) (s : State) : Out :=
  event (tokReady (s.coreN core) t.toNat && !(s.coreN core).frozen) (fun s => tokSettle s core t.toNat) s

/-! ### Remote enqueues (R275, R464) -/

/-- The payload of a full entry. -/
def enqData (l : List (Nat × Nat)) : BitVec 256 := BitVec.ofNat 256 (((l.map (·.1)).zip [0, 1, 2, 3]).foldl (fun a p => a + p.1 * 2 ^ (64 * p.2)) 0)
def enqCore (d : DWord) : Nat := (d.extractLsb' 14 2).toNat * 48 + (d.extractLsb' 13 1).toNat * 24 + (d.extractLsb' 8 5).toNat

/-- An entry has left or is refused: the next unit follows. -/
def enqNext (s : State) (n : Nat) (fl : Flight) (acks : Nat) : State :=
  flSettle (flPut s n { fl with k := fl.k + 1, got := none, p := { fl.p with partA := [] }, unacked := fl.unacked + acks }) n (flSlot fl)

/-- The contributions of an entry that this module accepts, its words in order (R161). -/
def enqContrib (s : State) (n : Nat) (fl : Flight) (f : CopyF) : Option State :=
  if f.rb then contribute s n 2 (ridOf fl.p.b) (fl.p.partA.map fun v => xValues s .enq fl v.1).flatten else some s

/-- The die to which an entry goes: the target's, or that of a port of the peer's route (R460, R461). -/
def enqDie (s : State) (d : DWord) : Nat :=
  if enqLocal s d then dieOf (enqCore d) else portDie ((peerPorts s (d.extractLsb' 16 8).toNat).headD 0)
/-- An entry crosses the mesh: its 32 bytes are charged to the dies that send it (R405, R457); none where a budget holds it. -/
def enqCharge (s : State) (n : Nat) (d : DWord) : Option State := chargeDies s n 32 [] ((route s (dieOf n) (enqDie s d)).getD [])

/-- An instruction in flight of a core with a full entry for an inbox. -/
def enqWants (m b : Nat) (s : State) (n : Nat) : Bool :=
  let c := s.coreN n
  cpyAlive c && c.cpy.flight.any fun fl => !fl.stopped && fl.p.partA.length == 4 &&
    (match fl.p.instr with | .xenq .. => true | _ => false) && enqLocal s fl.p.d && enqCore fl.p.d == m &&
    (fl.p.d.extractLsb' 0 4).toNat == b
/-- Whether a request is the next that an inbox grants: round robin among the requesting cores (R464), this module's by their numbers
and then the peers', each peer module in one place (log 80). -/
def grantTurn (s : State) (n m b : Nat) : Bool :=
  let last := smGet 255 (s.coreN m).lastGrant b
  let key (x : Nat) : Nat := (x + 255 - last) % 256
  !((s.cores.map (·.1)).any fun x => decide (x < 192) && decide (key x < key n) && enqWants m b s x) &&
  !(s.mail.any fun e => !e.granted && e.dst == m && e.inbox == b && decide (key e.src < key n))
/-- A reservation at an inbox for a sender. -/
def enqGrant (s : State) (n m b : Nat) : State :=
  s.updN m fun c => { c with grants := smSet 0 c.grants b (smGet 0 c.grants b + 1), lastGrant := smPut c.lastGrant b n }
/-- Whether an inbox has a slot that no entry and no reservation holds. -/
def enqRoom (c : Core) (b : Nat) : Bool := decide ((smGet [] c.inbox b).length + smGet 0 c.grants b < 64)

/-- Whether the target of a peer's waiting request still takes it: a task of its ASID, whose gang's stop has not latched (R275). -/
def mailTakes (c : Core) (e : Mail) : Bool := c.hasTask && c.asid == e.asid && !c.latched
/-- Whether a peer's waiting request is granted now (R464). -/
def mailDue (s : State) (e : Mail) : Bool :=
  mailTakes (s.coreN e.dst) e && enqRoom (s.coreN e.dst) e.inbox && grantTurn s e.src e.dst e.inbox
def mailGrant (s : State) (e : Mail) : State :=
  enqGrant { s with mail := s.mail.replace e { e with granted := true } } e.src e.dst e.inbox
/-- Grants the peers' waiting requests whose turn it is; one whose target no longer takes it is refused (R275). -/
def mailTurn (s : State) : State :=
  (s.mail.filter fun e => !e.granted).foldl (fun s e =>
    if !mailTakes (s.coreN e.dst) e then { s with mail := s.mail.erase e } else if mailDue s e then mailGrant s e else s) s

/-- The target's answer to the reservation request of a full entry. It is refused where no task of the sender's ASID is resident
or its gang's stop has latched, or where no path leads to its die (R455); a peer module's answer is a free choice (log 5), and a
peer that no port leads to any more is a posted fault (R460). A release flushes before the entry leaves. -/
def enqRequest (s : State) (n : Nat) (fl : Flight) (f : CopyF) : State :=
  let d := fl.p.d
  let ack := f.scope != 0
  let refuse (s : State) : State := enqNext (if ack then report s n 0x08 d else s) n fl 0
  let leave (s : State) (k : State → State) : State :=
    match (if f.scope = 0 then (s, true) else releaseAt s n f.scope) with
    | (s, false) => s
    | (s, true) => match (enqContrib s n fl f).bind fun s => enqCharge s n d with
      | none => holdAt s n 4 d
      | some s => k (unhold s n 4)
  if !enqRoute s d then cpFault s n fl fl.k 0x08 d
  else if enqLocal s d then
    let m := enqCore d
    let b := (d.extractLsb' 0 4).toNat
    let c := s.coreN m
    if !c.hasTask || c.asid != (s.coreN n).asid || c.latched || (route s (dieOf n) (dieOf m)).isNone then refuse s
    else if enqRoom c b && grantTurn s n m b then
      leave s fun s =>
        let e : Mail := { src := n, dst := m, inbox := b, data := enqData fl.p.partA, asid := c.asid, ack := ack, slot := flSlot fl,
                          addr := d, granted := true, scope := f.scope }
        enqNext (enqGrant { s with mail := s.mail ++ [e] } n m b) n fl (if ack then 1 else 0)
    else s
  else if (route s (dieOf n) (enqDie s d)).isNone then refuse s
  else if s.pick 2 = 0 then leave s.bumpFree fun s => enqNext s n fl 0
  else refuse s.bumpFree

/-- Event: an inbox answers a reservation request (R275, R464). -/
def execInboxReservationGrant (core slot : Nat) (s : State) : Out :=
  .next <| match flGet (s.coreN core) slot with
  | some fl =>
    match xView fl.p.instr with
    | some (.enq, _, f) => if cpyAlive (s.coreN core) && fl.p.partA.length == 4 && !fl.stopped then enqRequest s core fl f else s
    | _ => s
  | none => s

/-- The acknowledgement of an entry reaches its sender. -/
def enqAck (s : State) (m : Mail) : State :=
  match flGet (s.coreN m.src) m.slot with
  | some fl => flSettle (flPut s m.src { fl with unacked := fl.unacked - 1 }) m.src m.slot
  | none => s

/-- A reply for a frozen core waits in the skid buffer of its cluster (R445): the core, and the kind of reply. -/
def skidPut (s : State) (n kind : Nat) : State :=
  let d := s.dbgOf (clusterOf n)
  s.setDbg (clusterOf n) { d with skid := d.skid ++ [(n, kind)] }

/-- An entry reaches its inbox. The acknowledgement for a frozen sender stays in the skid buffer until the thaw (R445). -/
def enqArrive (s : State) (m : Mail) : State :=
  let s := { s with mail := s.mail.erase m }
  let s := s.updN m.dst fun c =>
    arrive s.clock { c with inbox := smSet [] c.inbox m.inbox (smGet [] c.inbox m.inbox ++ [m.data]),
                            grants := smSet 0 c.grants m.inbox (smGet 0 c.grants m.inbox - 1) } m.inbox
  if !m.ack then s
  else if (s.coreN m.src).frozen then skidPut { s with mail := s.mail ++ [{ m with arrived := true }] } m.src 17
  else enqAck s m

/-- Event: the next granted entry arrives in an inbox (R464). -/
def execInboxEntryArrive (core : Nat) (inbox : BitVec 4) (s : State) : Out :=
  .next <| match s.mail.find? fun m => m.dst == core && m.inbox == inbox.toNat && m.granted && !m.arrived with
  | some m => if (s.coreN core).frozen then s else enqArrive s m
  | none => s

end Sys2Proof.Machine
end

