-- ==== Sys2Proof/Machine/Vector.lean ====
section
/-! DEFINITION. What every V-stream instruction shares: placement classes (R285), operand kinds (R292), element widths and
counts (R294, R101), the cells a member touches (R286), activity and write policies (R103, R104, R293), draws (R78), and the
run of one member of the convoy in flight. -/

namespace Sys2Proof.Machine

/-! ### Classes and kinds -/

/-- The placement classes of R285. -/
inductive VCls where
  | config | fence | control | memory | scalar | vector
  deriving DecidableEq, Repr

def vCls : Instr → VCls
  | .vsetvl .. | .vsetvli .. => .config
  | .vfence .. => .fence
  | .vbr .. | .vbrm .. | .vbrd .. | .vjoin .. | .vjal .. | .vret .. | .vhalt .. | .vtrap .. => .control
  | .vld .. | .vst .. | .vgath .. | .vscat .. | .vsaddI .. | .vsaddF .. | .vldq .. | .vstq .. => .memory
  | .eadd .. | .eaddi .. | .esub .. | .emul .. | .eli .. | .epop .. | .epush .. | .eget .. => .scalar
  | _ => .vector

/-- The vector instructions that are not element-wise (R289), the control, configuration and fence ones too. -/
def vElemwise (i : Instr) : Bool :=
  match i with
  | .vmpop .. | .vmfirst .. | .vbquant .. | .vpack .. | .vunpack .. | .vredAdd .. | .vredMax .. | .vredMin .. | .vredMaxn ..
  | .vredMinn .. | .vredAnd .. | .vredOr .. | .vredXor .. | .vscanAdd .. | .vscanMax .. | .vscanMin .. | .vscanMaxn ..
  | .vscanMinn .. | .vscanAnd .. | .vscanOr .. | .vscanXor .. | .vcompress .. | .vexpand .. | .vslideUp .. | .vslideDown ..
  | .vperm .. | .vbcst .. => false
  | _ => vCls i == .memory || vCls i == .scalar || vCls i == .vector

/-- Reductions. -/
def vIsRed : Instr → Bool
  | .vredAdd .. | .vredMax .. | .vredMin .. | .vredMaxn .. | .vredMinn .. | .vredAnd .. | .vredOr .. | .vredXor .. => true
  | _ => false
/-- Scans. -/
def vIsScan : Instr → Bool
  | .vscanAdd .. | .vscanMax .. | .vscanMin .. | .vscanMaxn .. | .vscanMinn .. | .vscanAnd .. | .vscanOr .. | .vscanXor .. => true
  | _ => false
def vIsTrans : Instr → Bool
  | .vrcp .. | .vrsqrt .. | .vsqrt .. | .vexp2 .. | .vlog2 .. | .vsig .. | .vtanh .. | .vsilu .. => true
  | _ => false

/-- The letters of R292. -/
inductive Letter where
  | V | E | I | Q
  deriving DecidableEq, Repr
def letterOf : Spec → Option Letter
  | .view _ => some .V
  | .ereg _ => some .E
  | .port _ => some .Q
  | .imm _ => some .I
  | .absent => none

/-- The kinds allowed for D, A and B (R298 to R334). -/
def vKinds (i : Instr) : List Letter × List Letter × List Letter :=
  match i with
  | .vsetvl _ => ([.E], [.E], [.I])
  | .vsetvli .. => ([.E], [], [])
  | .vmpop _ | .vmfirst _ => ([.E], [.V], [])
  | .vcvt _ | .vcvtSat _ | .vbquant _ | .vdequant _ | .vpack _ | .vunpack _ => ([.V], [.V], [.I])
  | .vquant _ => ([.V], [.V], [.E])
  | .vscanAdd .. | .vscanMax .. | .vscanMin .. | .vscanMaxn _ | .vscanMinn _ | .vscanAnd _ | .vscanOr _ | .vscanXor _
  | .vcompress _ | .vexpand _ | .vbcst _ => ([.V], [.V], [])
  | .vslideUp _ | .vslideDown _ => ([.V], [.V], [.E, .I])
  | .vperm _ => ([.V], [.V], [.V])
  | .vid _ | .vrand _ => ([.V], [], [])
  | .vdrop _ => ([.V], [.E, .I], [])
  | .vstat _ => ([], [.V], [.E])
  | .vld .. | .vst .. => ([.V], [.E], [.E, .I])
  | .vgath .. | .vscat .. | .vsaddI .. | .vsaddF .. => ([.V], [.E], [.V])
  | .vldq _ | .vstq _ => ([.V], [.Q], [])
  | .vrel _ => ([.V, .E], [], [])
  | .vfence _ => ([], [], [.I])
  | .vtrap _ => ([], [], [.E, .I])
  | .eadd _ | .esub _ | .emul _ => ([.E], [.E], [.E])
  | .eaddi _ => ([.E], [.E], [.I])
  | .eli .. | .epop _ | .eget .. | .vbr .. => ([.E], [], [])
  | .epush _ => ([], [.E], [])
  | _ => if vIsRed i then ([.E, .V], [.V], [.E, .I, .V]) else ([.V], [.V, .E, .I], [.V, .E, .I])

/-- Whether an operand that is there has an allowed kind. -/
def kindOk (l : List Letter) (s : Spec) : Bool := match letterOf s with | some x => l.contains x | none => true
def vfKindsOk (i : Instr) (f : VF) : Bool :=
  let (d, a, b) := vKinds i
  kindOk d f.d && kindOk a f.a && kindOk b f.b

/-! ### Widths and element counts -/

/-- The pair of a `vcvt` code as format codes of R65 (R307). -/
def cvtPair (k : Nat) : BitVec 4 × BitVec 4 :=
  ([(2, 0), (1, 0), (4, 0), (3, 0), (4, 2), (3, 2), (4, 1), (3, 1), (0, 2), (0, 1), (0, 4), (0, 3), (2, 4), (2, 3), (1, 4), (1, 3),
    (2, 1), (1, 2), (0, 11), (0, 10), (0, 9), (0, 12), (2, 10), (2, 9), (11, 0), (10, 0), (9, 0), (12, 0), (9, 2), (9, 11),
    (11, 9), (11, 10)] : List (BitVec 4 × BitVec 4)).getD k (0, 0)

def immOf : Spec → BitVec 8
  | .imm v => v
  | _ => 0

/-- The element widths of D and A where they differ from the SEW in force (R307 to R311). -/
def vWidths (sew : Nat) (i : Instr) : Nat × Nat :=
  match i with
  | .vcvt f | .vcvtSat f => let p := cvtPair ((immOf f.b).toNat % 32); (fmtBits p.2, fmtBits p.1)
  | .vquant _ | .vbquant _ => (8, 32)
  | .vdequant _ => (32, 8)
  | .vpack _ => (8, sew)
  | .vunpack _ => (sew, 8)
  | _ => (sew, sew)

def vSew (c : Core) : Nat := sewBits c.vec.sew
def vGrp (c : Core) : Nat := c.vec.grp.toNat
/-- The number of elements of a group at a width. -/
def vMax (c : Core) (bits : Nat) (v : View) : Nat := vlmax (viewKind v) (vGrp c) bits

/-- A grid operand: its group, its width, the elements of it that element `k` stands for (`k / div`), and how many elements of
the instruction one of its elements holds. -/
structure Opnd where
  v : View
  bits : Nat
  div : Nat := 1
  deriving DecidableEq, Repr

/-- View `v` moved by `d` views. -/
def viewAdd (v : View) (d : Nat) : View :=
  match v with
  | .row i => .row (i + BitVec.ofNat 8 d)
  | .col i => .col (i + BitVec.ofNat 9 d)
  | .diag i => .diag (i + BitVec.ofNat 9 d)

def opndOf (s : Spec) (bits div : Nat) : List Opnd := match s with | .view v => [⟨v, bits, div⟩] | _ => []

/-- Whether D is read as a source and nothing is written to it: stores. -/
def vIsStore : Instr → Bool
  | .vst .. | .vscat .. | .vsaddI .. | .vsaddF .. | .vstq .. => true
  | _ => false

/-- The destination group of an instruction with one (R292). -/
def vDst (c : Core) (i : Instr) (f : VF) : Option Opnd :=
  if vIsStore i then none
  else match i with
    | .vrel _ => none
    | _ => match f.d with
      | .view v => some ⟨v, (vWidths (vSew c) i).1, match i with | .vpack _ => 2 | _ => 1⟩
      | _ => none

/-- The width at which the mask is read: that of the destination, else the SEW (R294). -/
def vMaskBits (c : Core) (i : Instr) (f : VF) : Nat := match vDst c i f with | some o => o.bits | none => vSew c

/-- The source groups, the mask among them; a scale group holds one element for 128 (R310). -/
def vSrcs (c : Core) (i : Instr) (f : VF) : List Opnd :=
  let (_, wa) := vWidths (vSew c) i
  let da := match i with | .vunpack _ => 2 | _ => 1
  opndOf f.a wa da ++ opndOf f.b (vSew c) 1 ++
  (if vIsStore i then opndOf f.d (vSew c) 1 else []) ++
  (match i, f.d with | .vfma .., .view v => [⟨v, vSew c, 1⟩] | _, _ => []) ++
  (match i, f.a with | .vdequant _, .view v => [⟨viewAdd v (2 ^ vGrp c), 8, 128⟩] | _, _ => []) ++
  (match f.mask with | some m => [⟨m.view, vMaskBits c i f, 1⟩] | none => [])

/-- The groups written beside the destination: the scales of `vbquant` (R309). -/
def vScaleDst (c : Core) (i : Instr) (f : VF) : Option Opnd :=
  match i, f.d with
  | .vbquant _, .view v => some ⟨viewAdd v (2 ^ vGrp c), 8, 128⟩
  | _, _ => none

/-- The groups whose capacity bounds the element count: every grid operand but the scale groups (R101, R294). The mask of `vpack`
and `vunpack` counts too, as R101 has it, though R311 names only the two sides (log 78). -/
def vBounds (c : Core) (i : Instr) (f : VF) : List Opnd :=
  (vDst c i f).toList ++ (vSrcs c i f).filter fun o => decide (o.div < 128)

/-- The element count of an instruction (R101, R294, R311). -/
def vCount (c : Core) (i : Instr) (f : VF) : Nat := (vBounds c i f).foldl (fun n o => min n (vMax c o.bits o.v * o.div)) c.vec.vl

/-! ### The convoy as its members see it -/

/-- The index of the member that runs, its own address, and the address of the next convoy. -/
def cvIndex (cv : Convoy) : Nat := cv.members.length - cv.todo.length
def cvAddr (cv : Convoy) : VAddr := cv.pc + BitVec.ofNat 56 (8 * cvIndex cv)

/-- Runs one member of the convoy in flight on the acting core: where it is the next member to run, its body acts. -/
def member (i : Instr) (body : State → Convoy → State × Convoy) (s : State) : Host.Outcome State Fault Refusal :=
  match s.core.vec.cv with
  | some cv =>
    if cv.todo.head? = some i then
      match body s cv with
      | (s, cv) => .next (s.upd fun c => c.updVec fun v => { v with cv := some { cv with todo := cv.todo.tail } })
    else .next s
  | none => .next s

/-- A member that acts on its core alone. -/
def coreMember (i : Instr) (body : Core → Convoy → Core × Convoy) (s : State) : Host.Outcome State Fault Refusal :=
  member i (fun s cv => match body s.core cv with | (c, cv) => (s.setCore c, cv)) s

/-- The elements of this run for a member of `n` elements. -/
def runElems (cv : Convoy) (n : Nat) : List Nat := nats cv.lo (min cv.hi n - cv.lo)

def inFrag (c : Core) (k : Nat) : Bool := c.vec.frag.getLsbD k
/-- Whether the mask selects element `k` (R103). -/
def maskSel (c : Core) (i : Instr) (f : VF) (k : Nat) : Bool :=
  match f.mask with
  | some m => (elemGet c.grd m.view (vMaskBits c i f) k % 2 == 1) != m.inv
  | none => true
/-- Whether element `k` is active, `k` below the count (R293). -/
def isActive (c : Core) (i : Instr) (f : VF) (k : Nat) : Bool := inFrag c k && maskSel c i f k

/-- Element `k` of a source at a width; an e-register or an immediate gives every element its low bits (R292). -/
def srcElem (c : Core) (cv : Convoy) (bits : Nat) (s : Spec) (k : Nat) : Nat :=
  match s with
  | .view v => elemGet c.grd v bits k
  | .ereg n => (eregGet cv.e n).toNat % 2 ^ bits
  | .imm v => (v.signExtend 64).toNat % 2 ^ bits
  | _ => 0
/-- An operand that is an e-register or an unsigned immediate. -/
def scalarU (cv : Convoy) (s : Spec) : DWord :=
  match s with
  | .ereg n => eregGet cv.e n
  | .imm v => v.setWidth 64
  | _ => 0
/-- An operand that is an e-register or a signed immediate. -/
def scalarS (cv : Convoy) (s : Spec) : DWord :=
  match s with
  | .ereg n => eregGet cv.e n
  | .imm v => v.signExtend 64
  | _ => 0
def setE (cv : Convoy) (s : Spec) (v : DWord) : Convoy := match s with | .ereg n => { cv with e := eregSet cv.e n v } | _ => cv

/-- The draw of element `k` (R78), and the advance of a drawing member. -/
def drawOf (c : Core) (cv : Convoy) (k : Nat) : Nat := (rng c.vec.rngkey (cv.rngctr + BitVec.ofNat 64 k)).toNat
def drew (c : Core) (cv : Convoy) : Convoy := { cv with rngctr := cv.rngctr + BitVec.ofNat 64 c.vec.vl }

/-! ### Writing a destination group (R104, R293) -/

def ones (bits : Nat) : Nat := 2 ^ bits - 1

/-- What a position below the count receives: a new value, or none where it stays. -/
def policy (c : Core) (f : VF) (bits : Nat) (sel : Nat → Bool) (op : Nat → Option Nat) (k : Nat) : Option Nat :=
  if !inFrag c k then none
  else if sel k then op k
  else if f.maskAgn then some (ones bits) else none

def putElems (g : Grd) (v : View) (bits : Nat) (l : List (Nat × Nat)) : Grd := l.foldl (fun g p => elemSet g v bits p.1 p.2) g

/-- Whether a run that takes the elements from `lo` to `hi` − 1, and all that follow where `last`, writes a tail position. Positions
from n up to a `%vstart` that software has set above n stay unchanged under `.ta`: R121 does not say, and it is the model's choice
(log 78). -/
def tailIn (lo hi : Nat) (last : Bool) (k : Nat) : Bool := decide (lo ≤ k) && (last || decide (k < hi))
/-- Writes the values of a run, read before any is written (R102), and the part of the tail that lies in its element groups. -/
def writeRun (c : Core) (cv : Convoy) (f : VF) (v : View) (bits n : Nat) (val : Nat → Option Nat) : Core :=
  let l := (runElems cv n).filterMap fun k => (val k).map fun x => (k, x)
  let tail := if f.tailAgn then ((nats n (vMax c bits v - n)).filter (tailIn cv.lo cv.hi cv.last)).map fun k => (k, ones bits) else []
  c.updGrd fun g => putElems g v bits (l ++ tail)

/-- An instruction with one result for each active element and its flags. -/
def mapMember (i : Instr) (f : VF) (op : Core → Convoy → Nat → Nat × Flags) (c : Core) (cv : Convoy) : Core × Convoy :=
  match f.d with
  | .view v =>
    let bits := (vWidths (vSew c) i).1
    let n := vCount c i f
    let fl := (runElems cv n).foldl (fun a k => if isActive c i f k then a ||| (op c cv k).2 else a) 0
    (writeRun c cv f v bits n (policy c f bits (maskSel c i f) fun k => some (op c cv k).1), { cv with flags := cv.flags ||| fl })
  | _ => (c, cv)

/-- A bit vector with these bits set. -/
def setBits (l : List Nat) : BitVec 12288 := l.foldl (fun b k => b ||| (1#12288 <<< k)) 0

end Sys2Proof.Machine
end

