-- ==== Sys2Proof/Machine/VecArith.lean ====
section
/-! DEFINITION. Element-wise arithmetic, compare and mask instructions of the V-stream (R299 to R306), moves and draws (R314,
R318). -/

namespace Sys2Proof.Machine

/-- The float format of a type code at a width (R191). -/
def vFmt (t : BitVec 2) (bits : Nat) : FFmt := if t = 1 then bf16 else if bits = 32 then f32 else f16

/-- Two operands, or three with the old destination. -/
def vOp (i : Instr) (f : VF) (op : Nat → Nat → Nat → Nat → Nat × Flags) (s : State) : Host.Outcome State Fault Refusal :=
  coreMember i (mapMember i f fun c cv k =>
    let w := vSew c
    let d := match f.d with | .view v => elemGet c.grd v w k | _ => 0
    op w (srcElem c cv w f.a k) (srcElem c cv w f.b k) d) s

/-- `vadd` (R299). -/
def execVadd (t : BitVec 2) (f : VF) (s : State) : Host.Outcome State Fault Refusal :=
  vOp (.vadd t f) f (fun w a b _ => if t.toNat < 2 then fAdd (vFmt t w) a b else ((a + b) % 2 ^ w, 0)) s
/-- `vsub` (R299). -/
def execVsub (t : BitVec 2) (f : VF) (s : State) : Host.Outcome State Fault Refusal :=
  vOp (.vsub t f) f (fun w a b _ => if t.toNat < 2 then fSub (vFmt t w) a b else ((a + 2 ^ w - b) % 2 ^ w, 0)) s
/-- `vmul` (R299). -/
def execVmul (t : BitVec 2) (f : VF) (s : State) : Host.Outcome State Fault Refusal :=
  vOp (.vmul t f) f (fun w a b _ => if t.toNat < 2 then fMul (vFmt t w) a b else (a * b % 2 ^ w, 0)) s
/-- `vfma` (R299). -/
def execVfma (t : BitVec 2) (f : VF) (s : State) : Host.Outcome State Fault Refusal :=
  vOp (.vfma t f) f (fun w a b d => fFma (vFmt t w) a b d) s
/-- Minimum or maximum under a type (R299). -/
def vMinMax (t : BitVec 2) (mx : Bool) (w a b : Nat) : Nat :=
  if t.toNat < 2 then fMinMax (vFmt t w) mx a b
  else if t = 2 then (if mx then (if toS w a < toS w b then b else a) else (if toS w b < toS w a then b else a))
  else if mx then max a b else min a b
/-- `vmin` (R299). -/
def execVmin (t : BitVec 2) (f : VF) (s : State) : Host.Outcome State Fault Refusal :=
  vOp (.vmin t f) f (fun w a b _ => (vMinMax t false w a b, 0)) s
/-- `vmax` (R299). -/
def execVmax (t : BitVec 2) (f : VF) (s : State) : Host.Outcome State Fault Refusal :=
  vOp (.vmax t f) f (fun w a b _ => (vMinMax t true w a b, 0)) s

/-- A float with its sign replaced; a NaN gives the canonical NaN (R300). -/
def vSign (g : FFmt) (neg : Bool) (a : Nat) : Nat :=
  if fvIsNan (g.val a) then g.nanCode else a % 2 ^ (g.eb + g.mb) + g.signBit neg
/-- `vabs` (R300). -/
def execVabs (t : BitVec 2) (f : VF) (s : State) : Host.Outcome State Fault Refusal :=
  vOp (.vabs t f) f (fun w a _ _ => if t.toNat < 2 then (vSign (vFmt t w) false a, 0) else ((toS w a).natAbs % 2 ^ w, 0)) s
/-- `vneg` (R300). -/
def execVneg (t : BitVec 2) (f : VF) (s : State) : Host.Outcome State Fault Refusal :=
  vOp (.vneg t f) f (fun w a _ _ => if t.toNat < 2 then (vSign (vFmt t w) (!(vFmt t w).neg a) a, 0) else ((2 ^ w - a) % 2 ^ w, 0)) s

/-- A function of R301. -/
def vTrans (i : Instr) (fn : TFn) (t : BitVec 2) (f : VF) (s : State) : Host.Outcome State Fault Refusal :=
  vOp i f (fun w a _ _ => transc fn (vFmt t w) a) s
/-- `vrcp` (R301). -/
def execVrcp (t : BitVec 2) (f : VF) (s : State) : Host.Outcome State Fault Refusal := vTrans (.vrcp t f) .rcp t f s
/-- `vrsqrt` (R301). -/
def execVrsqrt (t : BitVec 2) (f : VF) (s : State) : Host.Outcome State Fault Refusal := vTrans (.vrsqrt t f) .rsqrt t f s
/-- `vsqrt` (R301). -/
def execVsqrt (t : BitVec 2) (f : VF) (s : State) : Host.Outcome State Fault Refusal := vTrans (.vsqrt t f) .sqrt t f s
/-- `vexp2` (R301). -/
def execVexp2 (t : BitVec 2) (f : VF) (s : State) : Host.Outcome State Fault Refusal := vTrans (.vexp2 t f) .exp2 t f s
/-- `vlog2` (R301). -/
def execVlog2 (t : BitVec 2) (f : VF) (s : State) : Host.Outcome State Fault Refusal := vTrans (.vlog2 t f) .log2 t f s
/-- `vsig` (R301). -/
def execVsig (t : BitVec 2) (f : VF) (s : State) : Host.Outcome State Fault Refusal := vTrans (.vsig t f) .sig t f s
/-- `vtanh` (R301). -/
def execVtanh (t : BitVec 2) (f : VF) (s : State) : Host.Outcome State Fault Refusal := vTrans (.vtanh t f) .tanh t f s
/-- `vsilu` (R301). -/
def execVsilu (t : BitVec 2) (f : VF) (s : State) : Host.Outcome State Fault Refusal := vTrans (.vsilu t f) .silu t f s

/-- `vsel` (R302): the mask selects between the sources, and every element in the fragment is written. -/
def execVsel (f : VF) (s : State) : Host.Outcome State Fault Refusal :=
  coreMember (.vsel f) (fun c cv =>
    match f.d with
    | .view v =>
      let w := vSew c
      (writeRun c cv f v w (vCount c (.vsel f) f) (policy c f w (fun _ => true) fun k =>
        some (srcElem c cv w (if maskSel c (.vsel f) f k then f.a else f.b) k)), cv)
    | _ => (c, cv)) s

/-- `vand` (R303). -/
def execVand (f : VF) (s : State) : Host.Outcome State Fault Refusal := vOp (.vand f) f (fun _ a b _ => (a &&& b, 0)) s
/-- `vor` (R303). -/
def execVor (f : VF) (s : State) : Host.Outcome State Fault Refusal := vOp (.vor f) f (fun _ a b _ => (a ||| b, 0)) s
/-- `vxor` (R303). -/
def execVxor (f : VF) (s : State) : Host.Outcome State Fault Refusal := vOp (.vxor f) f (fun _ a b _ => (a ^^^ b, 0)) s
/-- `vshl` (R303): widths are powers of two, so `b mod w` is b[log2 w − 1:0]. -/
def execVshl (f : VF) (s : State) : Host.Outcome State Fault Refusal := vOp (.vshl f) f (fun w a b _ => (a * 2 ^ (b % w) % 2 ^ w, 0)) s
/-- `vshr` (R303). -/
def execVshr (f : VF) (s : State) : Host.Outcome State Fault Refusal := vOp (.vshr f) f (fun w a b _ => (a / 2 ^ (b % w), 0)) s
/-- `vsra` (R303). -/
def execVsra (f : VF) (s : State) : Host.Outcome State Fault Refusal :=
  vOp (.vsra f) f (fun w a b _ => (ofS w (toS w a / (2 ^ (b % w) : Nat)), 0)) s

/-- A compare of R304: 0 eq, 1 lt, 2 le, 3 ne. -/
def vCmp (t : BitVec 2) (rel w a b : Nat) : Nat × Flags :=
  if t.toNat < 2 then let r := fCmp (vFmt t w) rel a b; (if r.1 then 1 else 0, r.2)
  else
    let x : Int := if t = 2 then toS w a else (a : Int)
    let y : Int := if t = 2 then toS w b else (b : Int)
    (if (match rel with | 0 => decide (x = y) | 1 => decide (x < y) | 2 => decide (x ≤ y) | _ => decide (x ≠ y)) then 1 else 0, 0)
/-- `vcmp.eq` (R304). -/
def execVcmpEq (t : BitVec 2) (f : VF) (s : State) : Host.Outcome State Fault Refusal := vOp (.vcmpEq t f) f (fun w a b _ => vCmp t 0 w a b) s
/-- `vcmp.lt` (R304). -/
def execVcmpLt (t : BitVec 2) (f : VF) (s : State) : Host.Outcome State Fault Refusal := vOp (.vcmpLt t f) f (fun w a b _ => vCmp t 1 w a b) s
/-- `vcmp.le` (R304). -/
def execVcmpLe (t : BitVec 2) (f : VF) (s : State) : Host.Outcome State Fault Refusal := vOp (.vcmpLe t f) f (fun w a b _ => vCmp t 2 w a b) s
/-- `vcmp.ne` (R304). -/
def execVcmpNe (t : BitVec 2) (f : VF) (s : State) : Host.Outcome State Fault Refusal := vOp (.vcmpNe t f) f (fun w a b _ => vCmp t 3 w a b) s

/-- The active elements of A whose bit 0 is set (R305). -/
def maskHits (i : Instr) (f : VF) (c : Core) (cv : Convoy) : List Nat :=
  (runElems cv (vCount c i f)).filter fun k => isActive c i f k && srcElem c cv (vSew c) f.a k % 2 == 1
/-- `vmpop` (R305). -/
def execVmpop (f : VF) (s : State) : Host.Outcome State Fault Refusal :=
  coreMember (.vmpop f) (fun c cv => (c, setE cv f.d (BitVec.ofNat 64 (maskHits (.vmpop f) f c cv).length))) s
/-- `vmfirst` (R305). -/
def execVmfirst (f : VF) (s : State) : Host.Outcome State Fault Refusal :=
  coreMember (.vmfirst f) (fun c cv => (c, setE cv f.d (match maskHits (.vmfirst f) f c cv with | k :: _ => BitVec.ofNat 64 k | [] => BitVec.allOnes 64))) s

/-- A mask combination on bit 0 (R306). -/
def vLog (i : Instr) (f : VF) (op : Bool → Bool → Bool) (s : State) : Host.Outcome State Fault Refusal :=
  vOp i f (fun _ a b _ => (if op (a % 2 == 1) (b % 2 == 1) then 1 else 0, 0)) s
/-- `vmlog.and` (R306). -/
def execVmlogAnd (f : VF) (s : State) : Host.Outcome State Fault Refusal := vLog (.vmlogAnd f) f (fun a b => a && b) s
/-- `vmlog.or` (R306). -/
def execVmlogOr (f : VF) (s : State) : Host.Outcome State Fault Refusal := vLog (.vmlogOr f) f (fun a b => a || b) s
/-- `vmlog.xor` (R306). -/
def execVmlogXor (f : VF) (s : State) : Host.Outcome State Fault Refusal := vLog (.vmlogXor f) f (fun a b => a != b) s
/-- `vmlog.andn` (R306). -/
def execVmlogAndn (f : VF) (s : State) : Host.Outcome State Fault Refusal := vLog (.vmlogAndn f) f (fun a b => a && !b) s

/-- `vmove` (R314). -/
def execVmove (f : VF) (s : State) : Host.Outcome State Fault Refusal := vOp (.vmove f) f (fun _ a _ _ => (a, 0)) s
/-- `vid` (R314). -/
def execVid (f : VF) (s : State) : Host.Outcome State Fault Refusal :=
  coreMember (.vid f) (mapMember (.vid f) f fun c _ k => (k % 2 ^ vSew c, 0)) s

/-- `vrand` (R318). -/
def execVrand (f : VF) (s : State) : Host.Outcome State Fault Refusal :=
  coreMember (.vrand f) (fun c cv =>
    match mapMember (.vrand f) f (fun c cv k => (drawOf c cv k % 2 ^ vSew c, 0)) c cv with
    | (c', cv') => (c', drew c cv')) s
/-- The probability of `vdrop` (R318). -/
def dropQ (cv : Convoy) (s : Spec) : Nat :=
  let p := match s with | .imm u => u.toNat * 256 | _ => (scalarU cv s).toNat % 65536
  if p = 0 then 65536 else p
/-- `vdrop` (R318). -/
def execVdrop (f : VF) (s : State) : Host.Outcome State Fault Refusal :=
  coreMember (.vdrop f) (fun c cv =>
    match mapMember (.vdrop f) f (fun c cv k => (if drawOf c cv k / 65536 < dropQ cv f.a then 1 else 0, 0)) c cv with
    | (c', cv') => (c', drew c cv')) s

end Sys2Proof.Machine
end

