-- ==== Sys2Proof/Machine/VecConv.lean ====
section
/-! DEFINITION. Conversion, quantisation and packing of the V-stream (R307 to R311, R170 to R172), and `vstat` (R319). -/

namespace Sys2Proof.Machine

/-! ### `vcvt` (R307) -/

/-- The float pairs that widen: exact, and no flag (R307), whatever the input (log 24). -/
def cvtWidens (src dst : BitVec 4) : Bool := decide (fmtBits src < fmtBits dst)

/-- One element of a conversion between two format codes; `sat` is sub 1. -/
def vConvert (src dst : BitVec 4) (sat : Bool) (mode draw a : Nat) : Nat × Flags :=
  let w := fmtBits dst
  match fmtFloat src, fmtFloat dst with
  | some g, some h => if cvtWidens src dst then ((fconv h false 0 0 (g.val a)).1, 0) else fconv h sat mode draw (g.val a)
  | some g, none => fToInt w (fmtSigned dst) mode draw (g.val a)
  | none, some h => fOfInt h mode draw (if fmtSigned src then toS (fmtBits src) a else (a : Int))
  | none, none =>
    let x := toS (fmtBits src) a
    (ofS w (if sat then satInt x (intLo w true) (intHi w true) else x), 0)

/-- The mode and the pair code of the control immediate. -/
def cvtMode (b : BitVec 8) : Nat := (b.extractLsb' 5 3).toNat
def vCvt (i : Instr) (sat : Bool) (f : VF) (s : State) : Host.Outcome State Fault Refusal :=
  coreMember i (fun c cv =>
    let b := immOf f.b
    let m := cvtMode b
    let p := cvtPair (b.toNat % 32)
    match mapMember i f (fun c cv k =>
      vConvert p.1 p.2 sat m (if m = 4 then drawOf c cv k else 0) (srcElem c cv (fmtBits p.1) f.a k)) c cv with
    | (c', cv') => (c', if m = 4 then drew c cv' else cv')) s
/-- `vcvt` (R307). -/
def execVcvt (f : VF) (s : State) : Host.Outcome State Fault Refusal := vCvt (.vcvt f) false f s
/-- `vcvt.sat` (R307). -/
def execVcvtSat (f : VF) (s : State) : Host.Outcome State Fault Refusal := vCvt (.vcvtSat f) true f s

/-! ### Quantisation -/

/-- x × 2^e. -/
def fvScale (v : FVal) (e : Int) : FVal := match v with | .fin n m x => .fin n m (x + e) | v => v

/-- One quantised element: its code, its flags, and whether it overflows (R172). -/
def quantElem (fmt : BitVec 4) (mode draw : Nat) (v : FVal) : Nat × Flags × Bool :=
  match fmtFloat fmt with
  | some g =>
    let r := fconv g true mode draw v
    (r.1, r.2, (match v with | .fin .. => r.2 &&& fOF != 0 | _ => false))
  | none =>
    let r := fToInt 8 true mode draw v
    (r.1, r.2, (match v with | .fin .. => r.2 &&& fNV != 0 | _ => false))

/-- A format that a record may name (R157). -/
def recFmtOk (f : BitVec 4) : Bool := f == 3 || f == 4 || f == 5 || f == 9
def quantRec (cv : Convoy) (s : Spec) : Nat := ((scalarU cv s).extractLsb' 0 20).toNat

/-- `vquant` (R170 to R172, R308). A record whose fmt is none of the four gives free codes and a free scale (log 5). -/
def execVquant (f : VF) (s : State) : Host.Outcome State Fault Refusal :=
  member (.vquant f) (fun s cv =>
    let c := s.core
    let ctl := scalarU cv f.b
    let smp := smGet [] cv.sample (quantRec cv f.b)
    let cfg := BitVec.ofNat 32 (recWord smp 5)
    let fmt := cfgFmt cfg
    let mode := (ctl.extractLsb' 21 3).toNat
    let ok := recFmtOk fmt
    let (S, clamp) := if ok then deriveScale smp else (Config.freeBits s.free % 255, false)
    let one (k : Nat) : Nat × Flags × Bool :=
      let v := fvScale (f32.val (srcElem c cv 32 f.a k)) (127 - (S : Int))
      if ok then quantElem fmt mode (if mode = 4 then drawOf c cv k else 0) v
      else (Config.freeBits (s.free + 1 + k) % 256, 0, false)
    match mapMember (.vquant f) f (fun _ _ k => let r := one k; (r.1, r.2.1)) c cv with
    | (c', cv') =>
      let n := vCount c (.vquant f) f
      let o := if cfg.getLsbD 24 then (runElems cv n).find? fun k => isActive c (.vquant f) f k && (one k).2.2 else none
      let cv' := { cv' with flags := cv'.flags ||| flagIf clamp fSC,
                            ovf := match cv'.ovf, o with | some x, some y => some (min x y) | none, y => y | x, none => x }
      let S8 : BitVec 8 := BitVec.ofNat 8 S
      let cv' := setE cv' f.b (ctl.extractLsb' 32 32 ++ S8 ++ ctl.extractLsb' 0 24)
      (s.setCore c', if mode = 4 then drew c cv' else cv')) s

/-- The larger magnitude of two finite values; none where one is not finite. -/
def maxMag (a : Option (Nat × Int)) (v : FVal) : Option (Nat × Int) :=
  match a, v with
  | some (m, e), .fin _ m' e' => if fvLt false (.fin false m e) (.fin false m' e') then some (m', e') else some (m, e)
  | _, _ => none

/-- The scale of a block from its active values, with its flags (R74, R309). -/
def blockScale (fmt : BitVec 4) (vs : List FVal) : Nat × Flags :=
  match vs.foldl maxMag (some (0, 0)) with
  | none => (255, fNV)
  | some (m, e) =>
    let x := fitExp fmt m e + 127
    let S := satInt x 0 254
    (S.toNat, flagIf (decide (S ≠ x)) fSC)

/-- `vbquant` (R309). -/
def execVbquant (f : VF) (s : State) : Host.Outcome State Fault Refusal :=
  coreMember (.vbquant f) (fun c cv =>
    match f.d with
    | .view v =>
      let i : Instr := .vbquant f
      let b := immOf f.b
      let fmt : BitVec 4 := b.extractLsb' 0 4
      let mode := (b.extractLsb' 4 3).toNat
      let n := vCount c i f
      let x (k : Nat) : FVal := f32.val (srcElem c cv 32 f.a k)
      let blk (j : Nat) : List Nat := nats (128 * j) (min 128 (n - 128 * j))
      let act (j : Nat) : List Nat := (blk j).filter fun k => isActive c i f k
      let scl (j : Nat) : Nat × Flags := blockScale fmt ((act j).map x)
      let nb := (n + 127) / 128
      let one (k : Nat) : Nat × Flags :=
        let S := (scl (k / 128)).1
        let d := if mode = 4 then drawOf c cv k else 0
        match fmtFloat fmt with
        | some g => if S = 255 then fconv g true mode d .nan else fconv g true mode d (fvScale (x k) (127 - (S : Int)))
        | none => (0, 0)
      let sv := (nats 0 nb).filterMap fun j =>
        if !(blk j).any (inFrag c) then none
        else if (act j).isEmpty then (if f.maskAgn then some (j, 255) else none) else some (j, (scl j).1)
      let sfl := (nats 0 nb).foldl (fun a j => if (act j).isEmpty then a else a ||| (scl j).2) 0
      let sw := viewAdd v (2 ^ vGrp c)
      let stail := if f.tailAgn then (nats nb (vMax c 8 sw - nb)).map fun k => (k, 255) else []
      match mapMember i f (fun _ _ k => one k) c cv with
      | (c', cv') =>
        let c' := c'.updGrd fun g => putElems g sw 8 (sv ++ stail)
        let cv' := { cv' with flags := cv'.flags ||| sfl }
        (c', if mode = 4 then drew c cv' else cv')
    | _ => (c, cv)) s

/-- `vdequant` (R310). -/
def execVdequant (f : VF) (s : State) : Host.Outcome State Fault Refusal :=
  coreMember (.vdequant f) (mapMember (.vdequant f) f fun c cv k =>
    let fmt : BitVec 4 := (immOf f.b).extractLsb' 0 4
    let S := match f.a with | .view v => elemGet c.grd (viewAdd v (2 ^ vGrp c)) 8 (k / 128) | _ => 0
    if S = 255 then fconv f32 false 0 0 .nan
    else match fmtFloat fmt with
      | some g => fconv f32 false 0 0 (fvScale (g.val (srcElem c cv 8 f.a k % 2 ^ g.width)) ((S : Int) - 127))
      | none => (0, 0)) s

/-! ### Packing (R311) -/

/-- One packed value from a source element. -/
def packVal (fmt : BitVec 4) (sew mode draw a : Nat) : Nat × Flags :=
  if fmt = 5 then (if sew = 8 then (a % 16, 0) else fconv e2m1 true mode draw ((vFmt 0 sew).val a))
  else (ofS 4 (satInt (toS sew a) (-8) 7), 0)

/-- `vpack` (R311): values go to nibbles; the byte of a value holds its neighbour's nibble unchanged. In mode STO it draws for
every format, the raw copy and I4 too, as any conversion in that mode does (R93, log 78). -/
def execVpack (f : VF) (s : State) : Host.Outcome State Fault Refusal :=
  coreMember (.vpack f) (fun c cv =>
    match f.d with
    | .view v =>
      let i : Instr := .vpack f
      let b := immOf f.b
      let fmt : BitVec 4 := b.extractLsb' 0 4
      let mode := (b.extractLsb' 4 3).toNat
      let w := vSew c
      let n := vCount c i f
      let sto := mode == 4
      let one (k : Nat) : Nat × Flags := packVal fmt w mode (if sto then drawOf c cv k else 0) (srcElem c cv w f.a k)
      let nib (k : Nat) : Option Nat :=
        if n ≤ k then (if f.tailAgn then some 15 else none)
        else policy c f 4 (maskSel c i f) (fun k => some (one k).1) k
      let fl := (nats 0 n).foldl (fun a k => if isActive c i f k then a ||| (one k).2 else a) 0
      let byte (j : Nat) : Nat × Nat :=
        let old := elemGet c.grd v 8 j
        (j, (nib (2 * j)).getD (old % 16) + 16 * (nib (2 * j + 1)).getD (old / 16))
      let nb := (n + 1) / 2
      let tail := if f.tailAgn then (nats nb (vMax c 8 v - nb)).map fun j => (j, 255) else []
      let wr := (nats 0 nb).filter fun j => (nib (2 * j)).isSome || (nib (2 * j + 1)).isSome
      let c' := c.updGrd fun g => putElems g v 8 (wr.map byte ++ tail)
      let cv' := { cv with flags := cv.flags ||| fl }
      (c', if sto then drew c cv' else cv')
    | _ => (c, cv)) s

/-- `vunpack` (R311). -/
def execVunpack (f : VF) (s : State) : Host.Outcome State Fault Refusal :=
  coreMember (.vunpack f) (mapMember (.vunpack f) f fun c cv k =>
    let fmt : BitVec 4 := (immOf f.b).extractLsb' 0 4
    let w := vSew c
    let x := srcElem c cv 8 f.a (k / 2) / 16 ^ (k % 2) % 16
    if fmt = 5 then ((fconv (if w = 32 then f32 else if w = 16 then f16 else e4m3) false 0 0 (e2m1.val x)).1, 0)
    else (ofS w (toS 4 x), 0)) s

/-! ### `vstat` (R319) -/

/-- Contributions held back until the convoy completes their elements (R163). -/
def addContrib (cv : Convoy) (id : BitVec 20) (fmt : BitVec 4) (l : List Nat) : Convoy :=
  { cv with contrib := cv.contrib ++ l.map fun x => (id, fmt, x) }
/-- `vstat` (R319). -/
def execVstat (f : VF) (s : State) : Host.Outcome State Fault Refusal :=
  coreMember (.vstat f) (fun c cv =>
    let i : Instr := .vstat f
    let ctl := scalarU cv f.b
    let l := ((runElems cv (vCount c i f)).filter (isActive c i f)).map (srcElem c cv (vSew c) f.a)
    (c, addContrib cv (ctl.setWidth 20) (ctl.extractLsb' 20 4) l)) s

end Sys2Proof.Machine
end

