-- ==== Sys2Proof/Machine/VecMove.lean ====
section
/-! DEFINITION. Reductions and scans (R90, R91, R312, R313) and movement between elements (R314 to R317). -/

namespace Sys2Proof.Machine

/-! ### Reductions -/

/-- The operations of R312. -/
inductive RedOp where
  | add | max | min | maxn | minn | and | or | xor
  deriving DecidableEq, Repr

/-- Combines two values; `g` is the group of the element type: 0 float, 1 brain float, 2 integer. -/
def redComb (op : RedOp) (g : BitVec 2) (w a b : Nat) : Nat × Flags :=
  match op with
  | .add => if g.toNat < 2 then fAdd (vFmt g w) a b else ((a + b) % 2 ^ w, 0)
  | .max => (vMinMax g true w a b, 0)
  | .min => (vMinMax g false w a b, 0)
  | .maxn => (Nat.max a b, 0)
  | .minn => (Nat.min a b, 0)
  | .and => (a &&& b, 0)
  | .or => (a ||| b, 0)
  | .xor => (a ^^^ b, 0)

/-- The identity of an operation (R312). -/
def redId (op : RedOp) (g : BitVec 2) (w : Nat) : Nat :=
  let fl := g.toNat < 2
  match op with
  | .add => 0
  | .max => if fl then (vFmt g w).signBit true + (vFmt g w).infCode else 2 ^ (w - 1)
  | .min => if fl then (vFmt g w).infCode else 2 ^ (w - 1) - 1
  | .maxn | .or | .xor => 0
  | .minn | .and => ones w

/-- The tree of R90 over values with the flags of their combines. -/
def redTree (op : RedOp) (g : BitVec 2) (w : Nat) (l : List (Option Nat)) : Option (Nat × Flags) :=
  treeReduce (fun a b => let r := redComb op g w a.1 b.1; (r.1, a.2 ||| b.2 ||| r.2)) (l.map fun x => x.map fun v => (v, 0))

/-- Whether an e-register result is sign-extended (R312). -/
def redSigned (op : RedOp) (g : BitVec 2) : Bool := g == 2 && (op == .add || op == .max || op == .min)

/-- The active elements of A, the others empty. -/
def redIn (i : Instr) (f : VF) (c : Core) (cv : Convoy) (n : Nat) : List (Option Nat) :=
  (nats 0 n).map fun k => if isActive c i f k then some (srcElem c cv (vSew c) f.a k) else none

/-- `vred` (R312). -/
def vRed (i : Instr) (op : RedOp) (g : BitVec 2) (f : VF) (s : State) : Host.Outcome State Fault Refusal :=
  coreMember i (fun c cv =>
    let w := vSew c
    let n := vCount c i f
    let t := redTree op g w (redIn i f c cv n)
    let r : Nat × Flags := match f.b with
      | .absent => t.getD (redId op g w, 0)
      | b =>
        let b0 := srcElem c cv w b 0
        match t with
        | some (v, fl) => let r := redComb op g w b0 v; (r.1, fl ||| r.2)
        | none => (b0, 0)
    let cv := { cv with flags := cv.flags ||| r.2 }
    match f.d with
    | .ereg _ => (c, setE cv f.d (if redSigned op g then BitVec.ofInt 64 (toS w r.1) else BitVec.ofNat 64 r.1))
    | .view v =>
      let tail := if f.tailAgn then (nats 1 (vMax c w v - 1)).map fun k => (k, ones w) else []
      (c.updGrd fun x => putElems x v w ((0, r.1) :: tail), cv)
    | _ => (c, cv)) s

/-- `vred.add` (R312). -/
def execVredAdd (g : BitVec 2) (f : VF) (s : State) : Host.Outcome State Fault Refusal := vRed (.vredAdd g f) .add g f s
/-- `vred.max` (R312). -/
def execVredMax (g : BitVec 2) (f : VF) (s : State) : Host.Outcome State Fault Refusal := vRed (.vredMax g f) .max g f s
/-- `vred.min` (R312). -/
def execVredMin (g : BitVec 2) (f : VF) (s : State) : Host.Outcome State Fault Refusal := vRed (.vredMin g f) .min g f s
/-- `vred.max.n` (R312). -/
def execVredMaxn (f : VF) (s : State) : Host.Outcome State Fault Refusal := vRed (.vredMaxn f) .maxn 3 f s
/-- `vred.min.n` (R312). -/
def execVredMinn (f : VF) (s : State) : Host.Outcome State Fault Refusal := vRed (.vredMinn f) .minn 3 f s
/-- `vred.and` (R312). -/
def execVredAnd (f : VF) (s : State) : Host.Outcome State Fault Refusal := vRed (.vredAnd f) .and 3 f s
/-- `vred.or` (R312). -/
def execVredOr (f : VF) (s : State) : Host.Outcome State Fault Refusal := vRed (.vredOr f) .or 3 f s
/-- `vred.xor` (R312). -/
def execVredXor (f : VF) (s : State) : Host.Outcome State Fault Refusal := vRed (.vredXor f) .xor 3 f s

/-! ### Scans -/

/-- `vscan` (R91, R313): output k is the reduction of positions 0 to k, with the tree for length k + 1. -/
def vScan (i : Instr) (op : RedOp) (g : BitVec 2) (f : VF) (s : State) : Host.Outcome State Fault Refusal :=
  coreMember i (fun c cv =>
    let w := vSew c
    let l := redIn i f c cv (vCount c i f)
    mapMember i f (fun _ _ k => (redTree op g w (l.take (k + 1))).getD (redId op g w, 0)) c cv) s

/-- `vscan.add` (R313). -/
def execVscanAdd (g : BitVec 2) (f : VF) (s : State) : Host.Outcome State Fault Refusal := vScan (.vscanAdd g f) .add g f s
/-- `vscan.max` (R313). -/
def execVscanMax (g : BitVec 2) (f : VF) (s : State) : Host.Outcome State Fault Refusal := vScan (.vscanMax g f) .max g f s
/-- `vscan.min` (R313). -/
def execVscanMin (g : BitVec 2) (f : VF) (s : State) : Host.Outcome State Fault Refusal := vScan (.vscanMin g f) .min g f s
/-- `vscan.max.n` (R313). -/
def execVscanMaxn (f : VF) (s : State) : Host.Outcome State Fault Refusal := vScan (.vscanMaxn f) .maxn 3 f s
/-- `vscan.min.n` (R313). -/
def execVscanMinn (f : VF) (s : State) : Host.Outcome State Fault Refusal := vScan (.vscanMinn f) .minn 3 f s
/-- `vscan.and` (R313). -/
def execVscanAnd (f : VF) (s : State) : Host.Outcome State Fault Refusal := vScan (.vscanAnd f) .and 3 f s
/-- `vscan.or` (R313). -/
def execVscanOr (f : VF) (s : State) : Host.Outcome State Fault Refusal := vScan (.vscanOr f) .or 3 f s
/-- `vscan.xor` (R313). -/
def execVscanXor (f : VF) (s : State) : Host.Outcome State Fault Refusal := vScan (.vscanXor f) .xor 3 f s

/-! ### Movement -/

/-- A member whose active element k receives a value, or stays where there is none. -/
def moveMember (i : Instr) (f : VF) (op : Core → Convoy → Nat → Nat → Nat → Option Nat) (s : State) : Host.Outcome State Fault Refusal :=
  coreMember i (fun c cv =>
    match f.d with
    | .view v =>
      let w := vSew c
      let n := vCount c i f
      (writeRun c cv f v w n (policy c f w (maskSel c i f) (op c cv w n)), cv)
    | _ => (c, cv)) s

/-- `vslide.up` (R315): below the offset an active element stays. -/
def execVslideUp (f : VF) (s : State) : Host.Outcome State Fault Refusal :=
  moveMember (.vslideUp f) f (fun c cv w _ k =>
    let off := (scalarU cv f.b).toNat
    if off ≤ k then some (srcElem c cv w f.a (k - off)) else none) s
/-- `vslide.down` (R315). -/
def execVslideDown (f : VF) (s : State) : Host.Outcome State Fault Refusal :=
  moveMember (.vslideDown f) f (fun c cv w n k =>
    let off := (scalarU cv f.b).toNat
    some (if k + off < n then srcElem c cv w f.a (k + off) else 0)) s
/-- `vperm` (R316). -/
def execVperm (f : VF) (s : State) : Host.Outcome State Fault Refusal :=
  moveMember (.vperm f) f (fun c cv w n k =>
    let j := srcElem c cv w f.b k
    some (if j < n then srcElem c cv w f.a j else 0)) s
/-- `vbcst` (R314). -/
def execVbcst (f : VF) (s : State) : Host.Outcome State Fault Refusal :=
  moveMember (.vbcst f) f (fun c cv w _ _ => some (srcElem c cv w f.a 0)) s

/-- `vcompress` (R317): the active elements of A, packed; the rest of D is tail. -/
def execVcompress (f : VF) (s : State) : Host.Outcome State Fault Refusal :=
  coreMember (.vcompress f) (fun c cv =>
    match f.d with
    | .view v =>
      let i : Instr := .vcompress f
      let w := vSew c
      let l := ((nats 0 (vCount c i f)).filter (isActive c i f)).map (srcElem c cv w f.a)
      let tail := if f.tailAgn then (nats l.length (vMax c w v - l.length)).map fun k => (k, ones w) else []
      (c.updGrd fun g => putElems g v w ((List.range l.length).zip l ++ tail), cv)
    | _ => (c, cv)) s
/-- `vexpand` (R317): the j-th active element receives A[j]. -/
def execVexpand (f : VF) (s : State) : Host.Outcome State Fault Refusal :=
  moveMember (.vexpand f) f (fun c cv w _ k =>
    some (srcElem c cv w f.a ((nats 0 k).filter (isActive c (.vexpand f) f)).length)) s

end Sys2Proof.Machine
end

