-- ==== Sys2Proof/Machine/VecMem.lean ====
section
/-! DEFINITION. Memory instructions of the V-stream (R320 to R326), the scatter counters (R149), and the accesses of one strip,
which have no order among them (R137, R138). -/

namespace Sys2Proof.Machine

/-- What a memory member does to its elements. -/
inductive VMem where
  | load | store | addI | addF
  deriving DecidableEq, Repr

def vWho (n : Nat) (cv : Convoy) (k : Nat) : Who := ⟨n, 1, cv.pc, cv.members.length, k⟩

/-! ### The strip (R138) -/

/-- A storage element as one number: kind, bank, address and size. -/
def placeKey (p : Nat × Nat × Nat) (bytes : Nat) : Nat := ((p.2.2 * 256 + p.2.1) * 4 + p.1) * 8 + bytes
/-- The value a load of this strip returns: where the strip has written the element, the value in memory, the one before the
strip or one of those written, a free choice (log 31). -/
def stripLoad (s : State) (n key v : Nat) : State × Nat :=
  match smFind (s.coreN n).vec.strip key with
  | some l => let l := v :: l.filter (· ≠ v); (s.bumpFree, l.getD (s.pick l.length) v)
  | none => (s, v)
/-- Whether a store of this strip replaces what an earlier store of it wrote: a free choice (log 31). -/
def stripKeep (s : State) (n key : Nat) : Bool := smHas (s.coreN n).vec.strip key && s.pick 2 == 0
def stripNote (s : State) (n key old v : Nat) : State :=
  let s := if smHas (s.coreN n).vec.strip key then s.bumpFree else s
  s.updN n fun c => c.updVec fun x =>
    { x with strip := smPut x.strip key (match smFind x.strip key with | some l => l ++ [v] | none => [old, v]) }
/-- A halyard wait that the V-stream takes orders what other engines have written before it, and what this strip has written where
an edge chain leads back to it (R58, R139, R144). The model does not follow which: from a wait on, every element of the strip is
read as memory has it, also where no chain orders its writes (the model's choice, log 31). -/
def stripOrder (s : State) (n : Nat) : State := s.updN n fun c => c.updVec fun x => { x with strip := [] }

/-! ### Forming a chunk (R384) and looking for faults before a run (R290, R325) -/

/-- The checks of one element that its chunk's formation makes: alignment, form, and its page (R325 orders 1 to 4). -/
inductive FormV where
  | ok (pins : List TlbEntry)
  | full
  | fault (f : EFault)
  deriving DecidableEq, Repr
def formElemV (s : State) (n : Nat) (cv : Convoy) (pins : List TlbEntry) (x : XArg) (k : Nat) : State × FormV :=
  match xForm s n x with
  | some (c, v) => (s, .fault { k := k, code := c, tval := v })
  | none =>
    let w := vWho n cv k
    let (s, new, rs) := pinLook w [x] s pins
    let bad := rs.filter fun r => match r.2 with | .ok .. => false | _ => true
    if 32 < pins.length + new.length + bad.length then (s, .full)
    else match rs.findSome? fun r => (pinFault s w r.1 r.2).map fun q => (q.2, r.2 == .bad) with
    | some ((c, v), walked) =>
      (s, .fault { k := k, code := c, tval := v, ring := if c = 0x07 then some (walked, v) else none,
                   watch := watchFind s w (x.ea.extractLsb' 0 56).toNat x.n x.k.reads x.k.writes })
    | none => (s, .ok (pins ++ new))

/-- Forms a chunk from the elements of a list: its pins, and where it ends short of them with the fault noted there. -/
def formLoopV (n : Nat) (cv : Convoy) (arg : Nat → XArg) : List Nat → State → List TlbEntry → State × List TlbEntry × Option (Nat × Option EFault)
  | [], s, pins => (s, pins, none)
  | k :: ks, s, pins =>
    match formElemV s n cv pins (arg k) k with
    | (s, .ok pins) => formLoopV n cv arg ks s pins
    | (s, .full) => (s, pins, some (k, none))
    | (s, .fault f) => (s, pins, some (k, some f))

/-- What the look at one element of a chunk answers. -/
inductive Look where
  | ok
  | fault (f : EFault)
  | held (ea : DWord)
  deriving DecidableEq, Repr

/-- The access of one element, on a copy of the state: R325 orders 5 and 6, and a byte budget. A tag mismatch of a `vsadd` element drops
the element as a store's does, with cause 0x06 reported later: R325 has tag rows for loads and for stores, R320 counts `vsadd` among the
direct stores, and R388 sends atomics to R225 (the model's choice, log 84). -/
def lookElem (s : State) (n : Nat) (cv : Convoy) (op : VMem) (x : XArg) (k : Nat) : State × Look :=
  let w := vWho n cv k
  let poison (v : DWord) : EFault := { k := k, code := 0x07, tval := v, ring := some (false, v) }
  match op with
  | .load =>
    match loadAt s w cv.pins x.sp x.ea x.n x.k with
    | (s, .val _ (some _)) => (s, .fault { k := k, code := 0x05, tval := x.ea, after := true })
    | (s, .fault c v) => (s, .fault (if c = 0x07 then poison v else { k := k, code := c, tval := v }))
    | (s, .held) => (s, .held x.ea)
    | (s, _) => (s, .ok)
  | .store =>
    match storeAt s w cv.pins x.sp x.ea x.n x.k id with
    | (s, .held) => (s, .held x.ea)
    | (s, .fault c v) => (s, .fault { k := k, code := c, tval := v })
    | (s, _) => (s, .ok)
  | _ =>
    match resolve s w cv.pins x.sp x.ea x.n .amo with
    | (s, .error (c, v)) => (s, .fault { k := k, code := c, tval := v })
    | (s, .ok l) =>
      if locPoison s n l then (s, .fault (poison x.ea))
      else match storeAt s w cv.pins x.sp x.ea x.n .amo id with
        | (s, .held) => (s, .held x.ea)
        | (s, _) => (s, .ok)

/-- Looks at the elements of a chunk in order: the first fault, the held element, and the elements past a stop that may have
performed (R326). Past an atomic that met poison, and past the boundary of a pre-emption, they are a free subset (log 45). -/
def lookLoop (n : Nat) (cv : Convoy) (op : VMem) (arg : Nat → XArg) :
    List Nat → State → Bool → Option EFault → List (Nat × DWord) →
    State × Option EFault × Option (Nat × Option DWord) × List (Nat × DWord)
  | [], s, _, flt, bey => (s, flt, none, bey)
  | k :: ks, s, past, flt, bey =>
    match lookElem s n cv op (arg k) k with
    | (s, .ok) =>
      if !past then lookLoop n cv op arg ks s false flt bey
      else lookLoop n cv op arg ks s.bumpFree true flt (if s.pick 2 = 1 then bey ++ [(k, (arg k).ea)] else bey)
    | (s, .fault e) =>
      if past then lookLoop n cv op arg ks s true flt bey
      else if op == .addI || op == .addF then lookLoop n cv op arg ks s true (some e) bey
      else (s, some e, none, bey)
    | (s, .held ea) => (s, flt, (if past then none else some (k / 32 * 32, some ea)), bey)

/-! ### Running elements -/

/-- Where a store takes effect: none where a tag mismatch, a failed path or a peer drops it (R132, R455, R462). -/
def storeLoc (s : State) (w : Who) (pins : List TlbEntry) (x : XArg) : Option Loc :=
  match (resolve s w pins x.sp x.ea x.n x.k).2 with
  | .ok (.phys pa pte) =>
    if usable s (dieOf w.core) pa && (peerAns pa == 2 || peerAns pa == 3) && (tagBad s pa pte x.ea).isNone then some (.phys pa pte)
    else none
  | .ok l => some l
  | .error _ => none
/-- Whether the page of an operand is a device page, through its pin. -/
def pinDev (s : State) (n : Nat) (pins : List TlbEntry) (x : XArg) : Bool :=
  x.sp == 0 && pins.any fun t => t.covers (s.coreN n).asid (x.ea.extractLsb' 0 56).toNat && pteDev t.pte

/-- One loaded element. On a device page nothing is chosen freely (R129). -/
def loadElem (s : State) (n : Nat) (cv : Convoy) (x : XArg) (k : Nat) : State × Nat :=
  match loadAt s (vWho n cv k) cv.pins x.sp x.ea x.n x.k with
  | (s, .val v _) => if pinDev s n cv.pins x then (s, v) else stripLoad s n (placeKey (xPlace s n cv.pins x) x.n) v
  | (s, _) => (s, 0)

/-- The format in which a direct store contributes (R320). -/
def strecFmt (op : VMem) (sew : Nat) : BitVec 4 :=
  match op with
  | .addI => 11
  | .addF => 0
  | _ => if sew = 32 then 0 else if sew = 16 then 1 else 4

/-- One stored or added element. A tag mismatch drops either, with cause 0x06 reported later; for an added one that is the model's
choice (log 84). An added element performs in program order and leaves no note in the strip: a later load of the strip returns what
the adds have made, though R138 would allow it the value before the strip, and adds that meet other accesses of the strip keep the
order of the convoys (the model's choice, log 31). -/
def storeElem (s : State) (n : Nat) (cv : Convoy) (op : VMem) (x : XArg) (k v : Nat) : State :=
  let w := vWho n cv k
  match op with
  | .addI | .addF =>
    let upd (old : Nat) : Nat := if op = .addF then (fAdd f32 old v).1 else (old + v) % 2 ^ 32
    let s := (storeAt s w cv.pins x.sp x.ea x.n .amo upd).1
    let lane := k / 32 % 12
    { (s.updN n fun c => c.updVec fun t => { t with scat := smSet 0 t.scat lane (smGet 0 t.scat lane + 1) }) with
      acks := s.acks ++ [⟨n, lane⟩] }
  | _ =>
    match storeLoc s w cv.pins x with
    | some l =>
      if pinDev s n cv.pins x then (storeAt s w cv.pins x.sp x.ea x.n x.k fun _ => v).1
      else
        let key := placeKey (xPlace s n cv.pins x) x.n
        let keep := stripKeep s n key
        stripNote (storeAt s w cv.pins x.sp x.ea x.n x.k fun o => if keep then o else v).1 n key (locRead s l x.n) v
    | none => (storeAt s w cv.pins x.sp x.ea x.n x.k fun _ => v).1

/-- A free order of a list (log 5). -/
def shuffle : Nat → State → List (Nat × Nat) → List (Nat × Nat) → State × List (Nat × Nat)
  | 0, s, l, acc => (s, acc ++ l)
  | k + 1, s, l, acc =>
    if l.length ≤ 1 then (s, acc ++ l)
    else
      let j := s.pick l.length
      shuffle k s.bumpFree (l.eraseIdx j) (acc ++ [l.getD j (0, 0)])

/-- The part of a memory member that moves nothing: it forms the chunk, or looks for the first fault and the held element. -/
def vMemLook (s : State) (cv : Convoy) (op : VMem) (x : Nat → XArg) (val : Nat → Nat) (todo : List Nat) : State × Convoy :=
  let n := s.cur
  if cv.form then
    match formLoopV n cv x todo s [] with
    | (s, pins, none) => (s, { cv with pins := pins, chunk := cv.hi, noted := none })
    | (s, pins, some (k, flt)) => (s, { cv with pins := pins, chunk := k, noted := flt })
  else
    match lookLoop n cv op x todo s cv.ahead none [] with
    | (s, flt, held, bey) => (s, { cv with fault := flt, stallAt := held, beyond := bey.map fun b => (b.1, val b.1, b.2) })

/-- A memory member (R321 to R326): a run that only looks leaves memory alone; a run that acts makes its accesses. Elements that
the completion mask names have performed: they only contribute. The same holds of elements below `mlo` of a whole convoy, whose
loads are served from what they gave. -/
def vMem (i : Instr) (f : VF) (op : VMem) (arg : State → Convoy → Nat → XArg) (s : State) : Host.Outcome State Fault Refusal :=
  member i (fun s cv =>
    let n := s.cur
    let c := s.core
    let cnt := vCount c i f
    let ks := (runElems cv cnt).filter (isActive c i f)
    let x := arg s cv
    let w := vSew c
    let todo := ks.filter fun k => !cv.cmask.getLsbD k
    if cv.probe then vMemLook s cv op x (fun k => match f.d with | .view v => elemGet c.grd v w k | _ => 0) todo
    else match f.d with
    | .view v =>
      let todo := todo.filter fun k => decide (cv.mlo ≤ k)
      if op = .load then
        match todo.foldl (fun (p : State × List (Nat × Nat)) k =>
            let r := loadElem p.1 n cv (x k) k; (r.1, smPut p.2 k r.2)) (s, cv.mbuf) with
        | (s, vals) =>
          if cv.mem then (s, { cv with mbuf := vals })
          else (s.upd fun c => writeRun c cv f v w cnt (policy c f w (maskSel c i f) fun k => smFind vals k), cv)
      else
        let l := todo.map fun k => (k, elemGet c.grd v w k)
        let (s, l) := if op = .addF ∧ ¬ (todo.map fun k => (x k).ea).Nodup then shuffle l.length s l [] else (s, l)
        let s := l.foldl (fun s p => storeElem s n cv op (x p.1) p.1 p.2) s
        let s := cv.beyond.foldl (fun s p => storeElem s n cv op { x p.1 with ea := p.2.2 } p.1 p.2.1) s
        let cv := if cv.mem || cv.part.isSome then
            { cv with mbuf := l.foldl (fun m p => smPut m p.1 (if pinDev s n cv.pins (x p.1) then 1 else 0)) cv.mbuf }
          else cv
        if cv.mem then (s, cv)
        else
        let vs := ks.map fun k => elemGet c.grd v w k
        let st := c.vec.strec
        (s, if st.getLsbD 20 then addContrib cv (st.setWidth 20) (strecFmt op w) vs else cv)
    | _ => (s, cv)) s

/-- The address of an element with a stride (R321). -/
def strideArg (sp : BitVec 2) (f : VF) (k : Kind) (s : State) (cv : Convoy) (e : Nat) : XArg :=
  let z := vSew s.core / 8
  let st : Int := match f.b with | .absent => z | b => (scalarS cv b).toInt
  ⟨sp, effAddr sp (scalarU cv f.a) (e * st), z, k⟩
/-- The address of an indexed element (R322). -/
def indexArg (sp : BitVec 2) (f : VF) (k : Kind) (s : State) (cv : Convoy) (e : Nat) : XArg :=
  let c := s.core
  let w := vSew c
  ⟨sp, effAddr sp (scalarU cv f.a) (toS w (srcElem c cv w f.b e) * (w / 8 : Nat)), w / 8, k⟩

/-- `vld` (R321). -/
def execVld (sp : BitVec 2) (f : VF) (s : State) : Host.Outcome State Fault Refusal := vMem (.vld sp f) f .load (strideArg sp f .load) s
/-- `vst` (R321). -/
def execVst (sp : BitVec 2) (f : VF) (s : State) : Host.Outcome State Fault Refusal := vMem (.vst sp f) f .store (strideArg sp f .store) s
/-- `vgath` (R322). -/
def execVgath (sp : BitVec 2) (f : VF) (s : State) : Host.Outcome State Fault Refusal := vMem (.vgath sp f) f .load (indexArg sp f .load) s
/-- `vscat` (R322). -/
def execVscat (sp : BitVec 2) (f : VF) (s : State) : Host.Outcome State Fault Refusal := vMem (.vscat sp f) f .store (indexArg sp f .store) s
/-- `vsadd.i` (R322). -/
def execVsaddI (sp : BitVec 2) (f : VF) (s : State) : Host.Outcome State Fault Refusal := vMem (.vsaddI sp f) f .addI (indexArg sp f .amo) s
/-- `vsadd.f` (R322). -/
def execVsaddF (sp : BitVec 2) (f : VF) (s : State) : Host.Outcome State Fault Refusal := vMem (.vsaddF sp f) f .addF (indexArg sp f .amo) s

/-! ### Stream ports (R323) -/

def portOf (s : Spec) : BitVec 4 := match s with | .port n => n | _ => 0
/-- The element at a port's walk position. -/
def portArg (f : VF) (k : Kind) (s : State) (cv : Convoy) (e : Nat) : XArg :=
  let r := strGet s.core (portOf f.a)
  let q0 := match cv.qpos with | some p => p.2 | none => 0
  ⟨r.sp, (r.addr ((q0 + (e - cv.v0)) % r.total)).1, fmtBytes r.fmt, k⟩
/-- The walk has gone past every element of the run. -/
def portAdvance (i : Instr) (f : VF) (s : State) : State :=
  match s.core.vec.cv with
  | some cv =>
    if cv.probe || cv.mem then s
    else s.upd fun c =>
      let r := strGet c (portOf f.a)
      let q0 := match cv.qpos with | some p => p.2 | none => 0
      strPut c (portOf f.a) { r with pos := (q0 + (min cv.hi (vCount c i f) - cv.v0)) % r.total }
  | none => s

/-- A port member whose run also moves the walk. -/
def vPort (i : Instr) (f : VF) (op : VMem) (k : Kind) (s : State) : Host.Outcome State Fault Refusal :=
  match s.core.vec.cv with
  | some cv =>
    if cv.todo.head? = some i then
      match vMem i f op (portArg f k) s with
      | .next s => .next (portAdvance i f s)
      | r => r
    else .next s
  | none => .next s
/-- `vldq` (R323). -/
def execVldq (f : VF) (s : State) : Host.Outcome State Fault Refusal := vPort (.vldq f) f .load .walkLoad s
/-- `vstq` (R323). -/
def execVstq (f : VF) (s : State) : Host.Outcome State Fault Refusal := vPort (.vstq f) f .store .walkStore s

/-- An acknowledgement reaches its lane cluster. -/
def ackLane (s : State) (core lane : Nat) : State :=
  s.updN core fun c => c.updVec fun t => { t with scat := smSet 0 t.scat lane (smGet 0 t.scat lane - 1) }
/-- Event: the atomic unit acknowledges a scatter element of a lane cluster (R149). -/
def execScatterAcknowledgement (core lane : Nat) (s : State) : Host.Outcome State Fault Refusal :=
  .next <| if s.acks.any fun a => a.core == core && a.lane == lane then
    let s := { s with acks := s.acks.erase ⟨core, lane⟩ }
    if (s.coreN core).frozen then skidPut s core lane else ackLane s core lane
  else s

end Sys2Proof.Machine
end

