-- ==== Sys2Proof/Machine/VecCtl.lean ====
section
/-! DEFINITION. Configuration, fence, control and scalar instructions of the V-stream, and `vrel` (R298, R327 to R334). Each
records in the convoy what its retirement commits (R287). -/

namespace Sys2Proof.Machine

/-! ### Configuration (R298) -/

/-- Grants a count under a configuration. -/
def setVl (i : Instr) (f : VF) (cfg : BitVec 6) (req : Core → Convoy → Nat) (s : State) : Out :=
  coreMember i (fun c cv =>
    let m := vlmax (cfg.extractLsb' 4 2).toNat (cfg.extractLsb' 2 2).toNat (sewBits (cfg.extractLsb' 0 2))
    let vl := min (req c cv) m
    (c, setE { cv with cfg := some (vl, cfg), strip := true } f.d (BitVec.ofNat 64 vl))) s
/-- `vsetvl` (R298). -/
def execVsetvl (f : VF) (s : State) : Out := setVl (.vsetvl f) f ((immOf f.b).setWidth 6) (fun _ cv => (scalarU cv f.a).toNat) s
/-- `vsetvli` (R298). -/
def execVsetvli (f : VF) (count : BitVec 14) (cfg : BitVec 6) (s : State) : Out :=
  setVl (.vsetvli f count cfg) f cfg (fun _ _ => count.toNat) s

/-! ### Scalars (R329) -/

/-- A scalar instruction that only writes its e-register. -/
def eOp (i : Instr) (f : VF) (v : Convoy → DWord) (s : State) : Out := coreMember i (fun c cv => (c, setE cv f.d (v cv))) s
/-- `eadd` (R329). -/
def execEadd (f : VF) (s : State) : Out := eOp (.eadd f) f (fun cv => scalarU cv f.a + scalarU cv f.b) s
/-- `eaddi` (R329). -/
def execEaddi (f : VF) (s : State) : Out := eOp (.eaddi f) f (fun cv => scalarU cv f.a + scalarS cv f.b) s
/-- `esub` (R329). -/
def execEsub (f : VF) (s : State) : Out := eOp (.esub f) f (fun cv => scalarU cv f.a - scalarU cv f.b) s
/-- `emul` (R329). -/
def execEmul (f : VF) (s : State) : Out := eOp (.emul f) f (fun cv => scalarU cv f.a * scalarU cv f.b) s
/-- `eli` (R329). -/
def execEli (f : VF) (imm : BitVec 22) (s : State) : Out := eOp (.eli f imm) f (fun _ => imm.signExtend 64) s
/-- `epop` (R329): the oldest entry of the C-to-V queue that no earlier member has read. -/
def execEpop (f : VF) (s : State) : Out :=
  coreMember (.epop f) (fun c cv => (c, setE { cv with pops := cv.pops + 1 } f.d (c.c2v.getD cv.pops 0))) s
/-- `epush` (R329). -/
def execEpush (f : VF) (s : State) : Out :=
  coreMember (.epush f) (fun c cv => (c, { cv with pushes := cv.pushes ++ [scalarU cv f.a] })) s
/-- `eget` (R329): the register as the convoy issued. -/
def execEget (f : VF) (num : BitVec 10) (s : State) : Out := eOp (.eget f num) f (fun cv => smGet 0 cv.egets num.toNat) s

/-! ### Control flow (R330 to R334) -/

/-- The target of a branch at the running member (R330). -/
def vTarget (cv : Convoy) (off : BitVec 22) : VAddr := cvAddr cv + off.signExtend 56 * 8
/-- The elements of the fragment below the count, split by the mask: those it selects, and the rest (R331). -/
def vSplit (c : Core) (i : Instr) (f : VF) : List Nat × List Nat :=
  ((nats 0 (vCount c i f)).filter (inFrag c)).partition (maskSel c i f)

/-- `vbr` (R330). -/
def execVbr (f : VF) (off : BitVec 22) (s : State) : Out :=
  coreMember (.vbr f off) (fun c cv => (c, if scalarU cv f.d ≠ 0 then { cv with target := some (vTarget cv off) } else cv)) s
/-- `vbrm` (R330). -/
def execVbrm (f : VF) (off : BitVec 22) (s : State) : Out :=
  coreMember (.vbrm f off) (fun c cv =>
    (c, if (vSplit c (.vbrm f off) f).1.isEmpty then cv else { cv with target := some (vTarget cv off) })) s
/-- `vbrd` (R331). -/
def execVbrd (f : VF) (off : BitVec 22) (s : State) : Out :=
  coreMember (.vbrd f off) (fun c cv =>
    let (t, u) := vSplit c (.vbrd f off) f
    if t.isEmpty then (c, cv)
    else if u.isEmpty then (c, { cv with target := some (vTarget cv off) })
    else if 8 ≤ c.vec.sett.length then (c, { cv with brdFull := true })
    else
      let tb := setBits t
      let e : SettE := { pc := cv.next, set := c.vec.frag &&& ~~~tb }
      (c, { cv with sett := some (e :: c.vec.sett, tb), target := some (vTarget cv off) })) s
/-- `vjoin` (R332). -/
def execVjoin (f : VF) (s : State) : Out :=
  coreMember (.vjoin f) (fun c cv =>
    match c.vec.sett with
    | [] => (c, cv)
    | e :: t =>
      if e.running then (c, { cv with sett := some (t, e.set ||| e.joined) })
      else (c, { cv with sett := some ({ e with joined := c.vec.frag, running := true } :: t, e.set), target := some e.pc })) s
/-- The vector-state word of a call (R333). -/
def stateWord (v : Vec) : BitVec 32 :=
  (0 : BitVec 8) ++ BitVec.ofNat 4 v.sett.length ++ v.kind ++ v.grp ++ v.sew ++ BitVec.ofNat 14 v.vl
/-- `vjal` (R333). -/
def execVjal (f : VF) (off : BitVec 22) (s : State) : Out :=
  coreMember (.vjal f off) (fun c cv =>
    (c, { cv with ret := some ((cv.next, stateWord c.vec) :: c.vec.ret), target := some (vTarget cv off) })) s
/-- `vret` (R333). -/
def execVret (f : VF) (s : State) : Out :=
  coreMember (.vret f) (fun c cv =>
    match c.vec.ret with
    | [] => (c, cv)
    | (p, w) :: t =>
      (c, { cv with
        ret := some t, target := some p, strip := true,
        cfg := some ((w.extractLsb' 0 14).toNat, w.extractLsb' 14 6) })) s
/-- `vhalt` (R334). -/
def execVhalt (f : VF) (s : State) : Out := coreMember (.vhalt f) (fun c cv => (c, { cv with halt := true })) s
/-- `vtrap` (R334). -/
def execVtrap (f : VF) (s : State) : Out := coreMember (.vtrap f) (fun c cv => (c, { cv with vtrap := some (scalarU cv f.b) })) s

/-! ### Release and fence (R327, R328) -/

/-- The rows a `vrel` names: the first and their number. -/
def relRows (c : Core) (cv : Convoy) (f : VF) : Nat × Nat :=
  match f.d with
  | .view v => (viewIndex v, 2 ^ vGrp c)
  | d => let x := scalarU cv d; ((x.extractLsb' 0 8).toNat, (x.extractLsb' 8 9).toNat + 1)
/-- `vrel` (R327). -/
def execVrel (f : VF) (s : State) : Out := coreMember (.vrel f) (fun c cv => (c, { cv with rels := cv.rels ++ [relRows c cv f] })) s
/-- `vfence` (R328). -/
def execVfence (f : VF) (s : State) : Out :=
  coreMember (.vfence f) (fun c cv => (c, { cv with fence := some ((immOf f.b).setWidth 3), strip := true })) s

end Sys2Proof.Machine
end

