-- ==== Sys2Proof/Machine/Convoy.lean ====
section
/-! DEFINITION. Convoys: issue with its checks (R283 to R297), runs of elements (R288, R290, R384), the stop inside a
restartable convoy (R290), retirement (R287), and profile samples (R452). -/

namespace Sys2Proof.Machine

/-- Acts with a core as the acting core. -/
def atCore (s : State) (n : Nat) (f : State → State) : State := { f { s with cur := n } with cur := s.cur }
def outState (s : State) : Out → State
  | .next t => t
  | _ => s

/-- Runs one member of the convoy in flight on the acting core. -/
def memberOut (i : Instr) (s : State) : Out :=
  match i with
  | .vsetvl f => execVsetvl f s
  | .vsetvli f count cfg => execVsetvli f count cfg s
  | .vadd t f => execVadd t f s
  | .vsub t f => execVsub t f s
  | .vmul t f => execVmul t f s
  | .vfma t f => execVfma t f s
  | .vmin t f => execVmin t f s
  | .vmax t f => execVmax t f s
  | .vabs t f => execVabs t f s
  | .vneg t f => execVneg t f s
  | .vrcp t f => execVrcp t f s
  | .vrsqrt t f => execVrsqrt t f s
  | .vsqrt t f => execVsqrt t f s
  | .vexp2 t f => execVexp2 t f s
  | .vlog2 t f => execVlog2 t f s
  | .vsig t f => execVsig t f s
  | .vtanh t f => execVtanh t f s
  | .vsilu t f => execVsilu t f s
  | .vsel f => execVsel f s
  | .vand f => execVand f s
  | .vor f => execVor f s
  | .vxor f => execVxor f s
  | .vshl f => execVshl f s
  | .vshr f => execVshr f s
  | .vsra f => execVsra f s
  | .vcmpEq t f => execVcmpEq t f s
  | .vcmpLt t f => execVcmpLt t f s
  | .vcmpLe t f => execVcmpLe t f s
  | .vcmpNe t f => execVcmpNe t f s
  | .vmpop f => execVmpop f s
  | .vmfirst f => execVmfirst f s
  | .vmlogAnd f => execVmlogAnd f s
  | .vmlogOr f => execVmlogOr f s
  | .vmlogXor f => execVmlogXor f s
  | .vmlogAndn f => execVmlogAndn f s
  | .vcvt f => execVcvt f s
  | .vcvtSat f => execVcvtSat f s
  | .vquant f => execVquant f s
  | .vbquant f => execVbquant f s
  | .vdequant f => execVdequant f s
  | .vpack f => execVpack f s
  | .vunpack f => execVunpack f s
  | .vredAdd g f => execVredAdd g f s
  | .vredMax g f => execVredMax g f s
  | .vredMin g f => execVredMin g f s
  | .vredMaxn f => execVredMaxn f s
  | .vredMinn f => execVredMinn f s
  | .vredAnd f => execVredAnd f s
  | .vredOr f => execVredOr f s
  | .vredXor f => execVredXor f s
  | .vscanAdd g f => execVscanAdd g f s
  | .vscanMax g f => execVscanMax g f s
  | .vscanMin g f => execVscanMin g f s
  | .vscanMaxn f => execVscanMaxn f s
  | .vscanMinn f => execVscanMinn f s
  | .vscanAnd f => execVscanAnd f s
  | .vscanOr f => execVscanOr f s
  | .vscanXor f => execVscanXor f s
  | .vcompress f => execVcompress f s
  | .vexpand f => execVexpand f s
  | .vslideUp f => execVslideUp f s
  | .vslideDown f => execVslideDown f s
  | .vperm f => execVperm f s
  | .vbcst f => execVbcst f s
  | .vid f => execVid f s
  | .vmove f => execVmove f s
  | .vrand f => execVrand f s
  | .vdrop f => execVdrop f s
  | .vstat f => execVstat f s
  | .vld sp f => execVld sp f s
  | .vst sp f => execVst sp f s
  | .vgath sp f => execVgath sp f s
  | .vscat sp f => execVscat sp f s
  | .vsaddI sp f => execVsaddI sp f s
  | .vsaddF sp f => execVsaddF sp f s
  | .vldq f => execVldq f s
  | .vstq f => execVstq f s
  | .vrel f => execVrel f s
  | .vfence f => execVfence f s
  | .vhalt f => execVhalt f s
  | .vtrap f => execVtrap f s
  | .eadd f => execEadd f s
  | .eaddi f => execEaddi f s
  | .esub f => execEsub f s
  | .emul f => execEmul f s
  | .eli f imm => execEli f imm s
  | .epop f => execEpop f s
  | .epush f => execEpush f s
  | .eget f num => execEget f num s
  | .vbr f off => execVbr f off s
  | .vbrm f off => execVbrm f off s
  | .vbrd f off => execVbrd f off s
  | .vjoin f => execVjoin f s
  | .vjal f off => execVjal f off s
  | .vret f => execVret f s
  | _ => .next s
def memberRun (s : State) (i : Instr) : State := outState s (memberOut i s)

/-! ### Operands of a member -/

/-- Whether two groups of `g` views have a cell in common (R295). -/
def shareCell (g : Nat) (a b : View) : Bool :=
  let near (i j m : Nat) : Bool := (nats 0 g).any fun x => (nats 0 g).any fun y => (i + x) % m == (j + y) % m
  let cross (col dia : Nat) : Bool := (nats 0 g).any fun x => (nats 0 g).any fun y => decide ((col + x + 768 - dia - y) % 384 < 256)
  match a, b with
  | .row i, .row j => near i.toNat j.toNat 256
  | .col i, .col j => near i.toNat j.toNat 384
  | .diag i, .diag j => near i.toNat j.toNat 384
  | .col j, .diag i => cross j.toNat i.toNat
  | .diag i, .col j => cross j.toNat i.toNat
  | _, _ => true

def mReads (c : Core) (i : Instr) : List Opnd := match i.vshape with | some (f, _) => vSrcs c i f | none => []
def mWrites (c : Core) (i : Instr) : List Opnd :=
  match i.vshape with | some (f, _) => (vDst c i f).toList ++ (vScaleDst c i f).toList | none => []
/-- The element count of a member; scalar and control members process none. -/
def mCount (c : Core) (i : Instr) : Nat :=
  match i.vshape with
  | some (f, _) => match vCls i with | .vector | .memory => vCount c i f | _ => 0
  | none => 0
def mTailAgn (i : Instr) : Bool := match i.vshape with | some (f, _) => f.tailAgn | none => false
def mNibble (i : Instr) : Hal := match i.vshape with | some (f, _) => f.h | none => 0
def mViews (i : Instr) : List View :=
  match i.vshape with
  | some (f, _) =>
    let v (x : Spec) : List View := match x with | .view v => [v] | _ => []
    v f.d ++ v f.a ++ v f.b ++ (match f.mask with | some m => [m.view] | none => [])
  | none => []
def isMem (i : Instr) : Bool := vCls i == .memory

/-- The rows that elements `lo` to `hi` − 1 of a member touch, and the tail with the last of them (R108, R286). -/
def mRows (c : Core) (i : Instr) (lo hi : Nat) (last : Bool) : List Nat :=
  match i.vshape with
  | none => []
  | some (f, _) =>
    let n := vCount c i f
    let ks := nats lo (min hi n - lo)
    let rd := (vSrcs c i f).map fun o => ks.map fun k => elemRow o.v o.bits (k / o.div)
    let wr (o : Opnd) (div : Nat) : List Nat :=
      let body := if vIsRed i then (if last then [elemRow o.v o.bits 0] else []) else ks.map fun k => elemRow o.v o.bits (k / div)
      let m := if vIsRed i then 1 else (n + div - 1) / div
      let tail := if f.tailAgn then ((nats m (vMax c o.bits o.v - m)).filter (tailIn lo hi last)).map (elemRow o.v o.bits) else []
      body ++ tail
    let dst := match vDst c i f with | some o => wr o o.div | none => []
    let scl := match vScaleDst c i f with | some o => wr o 128 | none => []
    rd.flatten ++ dst ++ scl

/-- A range that takes in every element of a convoy. -/
def allElems : Nat := 12288
/-- Whether some member touches a row that is not in state V. -/
def blocked (c : Core) (ms : List Instr) (lo hi : Nat) (last : Bool) : Bool :=
  !c.grd.rows.isEmpty && ms.any fun i => (mRows c i lo hi last).any fun r => rowGet c.grd r != .v
/-- The start of the first element group that has to wait (R108). -/
def firstStall (c : Core) (ms : List Instr) (hi : Nat) (last : Bool) : Nat → Nat → Option Nat
  | 0, _ => none
  | k + 1, lo =>
    let nx := min hi ((lo / 32 + 1) * 32)
    if blocked c ms lo nx (last && decide (hi ≤ nx)) then some lo
    else if hi ≤ nx then none else firstStall c ms hi last k nx

/-! ### Checks at issue (R297) -/

/-- A check that fails: cause and `%tval`. -/
abbrev VFail := Option (BitVec 8 × DWord)
/-- A member with its encoding. -/
abbrev Mem2 := Instr × DWord
def vfail (bad : Bool) (e : DWord) : VFail := if bad then some (0x01, e) else none
def everyM (ms : List Mem2) (bad : Instr → Bool) : VFail := ms.findSome? fun m => vfail (bad m.1) m.2

/-- What the fetch of a convoy answers: the encodings, a fault with its cause and address, or a byte budget holding it. -/
inductive CvFetch where
  | encs (l : List DWord)
  | fault (code : BitVec 8) (tval : DWord)
  | held (ea : DWord)
  deriving DecidableEq, Repr
/-- One word of a convoy whose `k`-th member is being fetched. A ring entry of its fetch has that number as its members field, since the
count of members is not known yet (the model's choice, log 51). -/
def fetchVWord (s : State) (n k : Nat) (va : VAddr) : State × Fetch :=
  let head := (s.coreN n).vec.pc
  fetchWord s ⟨n, 1, head, k, 0⟩ true head va
/-- Order 1: fetches the members up to the one that ends the convoy, four at most; `l` are those fetched. -/
def fetchConvoy (n : Nat) : Nat → State → VAddr → List DWord → State × CvFetch
  | 0, s, _, l => (s, .encs l)
  | k + 1, s, va, l =>
    match fetchVWord s n (l.length + 1) va with
    | (s, .fault c) => (s, .fault c (va.setWidth 64))
    | (s, .held) => (s, .held (va.setWidth 64))
    | (s, .word w0) =>
      match fetchVWord s n (l.length + 1) (va + 4) with
      | (s, .fault c) => (s, .fault c (va.setWidth 64))
      | (s, .held) => (s, .held (va.setWidth 64))
      | (s, .word w1) =>
        let l := l ++ [(w1 ++ w0 : DWord)]
        if w1.getLsbD 0 then (s, .encs l) else fetchConvoy n k s (va + 8) l

def decEnc (e : DWord) : Option Instr := decodeV (e.setWidth 32) (e.extractLsb' 32 32)
/-- The rounding modes and scopes of check 4 of R183. -/
def modeBad (i : Instr) : Bool :=
  match i with
  | .vcvt f | .vcvtSat f => match f.b with | .imm b => decide (4 < (b.extractLsb' 5 3).toNat) | _ => false
  | .vbquant f | .vpack f => match f.b with | .imm b => decide (4 < (b.extractLsb' 4 3).toNat) | _ => false
  | .vfence f => match f.b with | .imm b => decide (4 < b.toNat) | _ => false
  | _ => false
/-- Order 2: every member decodes, and the fourth ends the convoy (R181). -/
def order2 (encs : List DWord) : VFail :=
  (encs.findSome? fun e => match decEnc e with | some i => vfail (modeBad i) e | none => some (0x01, e)).or
    (if encs.length = 4 then encs.getLast?.bind fun e => vfail (!e.getLsbD 32) e else none)
/-- Order 3: view indices aligned to the grouping (R97). -/
def order3 (c : Core) (ms : List Mem2) : VFail :=
  ms.findSome? fun m => (mViews m.1).findSome? fun v => vfail (viewIndex v % 2 ^ vGrp c != 0) (BitVec.ofNat 64 (viewIndex v))

/-- The placement classes (R285). -/
def c285 (ms : List Mem2) : VFail :=
  (ms.zip (nats 0 ms.length)).findSome? fun p =>
    vfail (match vCls p.1.1 with
      | .config | .fence => ms.length != 1
      | .control => p.2 + 1 != ms.length
      | .memory => (ms.take p.2).any fun q => isMem q.1
      | _ => false) p.1.2

/-- Pairs of a member and a later one, or the same with `self`. -/
def pairsOf (self : Bool) : List Instr → List (Instr × Instr)
  | [] => []
  | i :: t => (if self then [(i, i)] else []) ++ t.map (fun j => (i, j)) ++ pairsOf self t

/-- Whether a group written meets one read at a different width. -/
def meets (c : Core) (a b : Opnd) : Bool := shareCell (2 ^ vGrp c) a.v b.v && a.bits != b.bits
/-- Restartable convoys (R289). -/
def isRestartable (c : Core) (ms : List Instr) : Bool :=
  ms.all vElemwise &&
  (let ks := (ms.map fun i => (mReads c i ++ mWrites c i).map fun o => viewKind o.v).flatten
   ks.all fun k => k == ks.headD 0) &&
  (pairsOf false ms).all fun p =>
    (mCount c p.1 == 0 && !mTailAgn p.1) || mCount c p.2 == 0 ||
      (mWrites c p.1).all fun a => (mReads c p.2).all fun b => !meets c a b
/-- Whether group `b`, written, takes wider elements than group `a` in the same cells, and so runs ahead of it. -/
def meetsWider (c : Core) (a b : Opnd) : Bool := shareCell (2 ^ vGrp c) a.v b.v && decide (a.bits * b.div < b.bits * a.div)
/-- Whether taking the element groups in turn would differ from taking the members in turn (R288): a later write of wider elements
than an earlier access. Such a convoy waits for all its rows (R108) and takes each member over every element; only a stop (R290)
cuts it, and then the members take the elements below the cut first, as that rule says (log 78). -/
def mustBeWhole (c : Core) (ms : List Instr) : Bool :=
  (pairsOf true ms).any fun p => (mWrites c p.2).any fun b =>
    (mReads c p.1).any (meetsWider c · b) || (p.1 != p.2 && (mWrites c p.1).any (meetsWider c · b))

/-- Restartability at issue (R289). -/
def c289 (c : Core) (ms : List Mem2) : VFail :=
  if isRestartable c (ms.map (·.1)) then none
  else (everyM ms isMem).or (ms.head?.bind fun m => vfail (c.vec.vstart != 0) m.2)

/-- The cost of a member in aclk (R291). A control member has no row in the table; the model gives it no cost (log 78). -/
def mCost (c : Core) (i : Instr) : Nat :=
  let n := mCount c i
  let w := (mReads c i ++ mWrites c i).foldl (fun a o => max a o.bits) 0
  let dense := (n * w + 12287) / 12288
  match i with
  | .vrel _ => 1
  | _ =>
    if vCls i = .scalar then 1
    else if vCls i ≠ .vector then 0
    else if vIsRed i || vIsScan i then dense + 16
    else if vIsTrans i then (n + 95) / 96
    else dense
/-- The cost limit of an indivisible convoy (R291). -/
def c291 (c : Core) (ms : List Mem2) : VFail :=
  if ms.foldl (fun a m => a + mCost c m.1) 0 ≤ 128 then none else everyM ms fun i => vIsRed i || vIsScan i
/-- Operand kinds (R292). -/
def c292 (ms : List Mem2) : VFail := everyM ms fun i => match i.vshape with | some (f, _) => !vfKindsOk i f | none => false
/-- A scale group beyond the last view (R309, R310). -/
def c294 (c : Core) (ms : List Mem2) : VFail :=
  let out (s : Spec) : Bool := match s with
    | .view v => decide ((if viewKind v = 0 then 256 else 384) ≤ viewIndex v + 2 ^ vGrp c)
    | _ => false
  everyM ms fun i => match i with | .vbquant f => out f.d | .vdequant f => out f.a | _ => false
/-- Forbidden overlaps (R295). -/
def c295 (c : Core) (ms : List Mem2) : VFail :=
  let g := 2 ^ vGrp c
  let hit (a b : Spec) : Bool := match a, b with | .view x, .view y => shareCell g x y | _, _ => false
  let msk (f : VF) : Spec := match f.mask with | some m => .view m.view | none => .absent
  everyM ms fun i => match i with
    | .vcvt f | .vcvtSat f => let p := cvtPair ((immOf f.b).toNat % 32); fmtBits p.1 != fmtBits p.2 && hit f.d f.a
    | .vquant f | .vdequant f | .vpack f | .vunpack f => hit f.d f.a
    | .vbquant f => hit f.d f.a || (match f.d with | .view v => hit (.view (viewAdd v g)) f.a | _ => false)
    | .vslideUp f | .vslideDown f | .vcompress f | .vexpand f => hit f.d f.a || hit f.d (msk f)
    | .vperm f => hit f.d f.a || hit f.d f.b
    | .vgath _ f => hit f.d f.b
    | _ => false
/-- The widths a type allows (R191, R304, R312), and `vsadd` (R322). -/
def c191 (c : Core) (ms : List Mem2) : VFail :=
  let w := vSew c
  let bad (t : BitVec 2) : Bool := if t = 0 then w == 8 else if t = 1 then w != 16 else false
  everyM ms fun i => match i with
    | .vadd t _ | .vsub t _ | .vmul t _ | .vfma t _ | .vmin t _ | .vmax t _ | .vabs t _ | .vneg t _ | .vrcp t _ | .vrsqrt t _
    | .vsqrt t _ | .vexp2 t _ | .vlog2 t _ | .vsig t _ | .vtanh t _ | .vsilu t _ | .vcmpEq t _ | .vcmpLt t _ | .vcmpLe t _
    | .vcmpNe t _ | .vredAdd t _ | .vredMax t _ | .vredMin t _ | .vscanAdd t _ | .vscanMax t _ | .vscanMin t _ => bad t
    | .vsaddI .. | .vsaddF .. => w != 32
    | _ => false
/-- Control codes that are immediates (R309 to R311): their zero bits are tested here, as codes of order 4, and their rounding
modes at order 2 (`modeBad`); R183 and R297 leave open which check the zero bits belong to (the model's choice, log 42). Then a `vrel` of a group that is not of rows (R327), and the state that
`vret` and `vhalt` ask for (R333, R334). -/
def cCodes (c : Core) (ms : List Mem2) : VFail :=
  let fmt (f : VF) : Nat := (immOf f.b).toNat % 16
  let hi (f : VF) : Nat := (immOf f.b).toNat / 16
  let bq (f : VF) : Bool := fmt f != 3 && fmt f != 4 && fmt f != 5
  let pk (f : VF) : Bool := fmt f != 5 && fmt f != 15
  everyM ms fun i => match i with
    | .vbquant f => decide (8 ≤ hi f) || bq f
    | .vdequant f => hi f != 0 || bq f
    | .vpack f => decide (8 ≤ hi f) || pk f
    | .vunpack f => hi f != 0 || pk f
    | .vrel f => match f.d with | .view (.row _) => false | .view _ => true | _ => false
    | .vret _ => match c.vec.ret with | (_, w) :: _ => (w.extractLsb' 20 4).toNat != c.vec.sett.length | [] => false
    | .vhalt _ => !c.vec.sett.isEmpty
    | _ => false
/-- The stream register of a port member, tested as the convoy issues (R323). -/
def cPorts (c : Core) (ms : List Mem2) : VFail :=
  let bad (a : Spec) (tgt : BitVec 2) : Bool :=
    let r := strGet c (portOf a)
    !r.active || r.target != tgt || fmtScaled r.fmt || fmtBits r.fmt != vSew c
  everyM ms fun i => match i with | .vldq f => bad f.a 1 | .vstq f => bad f.a 2 | _ => false
/-- The registers open to `eget` (R117). -/
def egetOk (k : Nat) : Bool := k == 1 || k == 4 || k == 6 || (decide (0x10 ≤ k) && decide (k ≤ 0x16))
def cEget (ms : List Mem2) : VFail :=
  ms.findSome? fun m => match m.1 with
    | .eget _ k => if 0x200 ≤ k.toNat then some (0x08, m.2) else vfail (!egetOk k.toNat) m.2
    | _ => none

/-- Order 4, the part that the members' words and the core decide. Of several failures the spec does not say which decides: the
model takes the rules in the order in which R297 lists them, each over the members in order, then the codes, then `eget`; the
control codes of e-registers and the stream registers of ports follow as they become known (the model's choice, log 42). -/
def order4 (c : Core) (ms : List Mem2) : VFail :=
  (c285 ms).or <| (c289 c ms).or <| (c291 c ms).or <| (c292 ms).or <| (c294 c ms).or <| (c295 c ms).or <| (c191 c ms).or <|
  (cCodes c ms).or (cEget ms)

/-! ### What depends on e-registers: the members before a member run on a scratch copy -/

/-- The convoy as it stands before its members run. -/
def startRun (c : Core) (cv : Convoy) (lo hi : Nat) (last probe : Bool) : Convoy :=
  { cv with
    lo := lo, hi := hi, last := last, probe := probe, todo := cv.members, e := c.vec.e, pops := 0, pushes := [],
    rngctr := c.vec.rngctr, rels := [], cfg := none, target := none, halt := false, vtrap := none, sett := none, ret := none,
    fence := none, strip := false, brdFull := false, fault := none, stallAt := none, beyond := [], form := false, ahead := false }
def setCv (s : State) (n : Nat) (cv : Option Convoy) : State := s.updN n fun c => c.updVec fun v => { v with cv := cv }
/-- Runs members of a convoy on a core. -/
def runOn (s : State) (n : Nat) (cv : Convoy) (ms : List Instr) : State :=
  atCore (setCv s n (some cv)) n fun s => ms.foldl memberRun s
/-- The e-registers before member `k` of a convoy: the members before it run on a scratch copy. -/
def scratchE (s : State) (n : Nat) (cv : Convoy) (k : Nat) : Convoy :=
  let cv0 := startRun (s.coreN n) cv cv.v0 cv.n true true
  ((runOn s n cv0 (cv.members.take k)).coreN n).vec.cv.getD cv0

/-- Whether a member reads an e-register as a control code. -/
def codeOfE (i : Instr) : Option Spec :=
  match i with
  | .vquant f | .vstat f => some f.b
  | .vrel f => match f.d with | .ereg n => some (.ereg n) | _ => none
  | _ => none
/-- The control codes of `vquant`, `vstat` and `vrel` (R308, R319, R327). -/
def codeBad (c : Core) (i : Instr) (x : DWord) : Bool :=
  match i with
  | .vquant _ => x.extractLsb' 32 32 != 0 || x.getLsbD 20 || decide (4 < (x.extractLsb' 21 3).toNat)
  | .vstat _ => x.extractLsb' 24 40 != 0 || fmtScaled (x.extractLsb' 20 4) || fmtBits (x.extractLsb' 20 4) != vSew c
  | .vrel _ => x.extractLsb' 17 47 != 0 || decide (256 < (x.extractLsb' 0 8).toNat + (x.extractLsb' 8 9).toNat + 1)
  | _ => false
/-- The control value of each member that has one. -/
def codes (s : State) (n : Nat) (cv : Convoy) (ms : List Mem2) : List (Mem2 × DWord) :=
  (ms.zip (nats 0 ms.length)).filterMap fun p => (codeOfE p.1.1).map fun x => (p.1, scalarU (scratchE s n cv p.2) x)
/-- Order 4 for control values. -/
def order4e (c : Core) (l : List (Mem2 × DWord)) : VFail := l.findSome? fun p => vfail (codeBad c p.1.1 p.2) p.1.2
/-- Order 5: the record of a `vquant` (R160). -/
def order5 (c : Core) (l : List (Mem2 × DWord)) : VFail :=
  l.findSome? fun p => match p.1.1 with
    | .vquant _ => if (recAddr c (p.2.setWidth 20)).isNone then some (0x08, p.2 &&& 0xFFFFF) else none
    | _ => none
/-- Whether an earlier member writes a cell of a mask (R331): one whose destination group shares a cell with the mask's group counts,
also where it writes no element there, its count 0 or its elements inactive (the model's choice, log 42). -/
def maskWritten (c : Core) (ms : List Mem2) (f : VF) : Bool :=
  match f.mask with
  | some m => ms.dropLast.any fun p => (mWrites c p.1).any fun o => shareCell (2 ^ vGrp c) o.v m.view
  | none => false
/-- Order 6: the return stack (R333), and the sett (R331), whose test reads the mask: it is made once the waits are satisfied and
the mask's rows are in state V (R286). -/
def order6 (c : Core) (ms : List Mem2) : VFail :=
  ms.findSome? fun m => match m.1 with
    | .vjal .. => if 16 ≤ c.vec.ret.length then some (0x0C, m.2) else none
    | .vret _ => if c.vec.ret.isEmpty then some (0x0C, m.2) else none
    | _ => none
def order6Sett (c : Core) (ms : List Mem2) : VFail :=
  ms.findSome? fun m => match m.1 with
    | .vbrd f o =>
      let (t, u) := vSplit c (.vbrd f o) f
      if 8 ≤ c.vec.sett.length ∧ maskWritten c ms f = false ∧ t ≠ [] ∧ u ≠ [] then some (0x0B, m.2) else none
    | _ => none

/-! ### Issue (R286) -/

/-- A trap of the V-stream stops its engine and waits for the C-stream boundary (R284). -/
def vTrapAt (s : State) (n : Nat) (code : BitVec 8) (epc : VAddr) (tval : DWord) : State :=
  (raisePending s n ⟨1, code, epc, tval, 0⟩).updN n fun c => c.updVec fun v => { v with trapped := true }

/-- The lowest breakpoint that an address hits (R442, R443). -/
def bkptFind (s : State) (n : Nat) (vs : Bool) (priv : BitVec 2) (pc : VAddr) : Option Nat :=
  let d := s.dbgOf (clusterOf n)
  if d.bkptAddr.isEmpty then none
  else (List.range 8).find? fun i =>
    let a := smGet 0 d.bkptAddr i
    let sel := smGet 0 d.bkptSel i
    let z := if vs then 8 else 4
    a.getLsbD 63 && (a.getLsbD 62 == vs) && (priv == 0 || (priv == 1 && a.getLsbD 61)) &&
    (a.extractLsb' 0 56).toNat / z == pc.toNat / z && sel.getLsbD (n % 24) &&
    (!sel.getLsbD 34 || sel.extractLsb' 24 10 == (s.coreN n).asid)

/-- The wait totals of a convoy (R51): how often it takes counters 4 and 7. -/
def waitTotals (ms : List Instr) : Nat × Nat := ((ms.filter fun i => hWB (mNibble i)).length, (ms.filter fun i => hWA (mNibble i)).length)
def takeMany (c : Core) (i : Nat) : Nat → Core
  | 0 => c
  | k + 1 => takeMany (takeOne c i) i k
def popsOf (ms : List Instr) : Nat := (ms.filter fun i => match i with | .epop _ => true | _ => false).length
def pushesOf (ms : List Instr) : Nat := (ms.filter fun i => match i with | .epush _ => true | _ => false).length
/-- Whether a member gives an e-register a value that has to be waited for: a popped entry or grid cells. -/
def eFromGrid (i : Instr) : Bool :=
  match i.vshape with
  | some (f, _) => (match f.d with | .ereg _ => vCls i == .vector && (match i with | .vrel _ => false | _ => true) | _ => false)
  | none => false

/-- The convoy record at issue. -/
def mkConvoy (s : State) (n : Nat) (encs : List DWord) (ms : List Instr) : Convoy :=
  let c := s.coreN n
  let cnt := ms.foldl (fun a i => max a (mCount c i)) 0
  let r := isRestartable c ms
  { pc := c.vec.pc, next := c.vec.pc + BitVec.ofNat 56 (8 * ms.length), members := ms, encs := encs, restartable := r,
    v0 := c.vec.vstart, n := cnt, lo := c.vec.vstart, hi := c.vec.vstart, e := c.vec.e, rngctr := c.vec.rngctr,
    sample := c.vec.stop.sample, ovf := c.vec.stop.ovf, cmask := c.vec.stop.cmask, whole := r && mustBeWhole c ms, mlo := if r && mustBeWhole c ms then c.vec.vstart else 0,
    egets := ms.foldl (fun m i => match i with | .eget _ k => smPut m k.toNat (kRead s n k.toNat) | _ => m) [],
    qpos := ms.findSome? fun i => match i with
      | .vldq f | .vstq f => some ((portOf f.a).toNat, (strGet c (portOf f.a)).pos)
      | _ => none }

/-- What a sample of the records of a convoy answers: the samples, poison on one of them (log 75), or a byte budget (R62). -/
inductive Samp where
  | got (m : SMap (List Byte))
  | bad (id : DWord)
  | held (id : DWord)
  deriving DecidableEq, Repr
/-- The samples of the records that `vquant` members name; a resumed convoy keeps its own (R290, R308). -/
def sampleAll (n : Nat) : List (Mem2 × DWord) → State → SMap (List Byte) → State × Samp
  | [], s, m => (s, .got m)
  | p :: l, s, m =>
    match p.1.1 with
    | .vquant _ =>
      let id : BitVec 20 := p.2.setWidth 20
      match recAddr (s.coreN n) id with
      | none => sampleAll n l s m
      | some a =>
        if smHas m id.toNat then sampleAll n l s m
        else if recBad s n a then (s, .bad (id.setWidth 64))
        else match charge s n a 128 .rd with
        | none => (s, .held (id.setWidth 64))
        | some s => sampleAll n l s (smPut m id.toNat (recRead s a))
    | _ => sampleAll n l s m

/-- Whether the stream engine is between its own instructions (R323). -/
def portFree (c : Core) : Bool := match c.str.queue with | p :: _ => !p.waited | [] => true

/-- Conditions 1 and 3 of R286: the waits, and the rows of a convoy that is not restartable, a control member's mask rows among
them. -/
def mayRead (c : Core) (ms : List Instr) (cv : Convoy) (skip : Bool) : Bool :=
  let (wb, wa) := waitTotals ms
  (skip || (decide (wb ≤ halGet c 4) && decide (wa ≤ halGet c 7))) && (cv.restartable || !blocked c ms 0 allElems true)
/-- Conditions 1 to 3 of R286 and the stream port. -/
def mayIssue (c : Core) (ms : List Instr) (cv : Convoy) (skip : Bool) : Bool :=
  mayRead c ms cv skip && decide (popsOf ms ≤ c.c2v.length) && decide (c.v2c.length + pushesOf ms ≤ 8) &&
  (cv.qpos.isNone || portFree c)

/-- The convoy issues: its waits are taken (R51), and where it takes one the strip's choice ends for what others have written. -/
def cvGo (s : State) (n : Nat) (cv : Convoy) (skip brd : Bool) : State :=
  let (wb, wa) := waitTotals cv.members
  let s := if skip || wb + wa == 0 then s else stripOrder s n
  s.updN n fun c =>
    let c := if skip then c else takeMany (takeMany c 4 wb) 7 wa
    c.updVec fun v => { v with cv := some cv, brdMark := brd, paid := [] }

/-- The checks and the conditions of a decoded convoy whose orders 1 to 4 have passed. What rests on the e-registers waits for
popped entries and for grid cells that give them a value; a convoy with an `epop` and an empty queue waits before orders 5 and 6
even where they do not rest on the entry (the model's choice, log 43). What rests on a mask or on a stream register is tested in
the aclk in which the convoy would issue. -/
def cvCheck (s : State) (n : Nat) (m2 : List Mem2) (cv : Convoy) (skip brd : Bool) : State :=
  let c := s.coreN n
  let ms := cv.members
  let pc := c.vec.pc
  if (ms.any eFromGrid && !mayRead c ms cv skip) || decide (c.c2v.length < popsOf ms) then s
  else
    let cs := codes s n cv m2
    match (order4e c cs).or ((order5 c cs).or (order6 c m2)) with
    | some (code, tv) => vTrapAt s n code pc tv
    | none =>
      if !mayIssue c ms cv skip then s
      else match (cPorts c m2).or (order6Sett c m2) with
      | some (code, tv) => vTrapAt s n code pc tv
      | none =>
        match sampleAll n cs s cv.sample with
        | (s, .held id) => holdAt s n 1 id
        | (s, .bad id) => vTrapAt (ringAppend s ⟨n, 1, pc, ms.length, 0⟩ 0x07 false id 0 0) n 0x07 pc id
        | (s, .got m) =>
          let cv := { cv with sample := m }
          match ms with
          | [.vfence _] =>
            if !c.inflight.isEmpty then s
            else match c.reports with
            | r :: _ => vTrapAt (s.updN n fun c => { c with reports := c.reports.filter fun x => x.code != r.code }) n r.code pc r.tval
            | [] => cvGo s n cv skip brd
          | _ => cvGo (unhold s n 1) n cv skip brd

/-- The convoy at the V-stream PC issues, traps at issue, or waits (R286, R297). -/
def cvIssue (s : State) (n : Nat) : State :=
  let c := s.coreN n
  let v := c.vec
  if !engOk c || heldBack c 3 || v.halted || v.trapped || v.cv.isSome then s
  else match v.after with
  | (code, tv) :: l => vTrapAt (s.updN n fun c => c.updVec fun v => { v with after := l }) n code v.pc tv
  | [] =>
  match bkptFind s n true 0 v.pc with
  | some u => requestFreeze s n 2 (BitVec.ofNat 4 u) 0
  | none =>
  match fetchConvoy n 4 s v.pc [] with
  | (s, .fault code tv) => vTrapAt s n code v.pc tv
  | (s, .held ea) => holdAt s n 1 ea
  | (s, .encs encs) =>
    let ms := encs.filterMap decEnc
    let m2 := ms.zip encs
    match (order2 encs).or ((order3 c m2).or (order4 c m2)) with
    | some (code, tv) => vTrapAt s n code v.pc tv
    | none =>
      let brd := match ms with | [.vbrd ..] => v.brdMark | _ => false
      cvCheck s n m2 (mkConvoy s n encs ms) (v.stop.waits || brd) brd

/-- Event: a convoy issues, or traps at issue (R286). -/
def execConvoyIssue (core : Nat) (s : State) : Out := .next (cvIssue s core)

/-! ### The stop inside a restartable convoy (R290) -/

/-- Sends the contributions of completed elements, record by record (R163), as far as nothing holds them: whether all are sent. -/
def sendContrib (s : State) (n : Nat) (cv : Convoy) : State × Convoy × Bool :=
  (cv.contrib.map (·.1)).eraseDups.foldl (fun p id =>
    let (s, cv, ok) := p
    if !ok then (s, cv, false)
    else match contribute s n 1 id ((cv.contrib.filter fun x => x.1 == id).map fun x => elemVal x.2.1 127 x.2.2) with
      | some s => (s, { cv with contrib := cv.contrib.filter fun x => x.1 != id }, true)
      | none => (holdAt s n 1 (id.setWidth 64), cv, false)) (s, cv, true)

/-- A watchpoint that an access of an engine hit freezes the cluster (R443). -/
def watchFreeze (s : State) (n : Nat) (hit : Option Nat) (src : BitVec 3) : State :=
  match hit with
  | some u => requestFreeze s n 3 (BitVec.ofNat 4 u) src
  | none => s

/-- The elements at or above a stop that have performed and are not to be performed again: atomics, and stores to device pages
(R326). -/
def maskedOf (s : State) (n : Nat) (cv : Convoy) : List Nat :=
  let amo := cv.members.any fun i => match i with | .vsaddI .. | .vsaddF .. => true | _ => false
  let sp : BitVec 2 := (cv.members.findSome? fun i => match i with
    | .vst sp _ | .vscat sp _ => some sp
    | .vstq f => some (strGet (s.coreN n) (portOf f.a)).sp
    | _ => none).getD 1
  (cv.beyond.filter fun b => amo || pinDev s n cv.pins ⟨sp, b.2.2, 1, .store⟩).map (·.1)

/-- The convoy stops at element `k`: at a fault, or at a boundary of a pre-emption or a debug stop; not before the contributions of the
elements below `k` are made. A fault's trap sets `%epc`; a stop without one sets it to the convoy's first address itself, but where a
handler runs, whose own `%epc` stands (R290, log 76). -/
def cvStop (s : State) (n : Nat) (cv : Convoy) (k : Nat) (f : Option EFault) : State :=
  match sendContrib s n cv with
  | (s, cv, false) => setCv s n (some { cv with due := f })
  | (s, cv, true) =>
    let s := (unhold s n 1).updN n fun c => (orFlags c cv.flags).updVec fun v =>
      { v with
        vstart := k, cv := none,
        stop := { waits := true, cmask := cv.cmask ||| setBits (maskedOf s n cv), sample := cv.sample, ovf := cv.ovf } }
    let s := watchFreeze s n (cv.watch.or (f.bind (·.watch))) 1
    match f with
    | none => s.updN n fun c => if c.ctl.priv = 0 then c.updCtl fun k => { k with epc := cv.pc } else c
    | some f =>
      let s := match f.ring with | some (wr, ea) => ringAppend s (vWho n cv f.k) f.code wr ea 0 0 | none => s
      vTrapAt s n f.code cv.pc f.tval

/-! ### Runs -/

/-- Moves a watchpoint hit of the core into the convoy, which answers it at its end. -/
def takeWatch (s : State) (n : Nat) : State :=
  s.updN n fun c => { (c.updVec fun v => { v with cv := v.cv.map fun cv => { cv with watch := cv.watch.or (c.watchHit.map (·.1)) } }) with watchHit := none }

/-- Whether a range that ends at `hi` ends inside an element group, as a chunk of a memory member may. -/
def cutsGroup (cv : Convoy) (hi : Nat) : Bool :=
  cv.restartable && !cv.whole && cv.members.any isMem && hi % 32 != 0 && decide (hi < cv.n)
/-- What elements `lo` to `hi` − 1 of a convoy are about to write over, added to what the group has so far. -/
def partOf (c : Core) (cv : Convoy) (hi : Nat) : Part :=
  let places := cv.members.flatMap fun i => (mWrites c i).flatMap fun o =>
    (nats cv.lo (min hi (mCount c i) - cv.lo)).map fun k => let p := elemPlace o.v o.bits (k / o.div); (p.1, p.2.1)
  let p := cv.part.getD { k := cv.lo, flags := cv.flags, contrib := cv.contrib, ovf := cv.ovf }
  { p with cells := places.map (fun x => (384 * x.1 + x.2, cellGet c.grd x.1 x.2)) ++ p.cells,
           dirty := places.map (fun x => (x.1, dirtyGet c.grd x.1)) ++ p.dirty }

/-- Runs elements [lo, hi) of the convoy in flight, then stops where a fault was found. A chunk whose accesses are all made releases
its pins (R385). -/
def cvRange (s : State) (n : Nat) (cv : Convoy) (hi : Nat) (last : Bool) (pr : Convoy) : State :=
  let cut := cutsGroup cv hi
  let cv := if cut then { cv with part := some (partOf (s.coreN n) cv hi) } else cv
  let cv1 := { startRun (s.coreN n) cv cv.lo hi last false with beyond := pr.beyond }
  let s := takeWatch (runOn (unhold s n 1) n cv1 cv.members) n
  match (s.coreN n).vec.cv with
  | none => s
  | some cv2 =>
    match pr.fault with
    | some f => cvStop s n { cv2 with lo := hi } hi (some f)
    | none => setCv s n (some { cv2 with lo := hi, last := last, stalled := false, pins := if hi < cv.chunk then cv.pins else [],
                                         part := if cut then cv2.part else none, mbuf := if cut || cv.whole then cv2.mbuf else [] })

/-- Runs a convoy's members on a copy of the state, for what they would do; the state keeps the free choices it has made. -/
def cvLook (s : State) (n : Nat) (cv0 : Convoy) : State × Core × Convoy :=
  let t := runOn s n cv0 cv0.members
  ({ s with free := t.free }, t.coreN n, (t.coreN n).vec.cv.getD cv0)

/-- Whether a member writes memory. -/
def storesMem (i : Instr) : Bool := vIsStore i && isMem i
/-- The elements from `k` on that have performed and are not to be performed again, by what the convoy has noted of them (R326). -/
def keptFrom (cv : Convoy) (k : Nat) : List Nat :=
  let amo := cv.members.any fun i => match i with | .vsaddI .. | .vsaddF .. => true | _ => false
  if cv.members.any storesMem then (cv.mbuf.filter fun p => decide (k ≤ p.1) && (amo || p.2 == 1)).map (·.1) else []
/-- The walk of a port member as it stands at element `k` (R323). -/
def portBack (cv : Convoy) (k : Nat) (c : Core) : Core :=
  match cv.qpos with
  | some (q, p0) => c.updStr fun t => let r := smGet {} t.q q; { t with q := smPut t.q q { r with pos := (p0 + (k - cv.v0)) % r.total } }
  | none => c
/-- A convoy stops at the start of the element group it stands in. Of a group that a chunk's end has cut, what its elements have written
is taken back, and those that performed for good go into the completion mask (R290, R326, R411). -/
def cvBack (s : State) (n : Nat) (cv : Convoy) (f : Option EFault) : State :=
  match cv.part with
  | none => cvStop s n cv cv.lo f
  | some p =>
    let s := s.updN n fun c => portBack cv p.k (c.updGrd fun g =>
      { g with cells := p.cells.foldl (fun m x => smSet 0 m x.1 x.2) g.cells, dirty := p.dirty.foldl (fun m x => smSet 0 m x.1 x.2) g.dirty })
    cvStop s n { cv with lo := p.k, chunk := p.k, pins := [], noted := none, part := none, mbuf := [], flags := p.flags,
                         contrib := p.contrib, ovf := p.ovf, cmask := cv.cmask ||| setBits (keptFrom cv p.k) } p.k f

/-- The stop of a pre-emption, at the boundary `lo`: elements of the chunk above it may have been stored or added already (R326,
R428), a free subset of them; their flags come with the resume. -/
def cvPause (s : State) (n : Nat) (cv : Convoy) : State :=
  let c := s.coreN n
  match sendContrib s n cv with
  | (s, cv, false) => setCv s n (some cv)
  | (s, cv, true) =>
    let lim := (firstStall c cv.members cv.chunk false (cv.chunk / 32 + 2) cv.lo).getD cv.chunk
    if !cv.members.any storesMem || decide (lim ≤ cv.lo) then cvStop s n cv cv.lo none
    else
      let (s, _, pr) := cvLook s n { startRun c cv cv.lo lim false true with ahead := true }
      let s := takeWatch (runOn s n { startRun c cv cv.lo cv.lo false false with beyond := pr.beyond } cv.members) n
      cvStop s n { (s.coreN n).vec.cv.getD cv with flags := cv.flags, ovf := cv.ovf, contrib := [] } cv.lo none

/-- Whether the addresses of a memory member rest on rows: an index group or a mask. -/
def addrRows (i : Instr) : Bool :=
  isMem i && (match i.vshape with | some (f, _) => f.mask.isSome || (match f.b with | .view _ => true | _ => false) | none => false)

/-- Forms the next chunk (R384): from the first element not done, 4,096 elements or 32 pages at most; elements whose addresses rest
on a stalled row are not in it. A fault noted at the end of the chunk before is taken here. -/
def cvForm (s : State) (n : Nat) (cv : Convoy) : State :=
  match cv.noted with
  | some f => cvStop s n cv cv.lo (some f)
  | none =>
    let c := s.coreN n
    let lim := min cv.n (cv.lo + 4096)
    let lim := if cv.members.any addrRows then (firstStall c cv.members lim false (lim / 32 + 2) cv.lo).getD lim else lim
    let (s, d, pr) := cvLook s n { startRun c cv cv.lo lim false true with form := true }
    let s := s.updN n fun c => { c with tlb := d.tlb, walkc := d.walkc }
    if cv.lo < pr.chunk then setCv s n (some { cv with chunk := pr.chunk, pins := pr.pins, noted := pr.noted, stalled := false })
    else match pr.noted with
      | some f => cvStop s n cv cv.lo (some f)
      | none => s

/-! #### Whole convoys (R288, log 78): the memory member's accesses first, chunk by chunk, then every member over every element -/

/-- Runs the members before the memory member over every element that is left, then the memory member alone over elements `a` to
`b` − 1: with `g`, on a copy that only looks, or to make the accesses. -/
def wholeMem (s : State) (n : Nat) (cv : Convoy) (a b : Nat) (g : Convoy → Convoy) : State :=
  let at' := cv.members.findIdx isMem
  let t := runOn s n (startRun (s.coreN n) cv cv.lo cv.n true false) (cv.members.take at')
  match (t.coreN n).vec.cv with
  | some x => runOn t n (g { x with lo := a, hi := b, last := false, mem := true }) ((cv.members.drop at').take 1)
  | none => t
/-- What the accesses of elements `a` to `b` − 1 would meet. -/
def wholeLook (s : State) (n : Nat) (cv : Convoy) (a b : Nat) (form : Bool) : State × Core × Convoy :=
  let t := wholeMem s n cv a b fun x => { x with probe := true, form := form }
  ({ s with free := t.free }, t.coreN n, (t.coreN n).vec.cv.getD cv)
/-- Makes the accesses up to element `b`, and those past a stop; the grid and the convoy's results stay as they are. -/
def wholeAct (s : State) (n : Nat) (cv : Convoy) (b : Nat) (bey : List (Nat × Nat × DWord)) : State × Convoy :=
  let g := (s.coreN n).grd
  let t := wholeMem (unhold s n 1) n cv cv.mlo b fun x => { x with beyond := bey }
  let d := t.coreN n
  let dev := (!cv.members.any storesMem) && cv.pins.any fun t => pteDev t.pte
  let cv := { cv with mlo := b, mbuf := (d.vec.cv.getD cv).mbuf, mdev := if dev then b else cv.mdev, pins := if b < cv.chunk then cv.pins else [],
                      watch := cv.watch.or (d.watchHit.map (·.1)), stalled := false, beyond := bey }
  (setCv (t.updN n fun c => { c with grd := g, watchHit := none }) n (some cv), cv)
/-- A whole convoy stops at element `k`: the members take the elements below it, and the accesses made above it that are not to be
made again go into the completion mask (R290, R326). -/
def wholeCut (s : State) (n : Nat) (cv : Convoy) (k : Nat) (f : Option EFault) : State :=
  let s := takeWatch (runOn s n (startRun (s.coreN n) cv cv.lo k false false) cv.members) n
  let x := (s.coreN n).vec.cv.getD cv
  cvStop s n { x with lo := k, beyond := cv.beyond, cmask := x.cmask ||| setBits (keptFrom x k) } k f

/-- The accesses of a whole convoy up to element `tgt` at the most: a chunk is formed, or its accesses are looked at and made; on a
device page one element group at a time. A fault stops the convoy where it is found. -/
def wholeStep (s : State) (n : Nat) (cv : Convoy) (tgt : Nat) (stops : Bool) : State :=
  if cv.chunk ≤ cv.mlo then
    match cv.noted with
    | some f => wholeCut s n cv cv.mlo (some f)
    | none =>
      let (s, d, pr) := wholeLook s n cv cv.mlo (min cv.n (cv.mlo + 4096)) true
      let s := s.updN n fun c => { c with tlb := d.tlb, walkc := d.walkc }
      if cv.mlo < pr.chunk then setCv s n (some { cv with chunk := pr.chunk, pins := pr.pins, noted := pr.noted, stalled := false })
      else match pr.noted with
        | some f => wholeCut s n cv cv.mlo (some f)
        | none => s
  else
    let top := min tgt cv.chunk
    let top := if cv.pins.any fun t => pteDev t.pte then min top ((cv.mlo / 32 + 1) * 32) else top
    let (s, d, pr) := wholeLook s n cv cv.mlo top false
    match pr.fault, pr.stallAt with
    | some f, _ =>
      let k := if f.after then f.k + 1 else f.k
      let (s, cv) := wholeAct s n cv k pr.beyond
      wholeCut s n { cv with watch := cv.watch.or (d.watchHit.map (·.1)) } k (some f)
    | none, some (k, ea) =>
      if cv.mlo < k then (wholeAct s n cv k []).1
      else if stops then wholeCut (unhold s n 1) n cv cv.mlo none
      else setCv (match ea with | some a => holdAt s n 1 a | none => s) n (some { cv with stalled := true })
    | none, none => (wholeAct s n cv top []).1

/-- One step of a whole convoy. A stop completes the element groups whose accesses it has begun (R290). -/
def wholeRun (s : State) (n : Nat) (cv : Convoy) (stops : Bool) : State :=
  let begun := cv.members.any isMem && decide (cv.lo < cv.mlo)
  if stops && !begun && decide (cv.lo < cv.n) then cvStop s n cv cv.lo none
  else if (firstStall (s.coreN n) cv.members cv.n true (cv.n / 32 + 2) cv.lo).isSome then setCv s n (some { cv with stalled := true })
  else if !cv.members.any isMem || decide (cv.n ≤ cv.mlo) then cvRange s n cv cv.n true { cv with fault := none, beyond := [] }
  else
    let tgt := if stops then min cv.n ((cv.mlo + 31) / 32 * 32) else cv.n
    if tgt ≤ cv.mlo then wholeCut s n cv cv.mlo none else wholeStep s n cv tgt stops

/-- How far the next run goes before rows, chunks and faults are looked at: a convoy that does not restart, or a free number of
element groups, one only when the core has to stop (R288, R290). -/
def cvReach (s : State) (cv : Convoy) (stopping : Bool) : Nat :=
  if !cv.restartable then cv.n
  else
    let g := cv.lo / 32
    let left := (cv.n + 31) / 32 - g
    let m := if stopping then 1 else 1 + s.pick (if left = 0 then 1 else left)
    min cv.n ((g + m) * 32)

/-- The run of a convoy with a memory member over the elements of its chunk up to `hi`: the accesses are looked at first. -/
def cvMemRun (s : State) (n : Nat) (cv : Convoy) (hi : Nat) (last stopping : Bool) : State :=
  let (s, d, pr) := cvLook s n (startRun (s.coreN n) cv cv.lo hi last true)
  match pr.fault, pr.stallAt with
  | some f, _ =>
    cvRange (s.updN n fun c => { c with watchHit := d.watchHit }) n cv (if f.after then f.k + 1 else f.k) false pr
  | none, some (k, ea) =>
    if cv.lo < k then cvRange s n cv k false pr
    else
      let cv := { cv with stalled := true }
      if stopping && cv.restartable then cvBack (unhold s n 1) n cv none
      else setCv (match ea with | some a => holdAt s n 1 a | none => s) n (some cv)
  | none, none =>
    let start := hi / 32 * 32
    if cutsGroup cv hi && decide (cv.lo < start) then cvRange s n cv start false pr else cvRange s n cv hi last pr

/-- One step of the convoy in flight (R108, R288, R290, R384): it stops, forms a chunk, or runs elements. -/
def cvRun (s : State) (n : Nat) (cv : Convoy) : State :=
  let c := s.coreN n
  let stopping := !engOk c
  let stops := cv.restartable && stopping
  match cv.due with
  | some f => cvStop s n cv cv.lo (some f)
  | none =>
  if cv.whole then wholeRun s n cv stops
  else if stops && (cv.lo % 32 == 0 || cv.lo == cv.v0) && decide (cv.lo < cv.n) then cvPause s n cv
  else
    let hi := cvReach s cv stopping
    let s := s.bumpFree
    let stall := if cv.restartable then firstStall c cv.members hi (decide (cv.n ≤ hi)) (hi / 32 + 2) cv.lo else none
    let top := (stall.map (max cv.lo)).getD (max cv.lo hi)
    if stall.isSome && top == cv.lo then
      (if stops then cvStop s n cv cv.lo none else setCv s n (some { cv with stalled := true }))
    else
      let mem := cv.members.any isMem && decide (cv.lo < cv.n)
      if mem && decide (cv.chunk ≤ cv.lo) then cvForm s n cv
      else
        let top := if mem then min top cv.chunk else top
        let last := stall.isNone && decide (cv.n ≤ top)
        if mem then cvMemRun s n cv top last stopping else cvRange s n cv top last { cv with fault := none, beyond := [] }

/-! ### Retirement (R287) -/

/-- Releases rows to the grid engine (R106). -/
def relAll (g : Grd) (l : List (Nat × Nat)) : Grd :=
  l.foldl (fun g p => (nats p.1 p.2).foldl (fun g i => if rowGet g i = .v then rowPut g i .g else g) g) g

/-- What retirement commits on the vector engine's registers. -/
def retireVec (cv : Convoy) (v : Vec) : Vec :=
  let v := match cv.cfg with
    | some (vl, k) => { v with vl := vl, kind := k.extractLsb' 4 2, grp := k.extractLsb' 2 2, sew := k.extractLsb' 0 2 }
    | none => v
  let v := match cv.sett with | some (l, f) => { v with sett := l, frag := f } | none => v
  { v with
    e := cv.e, rngctr := cv.rngctr, vstart := 0, stop := {}, cv := none, pc := cv.target.getD cv.next,
    ret := cv.ret.getD v.ret, halted := v.halted || cv.halt, strip := if cv.strip then [] else v.strip, brdMark := false,
    retired := v.retired + 1 }

/-- A profile sample becomes due every 2^(plog2 + 4) retired convoys of a sampled core (R452). R452 does not say where the count of
convoys and the number of the sample start: both run over the core's life, and no task, `en` or arming starts them anew (the model's
choice, log 87). -/
def noteSample (s : State) (n : Nat) (cv : Convoy) (counts : List Nat) : State :=
  let p := (s.dbgOf (clusterOf n)).prf
  if !p.getLsbD 0 || !p.getLsbD (8 + n % 24) || (s.coreN n).vec.retired % 2 ^ ((p.extractLsb' 4 4).toNat + 4) != 0 then s
  else (profWrite s n).updN n fun c => c.updVec fun v =>
    let k := v.samples % cv.members.length
    { v with samples := v.samples + 1, prof := some (cv.pc, cv.members.length, k, counts.getD k 0) }

/-- The instruction counts of the lane clusters after members of these element counts: a cluster counts an instruction of which it
has an element group (R430, log 78). -/
def lanesAfter (l : SMap Nat) (counts : List Nat) : SMap Nat :=
  (nats 0 12).foldl (fun m j =>
    let k := (counts.filter fun n => decide (32 * j < n)).length
    if k = 0 then m else smSet 0 m j ((smGet 0 m j + k) % 32)) l

/-- The report-ring entry of a failing group (R432), with index k and address 0. -/
def checkRing (s : State) (n : Nat) (cv : Convoy) (k : Nat) : State := ringAppend s ⟨n, 1, cv.pc, cv.members.length, k⟩ 0x07 false 0 0 0
/-- The traps of a spoiled convoy's failing groups, at the next one, in turn; a trap that the retirement itself raised is taken first
(R432). -/
def checkTrap (s : State) (n : Nat) (cv : Convoy) : State :=
  (cv.fails.map (32 * ·.2)).foldl (fun s k =>
    let s := checkRing s n cv k
    if (smGet none (s.coreN n).ptraps 1).isSome then s.updN n fun c => c.updVec fun v => { v with after := v.after ++ [(0x07, checkTval k)] }
    else vTrapAt s n 0x07 (s.coreN n).vec.pc (checkTval k)) s

/-- What the retirement of a convoy commits (R287); the traps of orders 8 to 10 follow (R297). -/
def cvCommit (s : State) (n : Nat) (cv : Convoy) : State :=
  let c := s.coreN n
  let mark := c.vec.brdMark
  let counts := cv.members.map (mCount c)
  let s := if cv.fence.isSome then vFenced s n else s
  let s := s.updN n fun c =>
    let c := orFlags c cv.flags
    let c := { c with c2v := c.c2v.drop cv.pops, v2c := c.v2c ++ cv.pushes, lanes := lanesAfter c.lanes counts }
    let c := (c.updGrd fun g => relAll g cv.rels).updVec (retireVec cv)
    let c := if cv.target.isSome then vTransfer c else c
    if mark then c else cv.members.foldl (fun c i => signal s.clock c 3 (mNibble i)) c
  let s := match cv.target with
    | some t => trace s 0x05 n cv.pc cv.members.length (BitVec.ofInt 48 (t.toInt - cv.pc.toInt)).toNat
    | none => s
  let s := noteSample s n cv counts
  let s := watchFreeze s n cv.watch 1
  let own := cv.pc + BitVec.ofNat 56 (8 * (cv.members.length - 1))
  let s := if cv.brdFull then s.updN n fun c => c.updVec fun v => { v with pc := own, brdMark := true } else s
  let next := (s.coreN n).vec.pc
  match cv.ovf, cv.brdFull, cv.vtrap with
  | some k, _, tv =>
    vTrapAt (s.updN n fun c => c.updVec fun v => { v with after := (tv.map fun x => (0x0E, x)).toList }) n 0x0A next (BitVec.ofNat 64 k)
  | none, true, _ => vTrapAt s n 0x0B own (cv.encs.getLastD 0)
  | none, false, some x => vTrapAt s n 0x0E next x
  | none, false, none => s

/-- The convoy retires, once its contributions are made and, for a `vfence`, its flush is complete (R62, R141, R163). That a `vfence`
of die scope or wider flushes the combining buffers and waits for them, though R141 and R165 do not list it among the releases, is
the model's choice (log 30). -/
def cvRetire (s : State) (n : Nat) (cv : Convoy) : State :=
  match sendContrib s n cv with
  | (s, cv, false) => setCv s n (some cv)
  | (s, cv, true) =>
    match (match cv.fence with | some k => releaseAt s n k | none => (s, true)) with
    | (s, false) => setCv s n (some cv)
    | (s, true) => checkTrap (cvCommit (unhold s n 1) n cv) n cv

/-! ### Profile samples (R452) -/

/-- Event: a profile sample is recorded (R452). -/
def execProfileSample (core : Nat) (s : State) : Out := .next (profWrite s core)

end Sys2Proof.Machine
end

