-- ==== Sys2Proof/Machine/Checks.lean ====
section
/-! DEFINITION. The vector engine's own checks (R430 to R433): which lane of a lane cluster is compared, the correction of a first
mismatch, the escalation of a second one, and the destination elements that depend on a failing element group. -/

namespace Sys2Proof.Machine

/-! ### What depends on a failing element group (R432) -/

/-- What depends on failing groups so far: grid nibbles and e-registers. -/
structure Taint where
  cells : List Nat := []
  eregs : List Nat := []
  deriving DecidableEq, Repr

/-- The nibbles of an element of a view group. -/
def nibsOf (v : View) (bits k : Nat) : List Nat :=
  let (i, j, sub) := elemPlace v bits k
  nats ((384 * i + j) * 8 + sub * bits / 4) (bits / 4)
/-- Whether an element of an operand is tainted. -/
def Taint.has (t : Taint) (x : Spec) (bits k : Nat) : Bool :=
  match x with
  | .view v => (nibsOf v bits k).any fun b => t.cells.contains b
  | .ereg n => t.eregs.contains n.toNat
  | _ => false

/-- Whether output element `k` of a member of `n` elements depends on the failing group: an element of the group, `grp` says which
these are, of the failing member itself (`own`) or with a tainted source; a scan output from a tainted source on; a reduction of
one (R432). -/
def dependsOn (t : Taint) (own : Bool) (grp : Nat → Bool) (c : Core) (cv : Convoy) (i : Instr) (f : VF) (n k : Nat) : Bool :=
  let own (j : Nat) : Bool := own && grp j
  let wa := (vWidths (vSew c) i).2
  let a (j : Nat) : Bool := own j || t.has f.a wa j
  let b (j : Nat) : Bool := own j || t.has f.b (vSew c) j
  let m (j : Nat) : Bool := own j || (match f.mask with | some m => t.has (.view m.view) (vMaskBits c i f) j | none => false)
  let off := (scalarU cv f.b).toNat
  let packed := (nats 0 n).filter (isActive c i f)
  let inGrp (b : Bool) : Bool := grp k && (own k || m k || b)
  (if vIsRed i then (nats 0 n).any (fun j => a j || m j) || b 0
   else if vIsScan i then (nats 0 (k + 1)).any fun j => a j || m j
   else match i with
   | .vmpop _ | .vmfirst _ => (nats 0 n).any fun j => a j || m j
   | .vslideUp _ => inGrp (b 0 || (decide (off ≤ k) && a (k - off)))
   | .vslideDown _ => inGrp (b 0 || (decide (k + off < n) && a (k + off)))
   | .vperm _ => inGrp (b k || (let j := srcElem c cv (vSew c) f.b k; decide (j < n) && a j))
   | .vbcst _ => inGrp (a 0)
   | .vcompress _ => inGrp (match packed[k]? with | some j => (nats 0 (j + 1)).any m || a j | none => false)
   | .vexpand _ => inGrp ((nats 0 k).any m || a ((nats 0 k).filter (isActive c i f)).length)
   | .vunpack _ => inGrp (a (k / 2))
   | .vdequant _ => inGrp (a k || (match f.a with | .view v => t.has (.view (viewAdd v (2 ^ vGrp c))) 8 (k / 128) | _ => false))
   | .vbquant _ => inGrp ((nats (k / 128 * 128) (min 128 (n - k / 128 * 128))).any fun j => a j || m j)
   | .vfma .. => inGrp (a k || b k || t.has f.d (vSew c) k)
   | _ => inGrp (a k || b k))

/-- The taint after a member that is about to run: the elements it writes take that of what they depend on (R432). -/
def taintOf (t : Taint) (own : Bool) (grp : Nat → Bool) (c : Core) (cv : Convoy) (i : Instr) : Taint :=
  match i.vshape with
  | none => t
  | some (f, _) =>
    let n := mCount c i
    let dep := dependsOn t own grp c cv i f n
    let mark (t : Taint) (v : View) (bits k : Nat) (bad : Bool) : Taint :=
      let l := nibsOf v bits k
      let rest := t.cells.filter fun b => !l.contains b
      { t with cells := if bad then rest ++ l else rest }
    match f.d with
    | .ereg e =>
      if vIsStore i then t
      else
        let bad := match vCls i with
          | .scalar => own || t.has f.a 64 0 || t.has f.b 64 0
          | _ => dep 0
        let rest := t.eregs.filter (· ≠ e.toNat)
        { t with eregs := if bad then e.toNat :: rest else rest }
    | .view v =>
      match vDst c i f with
      | none => t
      | some o =>
        let bits := match i with | .vpack _ => 4 | _ => o.bits
        let act (k : Nat) : Bool := match i with | .vcompress _ => decide (k < ((nats 0 n).filter (isActive c i f)).length) | _ => isActive c i f k
        let body := if vIsRed i then [0] else (nats 0 n).filter fun k => act k || (f.maskAgn && inFrag c k)
        let top := if vIsRed i then 1 else n
        let tail := if f.tailAgn then nats top (vMax c o.bits v * (o.bits / bits) - top) else []
        let t' := body.foldl (fun x k => mark x v bits k ((vIsRed i || act k) && dep k)) t
        let t' := tail.foldl (fun x k => mark x v bits k false) t'
        match vScaleDst c i f with
        | some q => (nats 0 ((n + 127) / 128)).foldl (fun x b => mark x q.v 8 b ((nats (128 * b) (min 128 (n - 128 * b))).any fun k => act k && dep k)) t'
        | none => t'
    | _ => t

/-- Writes all ones to what is tainted: cells, and e-registers at the SEW. -/
def spoil (c : Core) (cv : Convoy) (t : Taint) : Core × Convoy :=
  (c.updGrd fun g => t.cells.foldl (fun g b =>
     let i := b / 8 / 384
     let j := b / 8 % 384
     cellSet g i j (subSet (cellGet g i j) 4 (b % 8) 15)) g,
   { cv with e := t.eregs.foldl (fun m r => smSet 0 m r (BitVec.ofNat 64 (ones (vSew c)))) cv.e })

/-- Runs a convoy that is not restartable with failing groups of its members: its results as they come out, all ones where they depend
on one of the groups. -/
def spoilRun (s : State) (n : Nat) (cv : Convoy) : State :=
  let s := setCv s n (some (startRun (s.coreN n) cv cv.lo cv.n true false))
  let (s, ts) := (cv.members.zip (nats 0 cv.members.length)).foldl (fun (p : State × List ((Nat × Nat) × Taint)) q =>
    let c := p.1.coreN n
    let ts := p.2.map fun x => (x.1, taintOf x.2 (q.2 == x.1.1) (fun k => k / 32 == x.1.2) c (c.vec.cv.getD cv) q.1)
    (atCore p.1 n fun s => memberRun s q.1, ts)) (s, cv.fails.map fun x => (x, {}))
  let c := s.coreN n
  let (c, v) := ts.foldl (fun p x => spoil p.1 p.2 x.2) (c, c.vec.cv.getD cv)
  setCv (s.setCoreN n c) n (some { v with lo := cv.n, last := true })

/-! ### The outcome of the checks -/

/-- The lane that a lane cluster's checking lane recomputes for a member (R430): its instruction count as the member comes up. -/
def laneOf (c : Core) (cv : Convoy) (mem grp : Nat) : Nat :=
  let j := grp % 12
  (smGet 0 c.lanes j + ((cv.members.take mem).filter fun i => decide (32 * j < mCount c i)).length) % 32
/-- Whether a mismatch can be found there: the member has the group, and the checked lane a part of it, its element or, in a
reduction or a scan, a combine. -/
def checkable (c : Core) (cv : Convoy) (x : VCheck) : Bool :=
  match cv.members[x.mem]? with
  | none => false
  | some i =>
    vCls i == .scalar ||
    (decide (32 * x.grp < mCount c i) && (vIsRed i || vIsScan i || decide (32 * x.grp + laneOf c cv x.mem x.grp < mCount c i)))
/-- Whether a member is a scalar: it has no groups, and every second disagreement is cause 0x0D (R432). -/
def memScalar (cv : Convoy) (x : VCheck) : Bool := match cv.members[x.mem]? with | some i => vCls i == .scalar | none => false
/-- Whether a convoy is indivisible (R291). -/
def indivisible (cv : Convoy) : Bool := cv.members.any fun i => vIsRed i || vIsScan i

/-- One outcome on the convoy in flight. A first mismatch makes its group execute again; the ninth of an indivisible convoy is cause
0x0D at once (R433). A correction adds to vcorr (R431). A second mismatch with bad parity stops a restartable convoy at the
group, where it has come to it, or spoils what depends on it as the convoy runs; with good parity it is cause 0x0D, before the freeze
of a watchpoint the convoy has hit (R432, R448). The groups are checked as they run, so that of a convoy that has run no failing
group is left to come. -/
def applyCheck (n : Nat) (s : State) (x : VCheck) : State :=
  match (s.coreN n).vec.cv with
  | none => s
  | some cv =>
    if x.out = .ok ∨ checkable (s.coreN n) cv x = false ∨ cv.due.isSome = true then s
    else
      let dead (s : State) : State := watchFreeze (escalate (setCv s n none) n 1 cv.pc (32 * x.grp) false) n cv.watch 1
      let cv := { cv with mism := cv.mism + if memScalar cv x then 0 else 1 }
      if indivisible cv && decide (8 < cv.mism) then dead s
      else match x.out with
      | .ok => s
      | .corrected =>
        let k := clusterOf n
        setCv (s.setDbg k { s.dbgOf k with vcorr := satInc (s.dbgOf k).vcorr }) n (some cv)
      | .parityPass => dead s
      | .parityFail =>
        if memScalar cv x then dead s
        else if cv.whole then
          let k := max cv.v0 (32 * x.grp)
          let f : EFault := { k := 32 * x.grp, code := 0x07, tval := checkTval (32 * x.grp), ring := some (false, 0) }
          let ready := !cv.members.any isMem || (decide (k ≤ cv.mlo) && decide (cv.mdev ≤ k))
          if !cv.last && decide (cv.lo ≤ k) && decide (k < cv.n) && ready &&
              (firstStall (s.coreN n) cv.members cv.n true (cv.n / 32 + 2) cv.lo).isNone then
            wholeCut s n cv k (some f)
          else s
        else if cv.restartable then
          if !cv.last && decide ((cv.part.map (·.k)).getD cv.lo = max cv.v0 (32 * x.grp)) && decide (cv.lo < cv.n) then
            cvBack s n cv (some { k := 32 * x.grp, code := 0x07, tval := checkTval (32 * x.grp), ring := some (false, 0) })
          else s
        else if cv.last || cv.fails.contains (x.mem, x.grp) then s
        else setCv s n (some { cv with fails := cv.fails ++ [(x.mem, x.grp)] })

/-- Event: checks of the convoy in flight, each with its member and, in the same order, its element group, come to their outcomes,
and the convoy retires once it has run (R287, R430 to R433). -/
def execConvoyRetire (core : Nat) (chk : List (Nat × Check)) (grp : List Nat) (s : State) : Out :=
  .next <|
    let c := s.coreN core
    if c.frozen || c.run == .free then s
    else
      let s := (chk.zip grp).foldl (fun s p => applyCheck core s ⟨p.1.1, p.2, p.1.2⟩) s
      match (s.coreN core).vec.cv with
      | some cv => if cv.last then cvRetire s core cv else s
      | none => s

/-- The turn of a core's vector engine. -/
def vecTurn (s : State) (n : Nat) : State :=
  let c := s.coreN n
  if c.frozen || c.run == .free then s
  else if c.vec.prof.isSome then profWrite s n
  else match c.vec.cv with
  | none => cvIssue s n
  | some cv => if cv.last then cvRetire s n cv else if cv.fails.isEmpty then cvRun s n cv else spoilRun s n cv

end Sys2Proof.Machine
end

