-- ==== Sys2Proof/Machine/Integer.lean ====
section
/-! DEFINITION. Integer and pointer arithmetic of the control core (R211 to R216). -/

namespace Sys2Proof.Machine

/-- Bits [127:64] of a product (R212). -/
def mulHi (sgn : Bool) (a b : DWord) : DWord :=
  if sgn then BitVec.ofInt 64 (a.toInt * b.toInt / 2 ^ 64) else BitVec.ofNat 64 (a.toNat * b.toNat / 2 ^ 64)
/-- Signed division (R213). -/
def divS (a b : DWord) : DWord := if b = 0 then BitVec.allOnes 64 else BitVec.ofInt 64 (a.toInt.tdiv b.toInt)
def remS (a b : DWord) : DWord := if b = 0 then a else BitVec.ofInt 64 (a.toInt.tmod b.toInt)
/-- Unsigned division (R213). -/
def divU (a b : DWord) : DWord := if b = 0 then BitVec.allOnes 64 else a / b
def remU (a b : DWord) : DWord := if b = 0 then a else a % b

/-- Zero bits above the highest 1 (R212). -/
def clz64 (a : DWord) : Nat := if a = 0 then 64 else 63 - Nat.log2 a.toNat
/-- The bits of a word below a width, lowest first. -/
def bitsOf (a : DWord) : List Bool := (List.range 64).map fun i => a.getLsbD i
/-- Zero bits below the lowest 1 (R212). -/
def ctz64 (a : DWord) : Nat := (bitsOf a).findIdx id
/-- The number of 1 bits (R212). -/
def popc64 (a : DWord) : Nat := (bitsOf a).countP id

/-- A register result of two registers. -/
def rr (i : Instr) (h : Hal) (d a b : Reg) (f : DWord → DWord → DWord) (s : State) : Out :=
  regOp i h 4 d (fun c => f (regGet c a) (regGet c b)) s
/-- A register result of one register. -/
def ri (i : Instr) (h : Hal) (d a : Reg) (f : DWord → DWord) (s : State) : Out := regOp i h 4 d (fun c => f (regGet c a)) s

/-- `add` (R212). -/
def execAdd (h : Hal) (d a b : Reg) (s : State) : Out :=
  rr (.add h d a b) h d a b (fun a b => a + b) s
/-- `sub` (R212). -/
def execSub (h : Hal) (d a b : Reg) (s : State) : Out :=
  rr (.sub h d a b) h d a b (fun a b => a - b) s
/-- `mul` (R212). -/
def execMul (h : Hal) (d a b : Reg) (s : State) : Out :=
  rr (.mul h d a b) h d a b (fun a b => a * b) s
/-- `mulh` (R212). -/
def execMulh (h : Hal) (d a b : Reg) (s : State) : Out :=
  rr (.mulh h d a b) h d a b (fun a b => mulHi true a b) s
/-- `mulhn` (R212). -/
def execMulhn (h : Hal) (d a b : Reg) (s : State) : Out :=
  rr (.mulhn h d a b) h d a b (fun a b => mulHi false a b) s
/-- `div` (R213). -/
def execDiv (h : Hal) (d a b : Reg) (s : State) : Out :=
  rr (.div h d a b) h d a b (fun a b => divS a b) s
/-- `divn` (R213). -/
def execDivn (h : Hal) (d a b : Reg) (s : State) : Out :=
  rr (.divn h d a b) h d a b (fun a b => divU a b) s
/-- `rem` (R213). -/
def execRem (h : Hal) (d a b : Reg) (s : State) : Out :=
  rr (.rem h d a b) h d a b (fun a b => remS a b) s
/-- `remn` (R213). -/
def execRemn (h : Hal) (d a b : Reg) (s : State) : Out :=
  rr (.remn h d a b) h d a b (fun a b => remU a b) s
/-- `and` (R212). -/
def execAnd (h : Hal) (d a b : Reg) (s : State) : Out :=
  rr (.and h d a b) h d a b (fun a b => a &&& b) s
/-- `or` (R212). -/
def execOr (h : Hal) (d a b : Reg) (s : State) : Out :=
  rr (.or h d a b) h d a b (fun a b => a ||| b) s
/-- `xor` (R212). -/
def execXor (h : Hal) (d a b : Reg) (s : State) : Out :=
  rr (.xor h d a b) h d a b (fun a b => a ^^^ b) s
/-- `sll` (R212). -/
def execSll (h : Hal) (d a b : Reg) (s : State) : Out :=
  rr (.sll h d a b) h d a b (fun a b => a <<< (b.extractLsb' 0 6)) s
/-- `srl` (R212). -/
def execSrl (h : Hal) (d a b : Reg) (s : State) : Out :=
  rr (.srl h d a b) h d a b (fun a b => a >>> (b.extractLsb' 0 6)) s
/-- `sra` (R212). -/
def execSra (h : Hal) (d a b : Reg) (s : State) : Out :=
  rr (.sra h d a b) h d a b (fun a b => a.sshiftRight (b.extractLsb' 0 6).toNat) s
/-- `slt` (R212). -/
def execSlt (h : Hal) (d a b : Reg) (s : State) : Out :=
  rr (.slt h d a b) h d a b (fun a b => bit (a.slt b)) s
/-- `sltn` (R212). -/
def execSltn (h : Hal) (d a b : Reg) (s : State) : Out :=
  rr (.sltn h d a b) h d a b (fun a b => bit (a.ult b)) s
/-- `min` (R212). -/
def execMin (h : Hal) (d a b : Reg) (s : State) : Out :=
  rr (.min h d a b) h d a b (fun a b => if a.slt b then a else b) s
/-- `max` (R212). -/
def execMax (h : Hal) (d a b : Reg) (s : State) : Out :=
  rr (.max h d a b) h d a b (fun a b => if a.slt b then b else a) s
/-- `minn` (R212). -/
def execMinn (h : Hal) (d a b : Reg) (s : State) : Out :=
  rr (.minn h d a b) h d a b (fun a b => if a.ult b then a else b) s
/-- `maxn` (R212). -/
def execMaxn (h : Hal) (d a b : Reg) (s : State) : Out :=
  rr (.maxn h d a b) h d a b (fun a b => if a.ult b then b else a) s
/-- `clz` (R212). -/
def execClz (h : Hal) (d a : Reg) (s : State) : Out := ri (.clz h d a) h d a (fun a => BitVec.ofNat 64 (clz64 a)) s
/-- `ctz` (R212). -/
def execCtz (h : Hal) (d a : Reg) (s : State) : Out := ri (.ctz h d a) h d a (fun a => BitVec.ofNat 64 (ctz64 a)) s
/-- `popc` (R212). -/
def execPopc (h : Hal) (d a : Reg) (s : State) : Out := ri (.popc h d a) h d a (fun a => BitVec.ofNat 64 (popc64 a)) s

/-! ### Pointers (R216) -/

/-- `adda` (R216). -/
def execAdda (h : Hal) (d a b : Reg) (s : State) : Out :=
  rr (.adda h d a b) h d a b (fun a b => a.extractLsb' 56 8 ++ (a.extractLsb' 0 56 + b.setWidth 56)) s
/-- `tagset` (R216). -/
def execTagset (h : Hal) (d a b : Reg) (s : State) : Out :=
  rr (.tagset h d a b) h d a b (fun a b => b.extractLsb' 0 4 ++ a.extractLsb' 0 60) s
/-- `tagget` (R216). -/
def execTagget (h : Hal) (d a : Reg) (s : State) : Out := ri (.tagget h d a) h d a (fun a => (a.extractLsb' 60 4).setWidth 64) s

/-! ### Immediate forms (R214, R215) -/

/-- `addi` (R214). -/
def execAddi (h : Hal) (d a : Reg) (imm : BitVec 10) (s : State) : Out :=
  ri (.addi h d a imm) h d a (fun a => a + sext64 imm) s
/-- `andi` (R214). -/
def execAndi (h : Hal) (d a : Reg) (imm : BitVec 10) (s : State) : Out :=
  ri (.andi h d a imm) h d a (fun a => a &&& sext64 imm) s
/-- `ori` (R214). -/
def execOri (h : Hal) (d a : Reg) (imm : BitVec 10) (s : State) : Out :=
  ri (.ori h d a imm) h d a (fun a => a ||| sext64 imm) s
/-- `xori` (R214). -/
def execXori (h : Hal) (d a : Reg) (imm : BitVec 10) (s : State) : Out :=
  ri (.xori h d a imm) h d a (fun a => a ^^^ sext64 imm) s
/-- `slti` (R214). -/
def execSlti (h : Hal) (d a : Reg) (imm : BitVec 10) (s : State) : Out :=
  ri (.slti h d a imm) h d a (fun a => bit (a.slt (sext64 imm))) s
/-- `slli` (R214). -/
def execSlli (h : Hal) (d a : Reg) (sh : BitVec 6) (s : State) : Out :=
  ri (.slli h d a sh) h d a (fun a => a <<< sh) s
/-- `srli` (R214). -/
def execSrli (h : Hal) (d a : Reg) (sh : BitVec 6) (s : State) : Out :=
  ri (.srli h d a sh) h d a (fun a => a >>> sh) s
/-- `srai` (R214). -/
def execSrai (h : Hal) (d a : Reg) (sh : BitVec 6) (s : State) : Out :=
  ri (.srai h d a sh) h d a (fun a => a.sshiftRight sh.toNat) s
/-- `li` (R215). -/
def execLi (h : Hal) (d : Reg) (imm : BitVec 16) (s : State) : Out := regOp (.li h d imm) h 4 d (fun _ => sext64 imm) s
/-- `lis` (R215). -/
def execLis (h : Hal) (d : Reg) (imm : BitVec 16) (s : State) : Out :=
  regOp (.lis h d imm) h 4 d (fun c => (regGet c d <<< 16) ||| imm.setWidth 64) s

end Sys2Proof.Machine
end

