-- ==== Sys2Proof/Machine/LoadStore.lean ====
section
/-! DEFINITION. Loads, stores, atomics, `waitge` and fences of the control core (R224 to R230). -/

namespace Sys2Proof.Machine

/-- The access size of a size field (R189). -/
def szBytes (sz : BitVec 2) : Nat := 2 ^ sz.toNat
/-- The low `n` bytes of a value, sign-extended. -/
def sextBytes (n v : Nat) : DWord := BitVec.ofInt 64 (toS (8 * n) v)

/-- A load into a register (R224, R225): a tag mismatch traps after the register is written. -/
def loadReg (sp : BitVec 2) (ea : DWord) (n : Nat) (d : Reg) (f : Nat → DWord) (s : State) : Res :=
  match loadAt s (cWho s) [] sp ea n .load with
  | (s, .val v t) =>
    let s := (unhold s s.cur 0).upd fun c => regSet c d (f v)
    if t.isSome then .trapAfter 0x05 ea s else .done s
  | (s, .fault c v) => .trap c v s
  | (s, .held) => .wait (holdAt s s.cur 0 ea)
  | (s, .done) => .done s

/-- A store of the low bytes of a register (R224, R225). -/
def storeReg (sp : BitVec 2) (ea : DWord) (n : Nat) (d : Reg) (s : State) : Res :=
  let v := (regGet s.core d).toNat
  match storeAt s (cWho s) [] sp ea n .store (fun _ => v) with
  | (s, .fault c v) => .trap c v s
  | (s, .held) => .wait (holdAt s s.cur 0 ea)
  | (s, _) => .done (unhold s s.cur 0)

/-- The effective address of the CI form: the offset counts units of the size (R189, R224). -/
def ciAddr (s : State) (sp sz : BitVec 2) (a : Reg) (off : BitVec 6) : DWord := effAddr sp (regGet s.core a) (off.toInt * szBytes sz)
/-- The effective address of major 0x27 (R190). -/
def ordAddr (s : State) (m : MemOrd) (a : Reg) : DWord := effAddr m.space (regGet s.core a) m.off.toInt

/-- `ld` (R224). -/
def execLd (h : Hal) (d a : Reg) (sp sz : BitVec 2) (off : BitVec 6) (s : State) : Out :=
  scalar (.ld h d a sp sz off) h 4 (fun s => loadReg sp (ciAddr s sp sz a off) (szBytes sz) d (sextBytes (szBytes sz)) s) s
/-- `ldn` (R224). -/
def execLdn (h : Hal) (d a : Reg) (sp sz : BitVec 2) (off : BitVec 6) (s : State) : Out :=
  scalar (.ldn h d a sp sz off) h 4 (fun s => loadReg sp (ciAddr s sp sz a off) (szBytes sz) d (BitVec.ofNat 64) s) s
/-- `st` (R224). -/
def execSt (h : Hal) (d a : Reg) (sp sz : BitVec 2) (off : BitVec 6) (s : State) : Out :=
  scalar (.st h d a sp sz off) h 4 (fun s => storeReg sp (ciAddr s sp sz a off) (szBytes sz) d s) s

/-- `ld` of major 0x27: an acquire needs nothing where accesses perform in order (R142, R228, log 30). -/
def execLdOrdered (h : Hal) (d a : Reg) (m : MemOrd) (s : State) : Out :=
  scalar (.ldOrdered h d a m) h 8 (fun s => loadReg m.space (ordAddr s m a) (szBytes m.size) d (sextBytes (szBytes m.size)) s) s
/-- `ldn` of major 0x27 (R226). -/
def execLdnOrdered (h : Hal) (d a : Reg) (m : MemOrd) (s : State) : Out :=
  scalar (.ldnOrdered h d a m) h 8 (fun s => loadReg m.space (ordAddr s m a) (szBytes m.size) d (BitVec.ofNat 64) s) s
/-- `st` of major 0x27 (R226, R228). -/
def execStOrdered (h : Hal) (d a : Reg) (m : MemOrd) (s : State) : Out :=
  scalar (.stOrdered h d a m) h 8 (fun s =>
    releasing m.rl m.scope (fun s => (storeReg m.space (ordAddr s m a) (szBytes m.size) d s, true)) s) s

/-- The new value of an `amo` operation on `n` bytes (R146). -/
def amoOp (op : BitVec 4) (n old b : Nat) : Nat :=
  let w := 8 * n
  match op.toNat with
  | 0 => b
  | 1 => (old + b) % 2 ^ w
  | 2 => old &&& b
  | 3 => old ||| b
  | 4 => old ^^^ b
  | 5 => if toS w old < toS w b then old else b
  | 6 => if toS w old < toS w b then b else old
  | 7 => min old b
  | 8 => max old b
  | 9 => (fAdd f32 old b).1
  | 10 => fMinMax f32 false old b
  | _ => fMinMax f32 true old b

/-- An atomic: the old value goes to `d`, sign-extended, and whether it wrote (R227). -/
def atomicStep (d : Reg) (m : MemOrd) (ea : DWord) (op : Nat → Option Nat) (s : State) : Res × Bool :=
  let n := szBytes m.size
  match amoAt s (cWho s) [] m.space ea n op with
  | (s, .val v _) => (.done ((unhold s s.cur 0).upd fun c => regSet c d (sextBytes n v)), (op v).isSome)
  | (s, .fault c v) => (.trap c v s, false)
  | (s, .held) => (.wait (holdAt s s.cur 0 ea), false)
  | (s, .done) => (.done s, false)
/-- An atomic, as a release where it has the bit and writes (R227, R228). -/
def atomic (d : Reg) (m : MemOrd) (ea : DWord) (op : Nat → Option Nat) : State → Res :=
  releasing m.rl m.scope (atomicStep d m ea op)

/-- `amo` (R227). -/
def execAmo (h : Hal) (d a b : Reg) (op : BitVec 4) (m : MemOrd) (s : State) : Out :=
  scalar (.amo h d a b op m) h 8 (fun s =>
    let n := szBytes m.size
    let x := (regGet s.core b).toNat % 2 ^ (8 * n)
    atomic d m (ordAddr s m a) (fun old => some (amoOp op n old x)) s) s
/-- `amocas` (R227): a failed compare makes no write. -/
def execAmocas (h : Hal) (d a b c : Reg) (m : MemOrd) (s : State) : Out :=
  scalar (.amocas h d a b c m) h 8 (fun s =>
    let n := szBytes m.size
    let x := (regGet s.core b).toNat % 2 ^ (8 * n)
    let y := (regGet s.core c).toNat % 2 ^ (8 * n)
    atomic d m (ordAddr s m a) (fun old => if old = x then some y else none) s) s

/-- Whether a counter has reached its target, modulo 2^32 (R154). -/
def reached (c t : Nat) : Bool := decide ((c + 2 ^ 32 - t % 2 ^ 32) % 2 ^ 32 < 2 ^ 31)

/-- `waitge` makes one read at each try (R154, R229): a mismatching read traps at the `waitge` itself (R225). -/
def execWaitge (h : Hal) (a b : Reg) (m : MemOrd) (s : State) : Out :=
  scalar (.waitge h a b m) h 8 (fun s =>
    let ea := ordAddr s m a
    match loadAt s (cWho s) [] m.space ea 4 .load with
    | (s, .val v t) =>
      let s := unhold s s.cur 0
      if t.isSome then .trap 0x05 ea s
      else if reached v (lo32' s) then .done s else .wait s
    | (s, .fault c v) => .trap c v s
    | (s, .held) => .wait (holdAt s s.cur 0 ea)
    | (s, .done) => .done s) s
where
  /-- the target in `b` -/
  lo32' (s : State) : Nat := ((regGet s.core b).extractLsb' 0 32).toNat

/-- `fence` (R230): earlier accesses have performed; reports are taken; the core's fetch may see its earlier stores after the
next taken transfer (R209). -/
def execFence (h : Hal) (scope : BitVec 3) (s : State) : Out :=
  scalar (.fence h scope) h 4 (fun s => reporting s fun s => .done (s.upd cFenced)) s

end Sys2Proof.Machine
end

