-- ==== Sys2Proof/Machine/ScalarFloat.lean ====
section
/-! DEFINITION. Scalar floating point of the control core (R217, R218). -/

namespace Sys2Proof.Machine

def lo32 (x : DWord) : Nat := (x.extractLsb' 0 32).toNat

/-- An F32 result of two registers with its flags (R84, R217). -/
def ff (i : Instr) (h : Hal) (d a b : Reg) (f : Nat → Nat → Nat × Flags) (s : State) : Out :=
  scalar i h 4 (fun s => .done (s.upd fun c =>
    let r := f (lo32 (regGet c a)) (lo32 (regGet c b))
    orFlags (regSet c d (BitVec.ofNat 64 r.1)) r.2)) s

/-- `fadd` (R217). -/
def execFadd (h : Hal) (d a b : Reg) (s : State) : Out := ff (.fadd h d a b) h d a b (fun x y => fAdd f32 x y) s
/-- `fmul` (R217). -/
def execFmul (h : Hal) (d a b : Reg) (s : State) : Out := ff (.fmul h d a b) h d a b (fun x y => fMul f32 x y) s
/-- `fmin` (R217). -/
def execFmin (h : Hal) (d a b : Reg) (s : State) : Out := ff (.fmin h d a b) h d a b (fun x y => (fMinMax f32 false x y, 0)) s
/-- `fmax` (R217). -/
def execFmax (h : Hal) (d a b : Reg) (s : State) : Out := ff (.fmax h d a b) h d a b (fun x y => (fMinMax f32 true x y, 0)) s
/-- `fcmpEq` (R217). -/
def execFcmpEq (h : Hal) (d a b : Reg) (s : State) : Out := ff (.fcmpEq h d a b) h d a b (fun x y => ((fCmp f32 0 x y).1.toNat, (fCmp f32 0 x y).2)) s
/-- `fcmpLt` (R217). -/
def execFcmpLt (h : Hal) (d a b : Reg) (s : State) : Out := ff (.fcmpLt h d a b) h d a b (fun x y => ((fCmp f32 1 x y).1.toNat, (fCmp f32 1 x y).2)) s
/-- `fcmpLe` (R217). -/
def execFcmpLe (h : Hal) (d a b : Reg) (s : State) : Out := ff (.fcmpLe h d a b) h d a b (fun x y => ((fCmp f32 2 x y).1.toNat, (fCmp f32 2 x y).2)) s

/-- The float format of a code of R189, for `fcvt`; codes 6 and 7 are I64 and I32. -/
def cvtFmt (c : BitVec 3) : Option FFmt :=
  match c.toNat with
  | 0 => some f32 | 1 => some bf16 | 2 => some f16 | 3 => some e5m2 | 4 => some e4m3 | 5 => some e2m1 | _ => none

/-- The result and the flags of `fcvt` (R218). -/
def fcvtRes (mode dst src : BitVec 3) (x : DWord) : DWord × Flags :=
  let m := mode.toNat
  let wide (w : Nat) (r : Nat × Flags) : DWord × Flags := (BitVec.ofInt 64 (toS w r.1), r.2)
  match cvtFmt src with
  | some fs =>
    let v := fs.val (x.toNat % 2 ^ fs.width)
    match cvtFmt dst with
    | some fd => let r := fconv fd false m 0 v; (BitVec.ofNat 64 r.1, r.2)
    | none => if dst = 7 then wide 32 (fToInt 32 true m 0 v) else wide 64 (fToInt 64 true m 0 v)
  | none =>
    let i : Int := if src = 7 then toS 32 x.toNat else x.toInt
    match cvtFmt dst with
    | some fd => let r := fOfInt fd m 0 i; (BitVec.ofNat 64 r.1, r.2)
    | none =>
      if dst = 7 then
        let t := satInt i (intLo 32 true) (intHi 32 true)
        (BitVec.ofInt 64 t, flagIf (t ≠ i) fNV)
      else (BitVec.ofInt 64 i, 0)

/-- `fcvt` (R218). -/
def execFcvt (h : Hal) (d a : Reg) (mode dst src : BitVec 3) (s : State) : Out :=
  scalar (.fcvt h d a mode dst src) h 4 (fun s => .done (s.upd fun c =>
    let r := fcvtRes mode dst src (regGet c a)
    orFlags (regSet c d r.1) r.2)) s

end Sys2Proof.Machine
end

