-- ==== Sys2Proof/Machine/Stats.lean ====
section
/-! DEFINITION. The statistics group that executes on the control core (R278 to R282); `stbind` is posted to the stream engine
and stands with the stream group. -/

namespace Sys2Proof.Machine

/-- A record operand (R278): its id, after the checks that its reserved bits are zero and its index lies in its table. -/
def recOperand (v : DWord) (s : State) (k : BitVec 20 → Nat → State → Res) : Res :=
  if v.extractLsb' 20 44 ≠ 0 then .trap 0x01 v s
  else match recAddr s.core (v.setWidth 20) with
  | none => .trap 0x08 (v.setWidth 64 &&& 0xFFFFF) s
  | some pa => k (v.setWidth 20) pa s

/-- A flush of the entries that a condition selects; the instruction waits while one of them is held (R62, R280). -/
def flushRes (s : State) (p : Nat → Comb → Bool) : Res :=
  let s := flushComb s s.cur p
  if combClear s.core p then .done s else .wait s

/-- `stflush` (R280). -/
def execStflush (h : Hal) (a : Reg) (all : Bool) (s : State) : Out :=
  scalar (.stflush h a all) h 8 (fun s =>
    if all then flushRes s fun _ _ => true
    else recOperand (regGet s.core a) s fun id _ s => flushRes s fun _ e => e.id == id) s

/-- The translation that placed a virtual address, as a pin: the bytes of its page up to the end of their 4 KiB. -/
def usedXl (s : State) (va : Nat) : Loc → List TlbEntry
  | .phys pa pte =>
    let off := pa - pteFrame pte
    [⟨s.core.asid, va - off, off / 4096 * 4096 + 4096, pte⟩]
  | _ => []

/-- The checks of the 128-byte destination of `stread` and `streset` as a store, before any effect (R281): the translations that
the parts use, which their writes use again, and the fault of the first part that fails. -/
def destCheck (sp : BitVec 2) (ea : DWord) : Nat → State → State × List TlbEntry × Option (BitVec 8 × DWord)
  | 0, s => (s, [], none)
  | k + 1, s =>
    match destCheck sp ea k s with
    | (s, pins, some f) => (s, pins, some f)
    | (s, pins, none) =>
      let a := effAddr sp ea (8 * k : Nat)
      match resolve s (cWho s) pins sp a 8 .store with
      | (s, .error f) => (s, pins, some f)
      | (s, .ok l) => (s, pins ++ usedXl s (a.extractLsb' 0 56).toNat l, none)

/-- Writes the 16 parts of a sample by the translations of their check (R281), and whether none of them was held. A part does not
fault: its check has passed with the same translation. -/
def destWrite (sp : BitVec 2) (ea : DWord) (pins : List TlbEntry) (s : State) (r : List Byte) : State × Bool :=
  (nats 0 16).foldl (fun p k =>
    match storeAt p.1 (cWho p.1) pins sp (effAddr sp ea (8 * k : Nat)) 8 .store fun _ => leVal ((r.drop (8 * k)).take 8) with
    | (s, .held) => (s, false)
    | (s, _) => (s, p.2)) (s, true)

/-- `stread` and `streset` (R281): `f` is the step at the home die after the sample. The register values are checked first, the
whole destination range among them (R250), then the record table (R278), then the destination as a store: which of the last two
comes first the spec does not say (log 75). A byte budget holds the instruction as a whole, before the step. A poisoned record, or
one that no route leads to, has its entry in the report ring (R389). -/
def recMove (i : Instr) (h : Hal) (a b : Reg) (sp : BitVec 2) (f : State → Nat → State) (s : State) : Out :=
  scalar i h 8 (fun s =>
    let ea := regGet s.core a
    let v := regGet s.core b
    match firstFail [chk (v.extractLsb' 20 44 != 0) 0x01 v, chk (ea.extractLsb' 0 3 != 0) 0x02 ea, rangeCheck s sp ea 128] with
    | some (c, t) => .trap c t s
    | none => recOperand v s fun _ pa s =>
      match destCheck sp ea 16 s with
      | (s, _, some (c, t)) => .trap c t s
      | (s, pins, none) =>
        if recBad s s.cur pa then .trap 0x07 v (ringAppend s (cWho s) 0x07 false v 0 0)
        else match charge s s.cur pa 128 .rd with
        | none => .wait (holdAt s s.cur 0 v)
        | some t =>
          match destWrite sp ea pins (f t pa) (recRead t pa) with
          | (t, true) => .done (unhold t t.cur 0)
          | (_, false) => .wait (holdAt s s.cur 0 ea)) s

/-- `stread` (R281). -/
def execStread (h : Hal) (a b : Reg) (sp : BitVec 2) (s : State) : Out := recMove (.stread h a b sp) h a b sp (fun s _ => s) s
/-- `streset` (R168, R281). -/
def execStreset (h : Hal) (a b : Reg) (sp : BitVec 2) (s : State) : Out := recMove (.streset h a b sp) h a b sp recReset s
/-- The step of `starm` at the home die; a write that no route carries is dropped and reported (R455). -/
def armRes (s : State) (id : BitVec 20) (pa : Nat) (w : DWord) : Res :=
  if !usable s (dieOf s.cur) pa then .done (report s s.cur 0x08 (id.setWidth 64))
  else match charge s s.cur pa 4 .wr with
  | none => .wait (holdAt s s.cur 0 (id.setWidth 64))
  | some s => .done (unhold (recArm s pa w) s.cur 0)

/-- `starm` (R169, R282): where both operands fail check 1, `%tval` reports the record operand (the model's choice, log 21). -/
def execStarm (h : Hal) (a b : Reg) (s : State) : Out :=
  scalar (.starm h a b) h 8 (fun s =>
    let v := regGet s.core a
    let w := regGet s.core b
    if v.extractLsb' 20 44 ≠ 0 then .trap 0x01 v s
    else if !armOk w then .trap 0x01 w s
    else recOperand v s fun id pa s => armRes s id pa w) s

end Sys2Proof.Machine
end

