-- ==== Sys2Proof/Machine/Den.lean ====
section
/-! DEFINITION. The den (R414 to R423, R488): slots, the layout of section 0, saves and loads of a core's context. The bytes of
sections 1 to 57, which the spec leaves to the stepping, name the save whose content they hold (log 8). -/

namespace Sys2Proof.Machine

/-! ### Section 0 (R488) -/

/-- A run of equal-sized fields. -/
def secRun (off size step : Nat) (vs : List Nat) : List (Nat × Nat × Nat) := (vs.zip (List.range vs.length)).map fun p => (off + step * p.2, size, p.1)

def loopWords (l : Loop) : List Nat :=
  [l.index.toNat * 2 ^ 32 + l.remaining.toNat, l.start.toNat,
   (match l.stop with | some e => 2 ^ 63 + e.toNat | none => 0), if l.active then 1 else 0]

/-- A pending trap: a posted fault will return to the C-stream's PC and has `%pfrec`; a V-stream trap has its own `%epc`, and
`%vtrec` is the C-stream's PC (R251, R284, R488). -/
def trapWords (pc : VAddr) (t : PTrap) : List Nat :=
  let posted := decide (2 ≤ t.src.toNat)
  [2 ^ 63 + t.src.toNat * 2 ^ 13 + t.code.toNat, if posted then pc.toNat else t.epc.toNat, t.tval.toNat,
   if posted then t.pfrec.toNat else pc.toNat]

/-- The pending traps of a core in the order of R363. -/
def pendingList (c : Core) : List PTrap := [2, 3, 1, 4].filterMap fun k => smGet none c.ptraps k

/-- The oldest unreported report of a cause. -/
def oldest (c : Core) (code : BitVec 8) : Option Report := c.reports.find? fun r => r.code == code

/-- The fields of section 0 of a core: offset, size in bytes and value. -/
def sec0 (s : State) (n : Nat) (c : Core) : List (Nat × Nat × Nat) :=
  let k := c.ctl
  let kr (x : Nat) : Nat := if x = 4 then 0 else (kRead' x).toNat
  secRun 0 8 8 ((nats 0 64).map fun r => if r = 0 then 0 else (smGet 0 k.s r).toNat) ++
  secRun 0x200 8 8 ((nats 56 8).map fun r => (smGet 0 k.shadow r).toNat) ++
  secRun 0x240 8 8 ((nats 0 16).map fun r => (smGet 0 c.vec.e r).toNat) ++
  secRun 0x2C0 8 8 (((nats 0 6).map fun l => loopWords (smGet {} k.loops l)).flatten) ++
  secRun 0x380 8 8 ((nats 0 7).map kr) ++ secRun 0x400 8 8 ((nats 0x10 7).map kr) ++
  secRun 0x480 8 8 ((nats 0 4).map fun d => (smGet 0 k.rtseg d).toNat) ++
  secRun 0x4A0 8 8 [k.epc.toNat, (packCause k).toNat, k.tval.toNat, k.pfrec.toNat, k.vtrec.toNat, k.pc.toNat,
    c.vec.pc.toNat + (if c.vec.halted then 2 ^ 63 else 0), k.arrHandler.toNat, k.arrMask.toNat, k.arrPend.toNat, k.arrRet.toNat,
    (if k.inHandler then 1 else 0) + (if k.pendArrived then 2 else 0) + (if k.exited then 4 else 0)] ++
  secRun 0x500 1 1 ((nats 0 10).map fun i => halGet c i) ++ secRun 0x50A 1 1 ((nats 0 10).map fun i => heldGet c i) ++
  secRun 0x520 1 1 ((nats 0 32).map fun t => (tokGet c t).scope.toNat * 2 + (if tokPending c t then 1 else 0)) ++
  secRun 0x540 8 8 (c.c2v.map (·.toNat)) ++ [(0x580, 1, c.c2v.length)] ++
  secRun 0x588 8 8 (c.v2c.map (·.toNat)) ++ [(0x5C8, 1, c.v2c.length)] ++
  secRun 0x5D0 8 8 ((nats 0 16).map fun b => match smGet none k.waitPoints b with | some p => 2 ^ 32 + p.toNat | none => 0) ++
  secRun 0x650 8 8 (((pendingList c).map (trapWords k.pc)).flatten) ++
  [(0x6F0, 8, match oldest c 6 with | some r => r.tval.toNat | none => 0),
   (0x6F8, 8, match oldest c 8 with | some r => r.tval.toNat | none => 0),
   (0x700, 8, (if (oldest c 6).isSome then 1 else 0) + (if (oldest c 8).isSome then 2 else 0) +
     (match c.reports with | r :: _ => (if r.code = 8 then 4 else 0) | [] => 0))]
where
  /-- the control registers of R117 -/
  kRead' (x : Nat) : DWord :=
    match x with
    | 0 => c.ctl.fflags.setWidth 64
    | 1 => BitVec.ofNat 64 c.rank
    | 2 => if c.ctl.markDone then 2 else 0
    | 3 => packBudget (s.gangOf n)
    | 5 => c.asid.setWidth 64
    | 6 => packCoreid s n
    | 0x10 => BitVec.ofNat 64 c.vec.vl
    | 0x11 => packVtype c.vec
    | 0x12 => BitVec.ofNat 64 c.vec.vstart
    | 0x13 => 1536
    | 0x14 => c.vec.rngkey
    | 0x15 => c.vec.rngctr
    | 0x16 => c.vec.strec.setWidth 64
    | _ => 0

/-- The 2,048 bytes of section 0. -/
def sec0Mem (s : State) (n : Nat) (c : Core) : Mem := (sec0 s n c).foldl (fun m f => memWr m f.1 f.2.1 f.2.2) []

def smOf {α : Type} [DecidableEq α] (d : α) (l : List (Nat × α)) : SMap α := l.foldl (fun m p => smSet d m p.1 p.2) []

/-- The pending traps that section 0 holds. -/
def loadTraps (rd : Nat → Nat → Nat) : SMap (Option PTrap) :=
  (nats 0 5).foldl (fun m i =>
    let w := rd (0x650 + 32 * i) 8
    if w / 2 ^ 63 = 1 then
      let src := w / 2 ^ 13 % 8
      let posted := decide (2 ≤ src)
      smSet none m src (some ⟨BitVec.ofNat 3 src, BitVec.ofNat 8 w, if posted then 0 else BitVec.ofNat 56 (rd (0x658 + 32 * i) 8),
        BitVec.ofNat 64 (rd (0x660 + 32 * i) 8), if posted then BitVec.ofNat 64 (rd (0x668 + 32 * i) 8) else 0⟩)
    else m) []

/-- An address that a PC takes: the low bits of the word are not its (R209, R283). -/
def codeAddr (unit w : Nat) : VAddr := BitVec.ofNat 56 (w / unit * unit)

/-- A core as section 0 restores it, over the state the other sections give (R422, R488). -/
def sec0Load (rd : Nat → Nat → Nat) (c : Core) : Core :=
  let d (o : Nat) : DWord := BitVec.ofNat 64 (rd o 8)
  let vt := rd 0x408 8
  let fl := rd 0x4F8 8
  let rf := rd 0x700 8
  let r6 : List Report := if rf % 2 = 1 then [⟨0x06, d 0x6F0⟩] else []
  let r8 : List Report := if rf / 2 % 2 = 1 then [⟨0x08, d 0x6F8⟩] else []
  { c with
    ctl := { c.ctl with
      s := smOf 0 ((nats 1 63).map fun r => (r, d (8 * r)))
      shadow := smOf 0 ((nats 56 8).map fun r => (r, d (0x200 + 8 * (r - 56))))
      loops := smOf {} <| (nats 0 6).map fun l =>
        let o := 0x2C0 + 32 * l
        (l, { active := rd (o + 24) 8 % 2 == 1, remaining := BitVec.ofNat 32 (rd o 8), index := BitVec.ofNat 32 (rd o 8 / 2 ^ 32),
              start := codeAddr 4 (rd (o + 8) 8),
              stop := if rd (o + 16) 8 / 2 ^ 63 = 1 then some (codeAddr 4 (rd (o + 16) 8)) else none })
      fflags := BitVec.ofNat 6 (rd 0x380 8), markDone := rd 0x390 8 / 2 % 2 == 1
      rtseg := smOf 0 ((nats 0 4).map fun i => (i, d (0x480 + 8 * i)))
      epc := BitVec.ofNat 56 (rd 0x4A0 8), csrc := BitVec.ofNat 3 (rd 0x4A8 8 / 2 ^ 13), ccode := BitVec.ofNat 8 (rd 0x4A8 8)
      tval := d 0x4B0, pfrec := d 0x4B8, vtrec := BitVec.ofNat 56 (rd 0x4C0 8), pc := codeAddr 4 (rd 0x4C8 8)
      arrHandler := codeAddr 4 (rd 0x4D8 8), arrMask := BitVec.ofNat 48 (rd 0x4E0 8), arrPend := BitVec.ofNat 48 (rd 0x4E8 8)
      arrRet := codeAddr 4 (rd 0x4F0 8), inHandler := fl % 2 == 1, pendArrived := fl / 2 % 2 == 1, exited := fl / 4 % 2 == 1
      waitPoints := smOf none ((nats 0 16).map fun b =>
        let w := rd (0x5D0 + 8 * b) 8
        (b, if w / 2 ^ 32 % 2 = 1 then some (BitVec.ofNat 32 w) else none)) }
    vec := { c.vec with
      e := smOf 0 ((nats 0 16).map fun r => (r, d (0x240 + 8 * r)))
      vl := rd 0x400 8, sew := BitVec.ofNat 2 vt, grp := BitVec.ofNat 2 (vt / 4), kind := BitVec.ofNat 2 (vt / 16)
      vstart := rd 0x410 8, rngkey := d 0x420, rngctr := d 0x428, strec := BitVec.ofNat 21 (rd 0x430 8)
      pc := codeAddr 8 (rd 0x4D0 8), halted := rd 0x4D0 8 / 2 ^ 63 == 1 }
    cpy := { c.cpy with tok := smOf {} <| (nats 0 32).map fun t => (t, ⟨rd (0x520 + t) 1 % 2 == 1, BitVec.ofNat 3 (rd (0x520 + t) 1 / 2)⟩) }
    rank := rd 0x388 8, asid := BitVec.ofNat 10 (rd 0x3A8 8)
    hal := smOf 0 ((nats 0 10).map fun i => (i, rd (0x500 + i) 1)), held := smOf 0 ((nats 0 10).map fun i => (i, rd (0x50A + i) 1))
    c2v := (nats 0 (rd 0x580 1)).map fun i => d (0x540 + 8 * i)
    v2c := (nats 0 (rd 0x5C8 1)).map fun i => d (0x588 + 8 * i)
    ptraps := loadTraps rd
    reports := if rf / 4 % 2 = 1 then r8 ++ r6 else r6 ++ r8 }

/-! ### Slots (R414, R415) -/

/-- The length of a slot. -/
def slotLen (tcmBlocks : Nat) : Nat := 0x81000 + 4096 * tcmBlocks
/-- The slots reserved on the module, with their gang, rank and length. -/
def slotsOf (s : State) : List (Nat × Nat × Nat × Nat) :=
  (s.gangs.map fun g => (g.2.slots.zip (List.range g.2.slots.length)).map fun p => (p.1, g.1, p.2, slotLen g.2.tcmBlocks)).flatten
/-- The gang and the rank of a slot address. -/
def slotOwner (s : State) (a : Nat) : Option (Nat × Nat) := ((slotsOf s).find? fun p => p.1 == a).map fun p => (p.2.1, p.2.2.1)
/-- Whether a range of the den overlaps a reserved slot or a report ring in it. -/
def slotFree (s : State) (a len : Nat) : Bool :=
  !(slotsOf s).any (fun p => decide (a < p.1 + p.2.2.2) && decide (p.1 < a + len)) &&
  !s.ringBase.any (fun p => decide (a < p.2 + 98304) && decide (p.2 < a + len))
/-- The lowest free slot of a die's den from an address on, by at most `fuel` places (log 7). -/
def findSlot (s : State) (die len : Nat) : Nat → Nat → Option Nat
  | 0, _ => none
  | k + 1, a =>
    if smGet 0 s.denBase die + smGet 0 s.denSize die < a + len then none
    else if slotFree s a len then some a else findSlot s die len k (a + 4096)
/-- Reserves one slot for each rank of a task, aligned to 4,096 B (R414). -/
def findSlots (s : State) (die len : Nat) : Nat → List Nat → Option (List Nat)
  | 0, acc => some acc
  | k + 1, acc =>
    match findSlot (s.setGang 0 { slots := acc, tcmBlocks := (len - 0x81000) / 4096 }) die len
        (smGet 0 s.denSize die / 4096 + 1) ((smGet 0 s.denBase die + 4095) / 4096 * 4096) with
    | some a => findSlots s die len k (acc ++ [a])
    | none => none

def denRd (s : State) (a n : Nat) : Nat := memRd s.mem a n
def denWr (s : State) (a n v : Nat) : State := { s with mem := memWr s.mem a n v }
/-- The header of a slot when it is reserved: every field zero (R414). -/
def slotInit (s : State) (a : Nat) : State := { s with mem := memClear s.mem a 4096 }
/-- Whether a write into a die's den fails: its SRAM controller has failed (R371, R391). -/
def denFailed (s : State) (a : Nat) : Bool := (smGet {} s.poison (8 + (a - 0x008000000000) / 0x100000000)).failed

def rowExt (s : State) (a r : Nat) : Nat := denRd s (a + 0x100 + r) 1 % 16
def bitSet (s : State) (a i : Nat) : State := denWr s (a + i / 8) 1 (denRd s (a + i / 8) 1 ||| 2 ^ (i % 8))
def bitAt (s : State) (a i : Nat) : Bool := (denRd s (a + i / 8) 1).testBit (i % 8)

/-! ### Saves (R416 to R419) -/

/-- The save reason (R415). A thermal stop has none of its own: a free value of 1 to 4 (log 5). -/
def reasonCode (s : State) : Option StopWhy → Nat
  | some .budget => 1
  | some .deadline => 2
  | some .reservation => 3
  | some .ctxsave => 4
  | some .thermal => 1 + s.pick 4
  | _ => 4

/-- A core as `eret` would leave it, the low bits of the addresses it goes on at clear, as a PC has them (R209, R283). -/
def returned (c : Core) : Core :=
  ((eretCore c).updCtl fun k => { k with pc := codeAddr 4 k.pc.toNat }).updVec fun v => { v with pc := codeAddr 8 v.pc.toNat }

/-- A core as its save records it (R371): where it stopped at task privilege, with the convoy's first address in `%epc` where a
convoy stopped inside itself (R290), and else the C-stream's; in a handler, what `eret` would give. The other resume values of
a stop without a trap are 0 (log 76). -/
def resumeCore (c : Core) : Core :=
  if c.ctl.priv ≠ 0 then returned c
  else if c.vec.stop.waits && !c.vec.halted && (smGet none c.ptraps 1).isNone then
    c.updCtl fun k => { k with epc := c.vec.pc, csrc := 1, ccode := 0, tval := 0, vtrec := k.pc }
  else c.updCtl fun k => { k with epc := k.pc, csrc := 0, ccode := 0, tval := 0 }

/-! ### Sections 1 to 57 (R416, log 8) -/

def inboxOf (c : Core) (i : Nat) : List (BitVec 256) := smGet [] c.inbox i
/-- The first section of the group that a section belongs to: fragment and return stack, the stop record, the sett, the queues
with the control state of the engines, `qa`, `qb`, each inbox, and the multicast positions. -/
def secHead (k : Nat) : Nat :=
  if k ≤ 2 then k else if k < 16 then 3 else if k < 21 then 16 else if k < 26 then 21 else if k < 41 then 26 else k
/-- The progress of a started `qfill`: entries pushed and elements gathered, on each side. -/
def fillPart (p : Posted) : Option (Nat × Nat × List (Nat × Nat) × List (Nat × Nat)) :=
  match p.instr with
  | .qfill .. => if p.started then some (p.prog, p.progB, p.partA, p.partB) else none
  | _ => none
/-- The content of section 57: the positions of the multicast registers, and beside them the remaining counts of the `qfill` at the head
of the queue (R259). -/
def mcastPart (c : Core) : List (Nat × Nat) × Option (Nat × Nat × List (Nat × Nat) × List (Nat × Nat)) :=
  let l := (c.str.q.filter fun p => p.2.mcast != 0).map fun p => (p.1, p.2.pos)
  (l, if l.isEmpty then none else c.str.queue.head?.bind fillPart)
/-- A core with that content of another. -/
def mcastPut (c old : Core) : Core :=
  c.updStr fun t =>
    { t with q := t.q.map fun p => if p.2.mcast = 0 then p else (p.1, { p.2 with pos := (smGet {} old.str.q p.1).pos }),
             queue := match t.queue, (mcastPart old).2 with
               | p :: r, some x => (if (fillPart p).isSome then { p with prog := x.1, progB := x.2.1, partA := x.2.2.1, partB := x.2.2.2 } else p) :: r
               | l, _ => l }

/-- A core with the content of one section of another core; beside the spec's content, the model's own fields (log 74). -/
def secPut (c old : Core) (k : Nat) : Core :=
  if k = 1 then c.updVec fun v => { v with frag := old.vec.frag, ret := old.vec.ret }
  else if k = 2 then
    (c.updVec fun v => { v with stop := old.vec.stop, trapped := old.vec.trapped, brdMark := old.vec.brdMark, after := old.vec.after }).updCtl
      fun t => { t with took := old.ctl.took, exitOwed := old.ctl.exitOwed }
  else if k = 3 then c.updVec fun v => { v with sett := old.vec.sett }
  else if k = 16 then
    { c with str := { old.str with qa := c.str.qa, qb := c.str.qb, q := old.str.q.map fun p => (p.1, { p.2 with ahead := [] }) },
             grd := { old.grd with cells := c.grd.cells, dirty := c.grd.dirty },
             cpy := { old.cpy with tok := c.cpy.tok } }
  else if k = 21 then c.updStr fun t => { t with qa := old.str.qa }
  else if k = 26 then c.updStr fun t => { t with qb := old.str.qb }
  else if 41 ≤ k ∧ k ≤ 56 then { c with inbox := smSet [] c.inbox (k - 41) (inboxOf old (k - 41)) }
  else if k = 57 then mcastPut c old
  else c

/-- Whether a section of 1 to 57 has changed since the content `old`; a group of sections counts as one. What section 57 holds counts
for it alone. -/
def secChanged (old c : Core) (k : Nat) : Bool :=
  if k = 57 then mcastPart old != mcastPart c
  else if secHead k = 16 then mcastPut (secPut old c 16) old != old
  else secPut old c (secHead k) != old

/-- The address of a section. -/
def secAddr (a k : Nat) : Nat := a + 0x1000 + 2048 * k
/-- The content of the save that the bytes of a section name; for a number that no save has written, the content is free (R416). -/
def secCore (s : State) (num : Nat) : Core :=
  match smFind s.saves num with
  | some c => c
  | none => let l := {} :: s.saves.map (·.2); l.getD (s.pick l.length) {}
/-- The sections that head their group: 57 comes after 16, whose content it lies over. -/
def secHeads : List Nat := [1, 2, 3, 16, 21, 26] ++ nats 41 17
/-- The content of the valid sections of a slot over the task-start content (R422). -/
def slotCore (s : State) (a : Nat) : Core :=
  secHeads.foldl (fun c k => if bitAt s (a + 0x38) k then secPut c (secCore s (denRd s (secAddr a k) 8)) k else c) {}
/-- A core as the saves hold it: the rows and the TCM stand in the den. -/
def secOnly (c : Core) : Core := secHeads.foldl (fun o k => secPut o c k) {}
/-- The bytes of a section of the save with a number. -/
def secBytes (num k : Nat) : List Byte := leBytes num 8 ++ (List.range 2040).map fun i => Config.sectionByte num (2048 * k + i)

/-- The first line of the header with state 1, the progress fields cleared, the request clock (R418 step 1). The copies of a core that
saves itself stop as for a pre-emption (R371). The sequence number, and the extents and valid bits of what the save does not write,
are read from the header also where a sector of it is poisoned: the spec names no outcome (the model's choice, log 86). -/
def saveBegin (s : State) (n a : Nat) (full : Bool) : State :=
  let c := s.coreN n
  let g := s.gangOf n
  let s := flushAll s n
  let seq := denRd s (a + 8) 8 / 2 ^ 32
  let old := denRd s (a + 8) 8 / 2 ^ 24 % 256
  let s := denWr s a 8 (2 ^ 56 + 2 ^ 48 + g.asid.toNat * 2 ^ 32 + g.launchId.toNat)
  let s := denWr s (a + 8) 8 (seq * 2 ^ 32 + old * 2 ^ 24 + g.g * 256 + c.rank)
  let s := denWr s (a + 16) 8 (if g.why.isSome then g.reqClock.toNat else s.clock.toNat)
  let s := denWr s (a + 0x28) 8 g.tcmBlocks
  let s := denWr (denWr (denWr s (a + 0x30) 8 0) (a + 0x40) 32 0) (a + 0x60) 32 0
  let s := denWr s (a + 0x20) 8 0
  s.updN n fun c => { c.dropPins with ctxOp := some (a, true, full), ctxErr := false }

def addMoved (s : State) (a n : Nat) : State := denWr s (a + 0x20) 8 (denRd s (a + 0x20) 8 + n / 64)

/-- The extent a save writes of a row, 0 where it has nothing to write or has written it (R417, R419). -/
def rowDue (s : State) (n a : Nat) (full : Bool) (r : Nat) : Nat :=
  let d := dirtyGet (s.coreN n).grd r
  if bitAt s (a + 0x40) r then 0 else if full then max d (rowExt s a r) else d
/-- Saves one row (R417). -/
def saveRow (n a : Nat) (full : Bool) (s : State) (r : Nat) : State :=
  let c := s.coreN n
  let e := rowDue s n a full r
  if e = 0 then s
  else
    let s := (nats 0 (32 * e)).foldl (fun s j => denWr s (a + 0x21000 + 1536 * r + 4 * j) 4 (cellGet c.grd r j).toNat) s
    let s := denWr s (a + 0x100 + r) 1 (max (rowExt s a r) e)
    let s := s.updN n fun c => c.updGrd fun g => { g with dirty := smSet 0 g.dirty r 0 }
    addMoved (bitSet s (a + 0x40) r) a (128 * e)

/-- Whether a save has still to write a TCM block (R417, R419). -/
def blockDue (s : State) (n a : Nat) (full : Bool) (b : Nat) : Bool :=
  (full || smGet false (s.coreN n).tcmDirty b) && !bitAt s (a + 0x60) b
/-- Saves one TCM block (R417). A poisoned word gives no data (R390): the sectors of the den that take it become poisoned, so that
no load gives it back as good; the spec names no outcome of such a save (the model's choice, log 86). -/
def saveBlock (n a : Nat) (full : Bool) (s : State) (b : Nat) : State :=
  let c := s.coreN n
  if !blockDue s n a full b then s
  else
    let s := { s with mem := memPut s.mem (a + 0x81000 + 4096 * b) (memBytes c.tcm (4096 * b) 4096) }
    let s := (c.tcmPoison.filter fun x => x / 512 == b).foldl (fun s x => addPoison s (a + 0x81000 + 8 * x)) s
    let s := s.updN n fun c => { c with tcmDirty := smSet false c.tcmDirty b false }
    addMoved (bitSet (bitSet s (a + 0x60) b) (a + 0x80) b) a 4096

/-- Saves one section (R416, R417). -/
def saveSection (n a : Nat) (full : Bool) (old c : Core) (num : Nat) (s : State) (k : Nat) : State :=
  if !(full || k == 0 || secChanged old c k) || bitAt s (a + 0x30) k then s
  else
    let bytes := if k = 0 then memBytes (sec0Mem s n c) 0 2048 else secBytes num k
    addMoved (bitSet (bitSet { s with mem := memPut s.mem (secAddr a k) bytes } (a + 0x30) k) (a + 0x38) k) a 2048

/-- The sections, which a save writes last, with rank 0's barriers in the header (R415, R418). -/
def saveSections (s : State) (n a : Nat) (full : Bool) : State :=
  let c := resumeCore (s.coreN n)
  let old := slotCore s a
  let num := s.nextSave + 1
  let s := { s with saves := smPut s.saves num (secOnly c), nextSave := num }.bumpFree
  let s := (nats 1 57 ++ [0]).foldl (saveSection n a full old c num) s
  if (s.coreN n).rank = 0 then
    let g := s.gangOf n
    (nats 0 16).foldl (fun s b =>
      let v := smGet { expected := g.g } g.bar b
      let o := a + 0x200 + 32 * b
      denWr (denWr (denWr (denWr (denWr (denWr s o 4 v.phase.toNat) (o + 4) 1 v.expected) (o + 5) 1 v.arrivals)
        (o + 6) 1 (if v.cadence then 1 else 0)) (o + 8) 2 v.len) (o + 16) 8 v.start.toNat) s
  else s

/-- The next items of a save: the rows, then the TCM blocks, then the sections (R418 step 2). Items already written are skipped
(R419); a save may stop between these parts (log 7). -/
def saveItems (s : State) (n a : Nat) (full : Bool) : State :=
  let blocks := nats 0 (s.gangOf n).tcmBlocks
  if (nats 0 256).any fun r => rowDue s n a full r != 0 then (nats 0 256).foldl (saveRow n a full) s
  else if blocks.any (blockDue s n a full) then blocks.foldl (saveBlock n a full) s
  else saveSections s n a full

/-- Whether the items of the save in progress have been written: section 0 is the last. -/
def itemsDone (s : State) (a : Nat) : Bool := bitAt s (a + 0x30) 0

/-- A save whose writes into the den have failed ends with err, and commits nothing (R371). -/
def saveFailed (s : State) (n a : Nat) : State :=
  s.updN n fun c => { c with ctxOp := none, ctxStat := BitVec.ofNat 64 (denRd s (a + 0x20) 4 * 4 + 2),
                             ctl := { c.ctl with event := c.ctl.event ||| 8 } }

/-- The commit (R418 step 3). -/
def saveCommitAt (s : State) (n a : Nat) : State :=
  let g := s.gangOf n
  let w := denRd s (a + 8) 8
  let seq := (w / 2 ^ 32 + 1) % 2 ^ 32
  let s' := denWr s (a + 8) 8 (seq * 2 ^ 32 + reasonCode s g.why * 2 ^ 24 + w % 2 ^ 24)
  let s' := denWr s' (a + 0x18) 8 s.clock.toNat
  let s' := denWr s' (a + 7) 1 2
  let moved := denRd s (a + 0x20) 4
  { s' with free := s'.free + 1 }.updN n fun c =>
    { c with ctxOp := none, savedAt := some a, ctxStat := BitVec.ofNat 64 (moved * 4),
             ctl := { c.ctl with event := c.ctl.event ||| 8 } }

/-! ### Loads (R422) -/

/-- Whether a run of `n` bytes holds a poisoned sector. -/
def runBad (s : State) (a n : Nat) : Bool := (nats (a / 32) ((a + n + 31) / 32 - a / 32)).any fun i => poisoned s (32 * i)
/-- Whether what a load reads beyond the header is free of poison: the rows, the blocks and the sections that the header marks
(R371, R392). -/
def slotClean (s : State) (a blocks : Nat) : Bool :=
  (nats 0 256).all (fun r => !runBad s (a + 0x21000 + 1536 * r) (128 * rowExt s a r)) &&
  (nats 0 blocks).all (fun b => !(bitAt s (a + 0x80) b && runBad s (a + 0x81000 + 4096 * b) 4096)) &&
  (nats 0 58).all fun k => !(bitAt s (a + 0x38) k && runBad s (secAddr a k) 2048)
/-- Whether a slot can be loaded (R371, R422 step 1). -/
def slotOk (s : State) (a : Nat) (asid : BitVec 10) (blocks : Nat) : Bool :=
  denRd s (a + 7) 1 == 2 && denRd s a 8 / 2 ^ 32 % 1024 == asid.toNat && !runBad s a 4096 && slotClean s a blocks

def loadRows (s : State) (a : Nat) : SMap Word :=
  (nats 0 256).foldl (fun m r => (nats 0 (32 * rowExt s a r)).foldl (fun m j =>
    smSet 0 m (384 * r + j) (BitVec.ofNat 32 (denRd s (a + 0x21000 + 1536 * r + 4 * j) 4))) m) []
def loadTcm (s : State) (a blocks : Nat) : Mem :=
  (nats 0 blocks).foldl (fun m b => if bitAt s (a + 0x80) b then memPut m (4096 * b) (memBytes s.mem (a + 0x81000 + 4096 * b) 4096) else m) []

/-- The first blocks of a TCM are owned by an ASID (R42). -/
def ownAll (m : SMap Nat) (blocks asid : Nat) : SMap Nat := (nats 0 blocks).foldl (fun m b => smPut m b asid) m

/-- Loads the context in a slot into core `n` (R422): TCM beyond the allotment keeps its content. The core stops at its next
boundary at task privilege, until the gang resumes together (R423). What belongs to the core and not to the task stays: the
translations, the supervisor's registers, the profiler's counters (R452). Its V-stream fetches memory as the load finds it, until one
of the events of R283 (log 82). -/
def loadCore (s : State) (n a : Nat) (g : Nat) : State :=
  let t := s.gangN g
  let c := s.coreN n
  let sh := slotCore s a
  let keep := c.tcm.filter fun p => decide (4096 * t.tcmBlocks ≤ p.1)
  let base : Core := { sh with
    tcm := loadTcm s a t.tcmBlocks ++ keep, tcmDirty := c.tcmDirty.filter (fun p => decide (t.tcmBlocks ≤ p.1)),
    tcmPoison := c.tcmPoison.filter (fun x => decide (512 * t.tcmBlocks ≤ x)),
    tcmOwner := ownAll c.tcmOwner t.tcmBlocks t.asid.toNat,
    grd := { sh.grd with cells := loadRows s a },
    vec := { sh.vec with retired := c.vec.retired, samples := c.vec.samples, img := some s.mem },
    tlb := c.tlb, walkc := c.walkc, seq := c.seq, frozen := c.frozen, freezeLatch := c.freezeLatch, ctxStat := c.ctxStat,
    cadMiss := c.cadMiss, lanes := c.lanes, updNum := c.updNum, lastGrant := c.lastGrant, lastBar := c.lastBar, gang := g, placement := t.loads, run := .run, latched := true,
    ctl := { sh.ctl with
      sup := c.ctl.sup, nest := c.ctl.nest, priv := c.ctl.priv, tvec := c.ctl.tvec,
      scratch0 := c.ctl.scratch0, scratch1 := c.ctl.scratch1, event := c.ctl.event } }
  (s.setCoreN n (sec0Load (fun o k => denRd s (a + 0x1000 + o) k) base)).bumpFree

/-- Restores the barriers of a gang from rank 0's header (R231). -/
def loadBars (s : State) (g a : Nat) : State :=
  s.updGang g fun t => { t with bar := (nats 0 16).map fun b =>
    let o := a + 0x200 + 32 * b
    (b, { expected := denRd s (o + 4) 1, arrivals := denRd s (o + 5) 1, cadence := denRd s (o + 6) 1 == 1,
          len := denRd s (o + 8) 2, phase := BitVec.ofNat 32 (denRd s o 4), start := BitVec.ofNat 64 (denRd s (o + 16) 8) }) }

/-- A gang's budget from rank 0's slot (R488), unless a period has started since the request of its save, which has set it anew
(R59, log 71). -/
def loadBudget (s : State) (g a : Nat) : State :=
  s.updGang g fun t =>
    if t.period = 0 ∨ (BitVec.ofNat 64 (denRd s (a + 0x10) 8) - t.base).toNat / (t.period * 6000) < t.curPeriod then t
    else { t with budget := denRd s (secAddr a 0 + 0x398) 8 }

/-! ### The end of a stop -/

/-- Writes the deadline record that a stop owes, with rank 0's C-stream PC at the stop (R372, R406). -/
def deadlineRecord (s : State) (g : Nat) : State :=
  let t := s.gangN g
  let n := t.cores.headD 0
  let c := s.coreN n
  match t.dlRec with
  | some clk =>
    faultRecordAt clk (s.setGang g { t with dlRec := none }) n 0x09 0 false (if c.ctl.priv = 0 then c.ctl.pc else (returned c).ctl.pc) 0 0 0
  | none => s

/-- A gang whose ranks have all stopped and committed is saved: its cores are freed (R403, R413). A cancellation, or the end as
faulted, that came during the save then ends the task (R409, R370). -/
def settleSaved (s : State) (g : Nat) : State :=
  let t := s.gangN g
  if t.cores.all fun n => (s.coreN n).run == .stopped && (s.coreN n).savedAt.isSome then
    let why := reasonCode s t.why
    let s := deadlineRecord s g
    let s := t.cores.foldl (fun s n => freeCore (trace s 2 n (s.coreN n).ctl.pc 0 why) n) s
    let s := s.setGang g { t with life := .saved, why := none, doom := none, dlRec := none, ranOut := none, cores := [],
                                  resumeAt := match t.ranOut with | some p => max t.resumeAt (p + 1) | none => t.resumeAt }
    if t.doom = some .faulted then endTask s g 5
    else match smFind s.launches t.launch with
    | some l => if l.cancelled || t.doom.isSome then endTask s g 6 else s
    | none => s
  else s

/-- `eret` of a core whose task has been saved and not resumed: the gang resumes in place once every rank has committed
(R368). -/
def resumeInPlace (s : State) (g : Nat) : State :=
  let t := s.gangN g
  let s := s.setGang g { t with life := .resident, why := none }
  t.cores.foldl (fun s n => s.updN n fun c =>
    { c with latched := false, savedAt := none, run := if c.ctl.exited then .stopped else .run,
             ctl := { c.ctl with exiting := false } }) s

end Sys2Proof.Machine
end

