-- ==== Sys2Proof/Machine/System.lean ====
section
/-! DEFINITION. The system instructions of major 0x3F (R367 to R374) and the exit of a rank (R44). -/

namespace Sys2Proof.Machine

/-- A system instruction: at task privilege it traps with cause 0x08 before anything else (R183, R185, R367). -/
def sysOp (i : Instr) (h : Hal) (body : State → Res) (s : State) : Out :=
  if s.core.ctl.priv = 0 then .next (takeTrap s s.cur 0 0x08 s.core.ctl.pc (encWord i) none) else scalar i h 4 body s

/-! ### The exit of a rank (R44) -/

/-- Whether everything a rank's exit waits for holds on its core, the flush apart. A trap that is still to be taken comes first. -/
def exitIdle (c : Core) : Bool :=
  c.vec.halted && c.vec.cv.isNone && c.vec.after.isEmpty && c.ptraps.all (·.2.isNone) && pendLike c && c.grd.queue.isEmpty &&
  c.grd.issued.isEmpty && c.grd.dones.isEmpty && c.grd.owed.isEmpty
where
  /-- the stream and copy engines, the slots and the stores -/
  pendLike (c : Core) : Bool :=
    c.vec.scat.isEmpty && c.inflight.isEmpty && c.str.queue.isEmpty && c.cpy.queue.isEmpty && c.cpy.flight.isEmpty &&
    c.cpy.tok.all fun p => !p.2.pending

def exitReady (c : Core) : Bool := exitIdle c && combEmpty c

/-- A rank's exit completes, with the signals of its `ecall` (R52); the last rank's exit ends the task (R44). -/
def completeExit (s : State) (n : Nat) : State :=
  let s := s.updN n fun c =>
    let c := signal s.clock c 0 (c.ctl.took.getD 0)
    { c with run := .stopped, ctl := { c.ctl with exited := true, exiting := false, exitOwed := false, took := none } }
  let g := s.gid n
  if (s.gangN g).cores.all fun m => (s.coreN m).ctl.exited then endTask s g 0 else s

/-- A rank that exits: where its engines are idle its buffers are flushed, and its exit completes once they are; whether it did. -/
def exitTry (s : State) (n : Nat) : State × Bool :=
  let s := if exitIdle (s.coreN n) then flushAll s n else s
  if exitReady (s.coreN n) then (completeExit s n, true) else (s, false)

/-! ### Resuming together (R423) -/

def traceStart (s : State) (g : Nat) : State :=
  (s.gangN g).cores.foldl (fun s n => trace s 1 n (s.coreN n).ctl.pc 0 (s.gangN g).launchId.toNat) s

/-- Whether every rank of a loading gang is loaded; each has stopped at its resume point, or runs its handler (R371). -/
def loaded (s : State) (g : Nat) : Bool :=
  let t := s.gangN g
  t.life == .loading && t.cores.all fun n =>
    decide (n < 192) && ((s.coreN n).run == .stopped || (s.coreN n).ctl.priv != 0) && !(s.coreN n).frozen && !(s.coreN n).freezeLatch

/-- The gang becomes resident; a request that came during the load latches now (R424). -/
def resumeGang (s : State) (g : Nat) : State :=
  let t := s.gangN g
  let s := t.cores.foldl (fun s n => s.updN n fun c => { c with latched := false, run := if c.ctl.exited then .stopped else .run }) s
  let s := s.setGang g { t with life := .resident, ranIn := some t.curPeriod, why := none }
  let s := traceStart s g
  match t.why with | some w => latchGang s g w | none => s

/-! ### eret, wfi -/

/-- The gang's request that has waited for a handler acts at its `eret` (R366). A task saved by its handler resumes in place,
unless a cancellation or a faulted end has come meanwhile (R368, R409); a save in progress is waited for (log 58). -/
def eretTask (s : State) (n : Nat) : Res :=
  let g := s.gid n
  let t := s.gangN g
  let c := s.coreN n
  if !c.latched then .own (s.updN n eretCore)
  else if t.why = some .ctxsave ∧ c.ctxOp.isSome = true then .wait s
  else if t.why = some .ctxsave ∧ c.savedAt.isSome = true then
    if t.doom.isSome then .own (settleSaved (stopCore s n) g)
    else if t.cores.all fun m => m == n || (s.coreN m).savedAt.isSome then .own (resumeInPlace (s.updN n eretCore) g)
    else .wait s
  else .own (stopCore (s.updN n eretCore) n)

/-- `eret` (R368): the addresses are checked before any effect. -/
def execEret (h : Hal) (s : State) : Out :=
  sysOp (.eret h) h (fun s =>
    match eretFault s.core.ctl with
    | some (c, v) => .trap c v s
    | none => if s.core.ctl.ppriv = 0 ∧ s.core.hasTask = true then eretTask s s.cur else .own (s.upd eretCore)) s

/-- `wfi` (R369). -/
def execWfi (h : Hal) (s : State) : Out :=
  sysOp (.wfi h) h (fun s => if s.core.ctl.event ≠ 0 then .done s else .wait s) s

/-! ### Translation maintenance (R374, R382, R385, R386) -/

/-- The cores within a scope of `tlbinv` and `tlbflush`: core, cluster, die, module (R133). -/
def scopeCores (n : Nat) (scope : BitVec 2) : List Nat :=
  if scope = 0 then [n] else if scope = 1 then nats (24 * clusterOf n) 24 else if scope = 2 then nats (48 * dieOf n) 48 else nats 0 192
def scopeClusters (n : Nat) (scope : BitVec 2) : List Nat :=
  if scope.toNat ≤ 1 then [clusterOf n] else if scope = 2 then nats (2 * dieOf n) 2 else nats 0 8

/-- Whether work of a core still holds a pin that a discard names. -/
def pinHeld (c : Core) (p : TlbEntry → Bool) : Bool :=
  c.cpy.flight.any (fun f => f.pins.any p) || (match c.vec.cv with | some v => v.pins.any p | none => false)

/-- The trace units of the scope: a page whose entry no longer translates is released at once; another is waited for (R386). An entry
that cannot be read, for poison or for want of a route, counts as failing: the model's choice, the spec names valid entries and those
that fail R378 (log 86). -/
def traceUnpin (p : TlbEntry → Bool) (s : State) (k : Nat) : State :=
  let d := s.dbgOf k
  if d.trcPins.any p then
    s.setDbg k { d with trcPins := d.trcPins.filter fun t => !(p t) || (match walk s (k / 2) t.asid t.base with | .ok .. => true | _ => false) }
  else s

/-- Drops what a core's translation structures hold of the ASIDs and pages that the conditions name: leaves, look-ahead and
tables (R380, R382). -/
def Core.forget (c : Core) (p : TlbEntry → Bool) (q : WalkEntry → Bool) : Core :=
  { c with tlb := c.tlb.filter fun t => !p t, walkc := c.walkc.filter fun t => !q t,
           str := { c.str with q := c.str.q.map fun x => (x.1, { x.2 with ahead := x.2.ahead.filter fun t => !p t }) } }

/-- A convoy stalled at an element group, or held at a memory port, ends its chunk there where a discard needs one of its pins; it
forms a new chunk when it proceeds (R385). -/
def Core.endChunk (c : Core) (p : TlbEntry → Bool) : Core :=
  c.updVec fun v => { v with cv := v.cv.map fun t => if t.stalled && t.pins.any p then { t with pins := [], chunk := max t.lo t.mlo, noted := none } else t }

/-- Discards every cached translation in scope that the conditions name; completes when no pin and no trace page is left. -/
def discard (n : Nat) (scope : BitVec 2) (p : TlbEntry → Bool) (q : WalkEntry → Bool) (s : State) : Res :=
  let cs := (scopeCores n scope).filter fun m => smHas s.cores m
  let s := cs.foldl (fun s m => s.updN m fun c => (c.forget p q).endChunk p) s
  let ks := scopeClusters n scope
  let s := ks.foldl (traceUnpin p) s
  if cs.any (fun m => pinHeld (s.coreN m) p) || ks.any (fun k => (s.dbgOf k).trcPins.any p) then .wait s else .done s

/-- `tlbinv` (R374). -/
def execTlbinv (h : Hal) (scope : BitVec 2) (a b : Reg) (s : State) : Out :=
  sysOp (.tlbinv h scope a b) h (fun s =>
    let w := regGet s.core b
    if w.extractLsb' 10 54 ≠ 0 then .trap 0x01 w s
    else
      let va := ((regGet s.core a).extractLsb' 0 56).toNat
      discard s.cur scope (fun t => t.covers (w.setWidth 10) va) (fun _ => false) s) s
/-- `tlbflush` (R374). -/
def execTlbflush (h : Hal) (scope : BitVec 2) (a : Reg) (s : State) : Out :=
  sysOp (.tlbflush h scope a) h (fun s =>
    let w := regGet s.core a
    if w.extractLsb' 11 53 ≠ 0 ∨ (w.getLsbD 10 = true ∧ w.extractLsb' 0 10 ≠ 0) then .trap 0x01 w s
    else discard s.cur scope (fun t => w.getLsbD 10 || t.asid == w.setWidth 10) (fun t => w.getLsbD 10 || t.asid == w.setWidth 10) s) s

/-! ### Context instructions (R371) -/

/-- `ctxsave` (R371): the gang stops as for a pre-emption (R410), and this core's save begins. -/
def execCtxsave (h : Hal) (a b : Reg) (s : State) : Out :=
  sysOp (.ctxsave h a b) h (fun s =>
    let n := s.cur
    let x := regGet s.core a
    let w := regGet s.core b
    if w.extractLsb' 1 63 ≠ 0 then .trap 0x01 w s
    else if x.extractLsb' 0 12 ≠ 0 then .trap 0x02 x s
    else match slotOwner s x.toNat with
    | none => .trap 0x08 x s
    | some (g, _) =>
      if (s.gangN g).asid ≠ s.core.asid then .trap 0x08 x s
      else if !s.core.hasTask then .trap 0x08 x s
      else if s.core.ctxOp.isSome then .wait s
      else .done (saveBegin (latchGang s (s.gid n) .ctxsave) n x.toNat (w.getLsbD 0))) s

/-- The bytes a load reads, in units of 64 B. -/
def loadUnits (s : State) (a blocks : Nat) : Nat :=
  ((nats 0 256).map fun r => 2 * rowExt s a r).foldl (· + ·) 0 + ((nats 0 blocks).countP fun b => bitAt s (a + 0x80) b) * 64 +
  ((nats 0 58).countP fun k => bitAt s (a + 0x38) k) * 32

/-- Loads a slot into core `n` as the rank it holds (R371, R422). -/
def loadRank (s : State) (n a g r : Nat) : State :=
  let t := s.gangN g
  let t := if t.life = .saved then { t with life := .loading, loads := t.loads + 1, cores := List.replicate t.g 192 } else t
  let s := s.setGang g { t with cores := t.cores.set r n }
  let s := loadCore s n a g
  if r = 0 then loadBudget (loadBars s g a) g a else s

/-- `ctxload` (R371). A core without a task holds ASID 0, which owns no slot, so the owner is the slot's own (log 14). The task is
resident once its last rank is loaded; this core's engines wait for the handler's `eret` (R366). -/
def execCtxload (h : Hal) (a : Reg) (s : State) : Out :=
  sysOp (.ctxload h a) h (fun s =>
    let n := s.cur
    let x := regGet s.core a
    if x.extractLsb' 0 12 ≠ 0 then .trap 0x02 x s
    else match slotOwner s x.toNat with
    | none => .trap 0x08 x s
    | some (g, r) =>
      if s.core.hasTask then .trap 0x08 x s
      else if s.core.ctxOp.isSome then .wait s
      else
        let ok := slotOk s x.toNat (s.gangN g).asid (s.gangN g).tcmBlocks
        let u := loadUnits s x.toNat (s.gangN g).tcmBlocks
        let s := if ok then loadRank s n x.toNat g r else s
        let s := if ok && loaded s g then resumeGang s g else s
        .done (s.upd fun c => { c with loadHeld := ok, ctxStat := if ok then BitVec.ofNat 64 (u * 4 + 1) else 3,
                                       ctl := { c.ctl with event := c.ctl.event ||| 8 } })) s

/-- `ctxwait` (R371). -/
def execCtxwait (h : Hal) (d : Reg) (s : State) : Out :=
  sysOp (.ctxwait h d) h (fun s => if s.core.ctxOp.isSome then .wait s else .done (s.upd fun c => regSet c d c.ctxStat)) s

/-! ### halt (R370) -/

/-- A yield gives up the rest of the period: an elastic task with a budget resumes at the next period start (R373). How the command
processor learns that a suspended task has yielded is left open: it sees the `ecall` of service 3 as the trap that the handler ends
with disposition 2 (the model's choice, log 85). -/
def yieldPeriod (k : Ctl) (t : Gang) : Gang :=
  if k.ccode = 0x0E ∧ k.tval = 3 ∧ t.guaranteed = false ∧ t.period ≠ 0 then { t with resumeAt := t.curPeriod + 1 } else t

/-- `halt` at supervisor privilege (R370). An exit that a stop of the gang puts off is owed, and goes on after the resume. Disposition
0 on a core with no resident task, for which the spec names no effect, frees the core (the model's choice, log 85). -/
def haltTask (x y : DWord) (s : State) : Res :=
  let n := s.cur
  let c := s.core
  let k := c.ctl
  if x = 0 then
    if k.ppriv ≠ 0 then .trap 0x08 x s
    else if !c.hasTask then .own (freeCore s n)
    else
      let (s, out) := exitTry s n
      if out then .own s
      else if c.latched then .own (stopCore (s.updN n fun c => (returned c).updCtl fun t => { t with exitOwed := true }) n)
      else .wait s
  else if x = 1 then
    if c.hasTask then .own (faultTask (faultRecord s n k.ccode k.csrc false k.epc k.tval k.pfrec y) n) else .trap 0x08 x s
  else if x = 2 then
    if c.hasTask && c.savedAt == some y.toNat then
      .own (settleSaved (stopCore (s.updGang (s.gid n) (yieldPeriod k)) n) (s.gid n))
    else .trap 0x08 x s
  else .trap 0x01 x s

/-- `halt` (R370): at firmware privilege only `halt s0, s0`, which stops the core until core reset. -/
def execHalt (h : Hal) (a b : Reg) (s : State) : Out :=
  sysOp (.halt h a b) h (fun s =>
    if s.core.ctl.priv = 2 then
      if a = 0 ∧ b = 0 then .own (s.upd fun c => c.updCtl fun k => { k with waitReset := true })
      else .trap 0x01 (regGet s.core (if a = 0 then b else a)) s
    else haltTask (regGet s.core a) (regGet s.core b) s) s

end Sys2Proof.Machine
end

