-- ==== Sys2Proof/Machine/Issue.lean ====
section
/-! DEFINITION. The instructions of the C-stream by their constructor, for the questions that come before one issues (R241, R363). -/

namespace Sys2Proof.Machine

/-- Runs one instruction of the C-stream on the acting core. -/
def ctlOut (i : Instr) (s : State) : Out :=
  match i with
  | .add h d a b => execAdd h d a b s
  | .sub h d a b => execSub h d a b s
  | .mul h d a b => execMul h d a b s
  | .mulh h d a b => execMulh h d a b s
  | .mulhn h d a b => execMulhn h d a b s
  | .div h d a b => execDiv h d a b s
  | .divn h d a b => execDivn h d a b s
  | .rem h d a b => execRem h d a b s
  | .remn h d a b => execRemn h d a b s
  | .and h d a b => execAnd h d a b s
  | .or h d a b => execOr h d a b s
  | .xor h d a b => execXor h d a b s
  | .sll h d a b => execSll h d a b s
  | .srl h d a b => execSrl h d a b s
  | .sra h d a b => execSra h d a b s
  | .slt h d a b => execSlt h d a b s
  | .sltn h d a b => execSltn h d a b s
  | .min h d a b => execMin h d a b s
  | .max h d a b => execMax h d a b s
  | .minn h d a b => execMinn h d a b s
  | .maxn h d a b => execMaxn h d a b s
  | .clz h d a => execClz h d a s
  | .ctz h d a => execCtz h d a s
  | .popc h d a => execPopc h d a s
  | .adda h d a b => execAdda h d a b s
  | .tagset h d a b => execTagset h d a b s
  | .tagget h d a => execTagget h d a s
  | .fadd h d a b => execFadd h d a b s
  | .fmul h d a b => execFmul h d a b s
  | .fmin h d a b => execFmin h d a b s
  | .fmax h d a b => execFmax h d a b s
  | .fcmpEq h d a b => execFcmpEq h d a b s
  | .fcmpLt h d a b => execFcmpLt h d a b s
  | .fcmpLe h d a b => execFcmpLe h d a b s
  | .barinit h a b => execBarinit h a b s
  | .barinitCad h d a b => execBarinitCad h d a b s
  | .bararr h b => execBararr h b s
  | .barwait h b => execBarwait h b s
  | .pend h b => execPend h b s
  | .pendCad h b => execPendCad h b s
  | .tkwait h t => execTkwait h t s
  | .tkpoll h d t => execTkpoll h d t s
  | .vstart h a => execVstart h a s
  | .vpush h a => execVpush h a s
  | .vpop h d => execVpop h d s
  | .vsync h => execVsync h s
  | .inpop h d b => execInpop h d b s
  | .inpeek h d b => execInpeek h d b s
  | .aiset h a b => execAiset h a b s
  | .aret h => execAret h s
  | .ecall h => execEcall h s
  | .ebreak h => execEbreak h s
  | .pause h => execPause h s
  | .addi h d a imm => execAddi h d a imm s
  | .andi h d a imm => execAndi h d a imm s
  | .ori h d a imm => execOri h d a imm s
  | .xori h d a imm => execXori h d a imm s
  | .slli h d a sh => execSlli h d a sh s
  | .srli h d a sh => execSrli h d a sh s
  | .srai h d a sh => execSrai h d a sh s
  | .slti h d a imm => execSlti h d a imm s
  | .fcvt h d a mode dst src => execFcvt h d a mode dst src s
  | .ld h d a sp sz off => execLd h d a sp sz off s
  | .ldn h d a sp sz off => execLdn h d a sp sz off s
  | .st h d a sp sz off => execSt h d a sp sz off s
  | .jalr h d a imm => execJalr h d a imm s
  | .lpset h n a imm => execLpset h n a imm s
  | .lpidx h d n => execLpidx h d n s
  | .fence h scope => execFence h scope s
  | .kget h d k => execKget h d k s
  | .kset h a k => execKset h a k s
  | .kbis h a k => execKbis h a k s
  | .kbic h a k => execKbic h a k s
  | .li h d imm => execLi h d imm s
  | .lis h d imm => execLis h d imm s
  | .jal h d off => execJal h d off s
  | .beq h a b off => execBeq h a b off s
  | .bne h a b off => execBne h a b off s
  | .blt h a b off => execBlt h a b off s
  | .bge h a b off => execBge h a b off s
  | .bltn h a b off => execBltn h a b off s
  | .bgen h a b off => execBgen h a b off s
  | .lpend h n off => execLpend h n off s
  | .amo h d a b op m => execAmo h d a b op m s
  | .amocas h d a b c m => execAmocas h d a b c m s
  | .waitge h a b m => execWaitge h a b m s
  | .ldOrdered h d a m => execLdOrdered h d a m s
  | .ldnOrdered h d a m => execLdnOrdered h d a m s
  | .stOrdered h d a m => execStOrdered h d a m s
  | .qbase h a b n sp ssp => execQbase h a b n sp ssp s
  | .qdim h d a b n j k => execQdim h d a b n j k s
  | .qfmt h a n fmt tgt => execQfmt h a n fmt tgt s
  | .qstart h a n => execQstart h a n s
  | .qstop h n => execQstop h n s
  | .qstat h a n sp t => execQstat h a n sp t s
  | .qfill h a srcA srcB na nb => execQfill h a srcA srcB na nb s
  | .qrow h a n v => execQrow h a n v s
  | .qstore h a n col idx cvt mode t scope tke => execQstore h a n col idx cvt mode t scope tke s
  | .gupd h a fa fb half => execGupd h a fa fb half s
  | .gclr h v n1 => execGclr h v n1 s
  | .gdone h v n1 => execGdone h v n1 s
  | .glim h cols1 rows1 => execGlim h cols1 rows1 s
  | .gchk h => execGchk h s
  | .xcopy h d a b f => execXcopy h d a b f s
  | .xfill h d a b f => execXfill h d a b f s
  | .xtag h d a b f => execXtag h d a b f s
  | .xtagrd h d a b f => execXtagrd h d a b f s
  | .xgath h d a b f => execXgath h d a b f s
  | .xscat h d a b f => execXscat h d a b f s
  | .xsadd h d a b f => execXsadd h d a b f s
  | .xbcast h d a b f => execXbcast h d a b f s
  | .xred h d a b f => execXred h d a b f s
  | .xenq h d a b f => execXenq h d a b f s
  | .xpref h a b f => execXpref h a b f s
  | .stbind h a n => execStbind h a n s
  | .stflush h a all => execStflush h a all s
  | .stread h a b sp => execStread h a b sp s
  | .streset h a b sp => execStreset h a b sp s
  | .starm h a b => execStarm h a b s
  | .eret h => execEret h s
  | .wfi h => execWfi h s
  | .tlbinv h scope a b => execTlbinv h scope a b s
  | .tlbflush h scope a => execTlbflush h scope a s
  | .ctxsave h a b => execCtxsave h a b s
  | .ctxload h a => execCtxload h a s
  | .ctxwait h d => execCtxwait h d s
  | .halt h a b => execHalt h a b s
  | _ => .next s

end Sys2Proof.Machine
end

