-- ==== Sys2Proof/Machine/Events.lean ====
section
/-! DEFINITION. Events of the control core and of the combining buffers: what is due at a C-stream boundary (R241, R251, R363),
the waits that end by themselves (R153, R229, R245), held signals (R53), deferred reports (R388), and the ageing and the
application of combining entries (R165, R166). An event that is not due leaves the state as it is. -/

namespace Sys2Proof.Machine

/-! ### The C-stream boundary -/

/-- Whether a control core can move at all: it runs code, and neither a freeze, a core reset to come nor its exit holds it. -/
def ctlAlive (c : Core) : Bool :=
  c.run == .run && !c.frozen && !c.freezeLatch && !c.ctl.waitReset && !c.ctl.exited

/-- Whether a core has a latched stop of its gang to make at its boundary: at task privilege (R366, R411), its clock running. -/
def stopDue (c : Core) : Bool := c.run == .run && c.latched && c.ctl.priv == 0 && !c.frozen && !c.ctl.waitReset && !c.ctl.exited
/-- Whether the C-stream stands at a boundary: not inside a `pause`, nor in a `pend` past its arrival (R234, R245). -/
def atBoundary (c : Core) : Bool := ctlAlive c && c.ctl.pauseEnd.isNone && !c.ctl.pendArrived

/-- The trap due at the boundary of a task (R363); while a stop of the gang is latched nothing is delivered. -/
def dueTrap (c : Core) : Option PTrap := if atBoundary c && c.ctl.priv == 0 && !c.latched then duePending c else none

/-- Takes a trap that is due; an exiting `ecall` is abandoned (R44). -/
def takeDue (s : State) (n : Nat) (t : PTrap) : State :=
  takePending (s.updN n fun c => c.updCtl fun k => { k with exiting := false }) n t

/-- Event: a due trap is entered (R363, R364). -/
def execTrapEntry (core : Nat) (s : State) : Out :=
  .next <| match dueTrap (s.coreN core) with
  | some t => takeDue s core t
  | none => s

/-- What the fetch of the instruction at the PC answers. -/
inductive CFetch where
  | words (w0 w1 : Word)
  | fault (code : BitVec 8) (tval : DWord)
  | held (ea : DWord)
  deriving DecidableEq, Repr
/-- The words of the instruction at the PC: one or two. A fetch that fails on either word gives the instruction's address, as `%epc`
and `%tval` both hold it (R209, log 79). -/
def fetchC (s : State) (n : Nat) : State × CFetch :=
  let pc := (s.coreN n).ctl.pc
  let w : Who := ⟨n, 0, pc, 0, 0⟩
  match fetchWord s w false pc pc with
  | (s, .fault e) => (s, .fault e (pc.setWidth 64))
  | (s, .held) => (s, .held (pc.setWidth 64))
  | (s, .word w0) =>
    if isTwoWord w0 then
      match fetchWord s w false pc (pc + 4) with
      | (s, .fault e) => (s, .fault e (pc.setWidth 64))
      | (s, .held) => (s, .held (pc.setWidth 64))
      | (s, .word w1) => (s, .words w0 w1)
    else (s, .words w0 0)

/-- The instruction at the PC of a core, where it can be fetched and decoded. -/
def instrAt (s : State) (n : Nat) : Option Instr :=
  match (fetchC s n).2 with
  | .words w0 w1 => decodeC w0 w1
  | _ => none

/-- Whether the instruction at the PC would trap with no effect as it issues: at its fetch, its decoding, or a check of its own
(R363 order 3). -/
def instrTraps (s : State) (n : Nat) : Bool :=
  match fetchC s n with
  | (_, .fault _ _) => true
  | (_, .held _) => false
  | (t, .words w0 w1) =>
    match decodeC w0 w1 with
    | none => true
    | some i =>
      let u := outState t (ctlOut i { t with cur := n })
      let k := (u.coreN n).ctl
      (s.coreN n).ctl.priv == 0 && k.priv == 1 && k.epc == (s.coreN n).ctl.pc && (k.csrc == 0 || k.csrc == 5)

/-- Whether a stalled instruction gives way to the arrival interrupt: `waitge`, `vpush`, `vpop`, `inpop`, and `pend` before its
arrival, once their halyard waits are satisfied (R229, R234, R237, R239). -/
def yields (c : Core) (i : Instr) : Bool :=
  match i with
  | .waitge h .. | .vpush h _ | .vpop h _ | .inpop h _ _ | .pend h _ | .pendCad h _ => c.ctl.took.isSome || waitsOk c 0 h
  | _ => false

/-- Whether the arrival interrupt is entered at this boundary: after every trap that is due, those of the instruction about to issue
among them (R241, R363). -/
def arrivalNow (s : State) (n : Nat) : Bool :=
  let c := s.coreN n
  atBoundary c && !c.latched && !c.ctl.exiting && !c.ctl.exitOwed && arrivalDue c && (dueTrap c).isNone &&
  (!c.ctl.stalled || (match instrAt s n with | some i => yields c i | none => true)) && !instrTraps s n

/-- Event: the arrival-interrupt handler is entered (R241). -/
def execArrivalInterruptEntry (core : Nat) (s : State) : Out := event (arrivalNow s core) (fun s => s.updN core enterArrival) s

/-! ### Waits that end by themselves -/

/-- Runs the meaning of an instruction on a core that stands at it and can go on. -/
def atInstr (s : State) (n : Nat) (f : State → Instr → Option Out) : State :=
  if ctlAlive (s.coreN n) && !(s.coreN n).ctl.exiting && !(s.coreN n).ctl.exitOwed && !((s.coreN n).latched && (s.coreN n).ctl.priv == 0) then
    match instrAt s n with
    | some i => watchAnswer (atCore s n fun s => match f s i with | some o => outState s o | none => s) n
    | none => s
  else s

/-- Event: one read of a `waitge` (R154, R229). -/
def execWaitgeRead (core : Nat) (s : State) : Out :=
  .next <| atInstr s core fun s i => match i with
    | .waitge h a b m => if (dueTrap s.core).isNone then some (execWaitge h a b m s) else none
    | _ => none

/-- Event: a `pause` ends (R245). -/
def execPauseEnd (core : Nat) (s : State) : Out :=
  .next <| atInstr s core fun s i => match i, s.core.ctl.pauseEnd with
    | .pause h, some t => if t.toNat ≤ s.clock.toNat then some (execPause h s) else none
    | _, _ => none

/-- Event: the cadence of a waiting `pend.cad` has elapsed (R153). -/
def execCadenceElapsed (core : Nat) (s : State) : Out :=
  .next <| atInstr s core fun s i => match i with
    | .pendCad h b =>
      if !s.core.ctl.pendArrived && !s.core.ctl.cadTested && cadenceOver s b && (dueTrap s.core).isNone then some (execPendCad h b s) else none
    | _ => none

/-! ### Held signals, deferred reports -/

/-- Event: a held increment applies once its counter has room (R53, R54). -/
def execHeldSignalApply (core ctr : Nat) (s : State) : Out :=
  event (decide (0 < heldGet (s.coreN core) ctr) && decide (halGet (s.coreN core) ctr < 63) && !(s.coreN core).frozen)
    (fun s => s.updN core fun c =>
      signalOne s.clock { c with held := smSet 0 c.held ctr (heldGet c ctr - 1) } ctr) s

/-- The oldest report on its way reaches its core (R388). -/
def reportArrive (s : State) (n : Nat) : State :=
  s.updN n fun c => match c.inflight with
    | r :: t => { c with inflight := t, reports := c.reports ++ [r] }
    | [] => c
/-- Event: a deferred report arrives at its core (R388). -/
def execStoreMismatchReportArrival (core : Nat) (s : State) : Out :=
  .next <|
    if (s.coreN core).frozen then
      if ((s.dbgOf (clusterOf core)).skid.countP fun x => x == (core, 16)) < (s.coreN core).inflight.length then skidPut s core 16 else s
    else reportArrive s core

/-! ### Combining entries -/

/-- Event: entries of one buffer of age 4,096 or more are sent (R165). -/
def execCombiningEntryAgeOut (core eng : Nat) (s : State) : Out :=
  .next (sendComb s core fun k e => k == eng && decide (4096 ≤ e.age))

/-- Event: the oldest entry on its way applies at its home die (R166). -/
def execRecordEntryApply (s : State) : Out :=
  .next <| match s.recs with
  | e :: t => applyEntry { s with recs := t } e
  | [] => s

/-- Frozen cores aside, every combining entry ages by `dt` (R164, R445), those on their way among them. -/
def ageComb (s : State) (dt : Nat) : State :=
  { s with recs := s.recs.map fun e => { e with age := e.age + dt }
           cores := s.cores.map fun p =>
      if p.2.frozen || p.2.comb.isEmpty then p
      else (p.1, { p.2 with comb := p.2.comb.map fun b => (b.1, b.2.map fun e => { e with age := e.age + dt }) }) }

/-- The entries on their way that are overdue are applied, oldest first. -/
def applyOverdue (s : State) : State :=
  (s.recs.filter fun e => decide (6144 ≤ e.age)).foldl applyEntry { s with recs := s.recs.filter fun e => !decide (6144 ≤ e.age) }
/-- What is due as time passes (R155, R165, R167): an entry of age 4,096 leaves its core, where no byte budget holds it, and one of age
6,144 has been applied, so that every later read includes it. -/
def recsDue (s : State) : State :=
  applyOverdue ((s.cores.filter fun p => !p.2.frozen && !p.2.comb.isEmpty).foldl
    (fun s p => sendComb s p.1 fun _ e => decide (4096 ≤ e.age)) s)

end Sys2Proof.Machine
end

