-- ==== Sys2Proof/Machine/Sched.lean ====
section
/-! DEFINITION. The command processors (R32 to R44, R59 to R64, R395 to R424, R479): consumption of descriptors, the dispatcher,
budgets and classes, cancellation, saves and resumes, and the management block. An event that is not due leaves the state as it
is. -/

namespace Sys2Proof.Machine

/-! ### Descriptors (R32 to R34, R407) -/

/-- A field of a descriptor word. -/
def dF (d : List DWord) (w lo n : Nat) : Nat := ((d.getD w 0).extractLsb' lo n).toNat

/-- The reserved bits of each descriptor word (R32, R33). -/
def dReserved : List (Nat × Nat × Nat) :=
  [(0, 56, 8), (1, 56, 8), (3, 52, 12), (3, 44, 4), (3, 17, 3), (3, 5, 3), (4, 48, 16), (5, 32, 32), (6, 34, 30),
   (8, 34, 30), (9, 34, 30), (10, 34, 30), (11, 34, 30), (12, 34, 30), (13, 34, 30), (14, 32, 32), (15, 0, 64)]

/-- The levels of a loop table, as kind and trip. -/
def dLevels (d : List DWord) : List (Nat × Nat) := (nats 8 6).map fun w => (dF d w 32 2, dF d w 0 32)
def dTrips (d : List DWord) (kind : Nat) : List Nat := ((dLevels d).filter fun l => l.1 == kind).map (·.2)
def dProd (d : List DWord) (kind : Nat) : Nat := (dTrips d kind).foldl (· * ·) 1

/-- Rules 2 and 3 of R34 on the kinds of the levels, outermost first. -/
def levelsOk : List Nat → Bool
  | [] => true
  | k :: t => (k != 0 || t.all (· == 0)) && (k != 1 || t.all fun x => x == 0 || x == 1) && levelsOk t

/-- Whether a descriptor keeps R34 and the second condition of R407. -/
def descOk (d : List DWord) : Bool :=
  let g := dF d 3 0 5
  let period := dF d 4 32 16
  let budget := dF d 4 0 32
  let early := dF d 6 32 2
  dReserved.all (fun r => dF d r.1 r.2.1 r.2.2 == 0) &&
  dF d 0 0 2 == 0 && dF d 1 0 3 == 0 && dF d 7 0 3 == 0 &&
  decide (1 ≤ g) && decide (g ≤ 24) && decide (dF d 3 8 9 ≤ 256) && decide (dF d 3 20 13 ≤ 6144) &&
  decide (dF d 3 33 5 ≤ 16) && decide (dF d 3 38 6 ≤ 32) && early != 3 &&
  levelsOk ((dLevels d).map (·.1)) && (dLevels d).all (fun l => l.1 == 0 || l.2 != 0) &&
  decide (dProd d 3 ≤ 4) && decide (dProd d 2 ≤ 4294967295) &&
  (dF d 3 51 1 == 0 || period != 0) && decide (budget ≤ g * period * 6000) && (early == 0 || dF d 6 0 32 != 0) &&
  dF d 14 0 32 != 0 && (period == 0 || budget != 0) &&
  (dF d 3 51 1 == 0 || decide (budget + 14400 * g ≤ period * 6000 * g))

/-- The launch that a predecessor id names: the latest consumed one of the ASID with that id, if it has not ended (R399). -/
def findPred (s : State) (asid : BitVec 10) (id : BitVec 32) : Option Nat :=
  if id = 0 then none
  else
    match (s.launches.filter fun p => p.2.asid == asid && p.2.id == id).getLast? with
    | some (k, l) => if l.ended then none else some k
    | none => none

def mkLaunch (s : State) (k : Nat) (q : Queue) (d : List DWord) : Launch :=
  { queue := k, asid := q.asid, id := BitVec.ofNat 32 (dF d 14 0 32), desc := d, home := q.home,
    prio := min (dF d 3 48 3) q.ceiling, waiting := if descOk d then (nats 0 (dProd d 3)).map fun i => (i, 0, dProd d 2) else [],
    total := dProd d 3 * dProd d 2, pred := findPred s q.asid (BitVec.ofNat 32 (dF d 6 0 32)) }

/-- Reads the 16 words of a ring entry. -/
def readEntry (s : State) (q : Queue) : Option (List DWord) :=
  let a := q.ring.toNat + 128 * (q.head.toNat % 2 ^ q.ringLog)
  (nats 0 16).mapM fun i => (cpRead s q.home q.asid (a + 8 * i) 8).map (BitVec.ofNat 64)

/-- Whether a cancelled token reaches the entry at the head of a ring (R409). -/
def ringCancelled (q : Queue) (tok : BitVec 32) : Bool :=
  tok != 0 && q.cancels.any fun p => p.1 == tok && decide (0 < (p.2 - q.head).toNat) && decide ((p.2 - q.head).toNat ≤ 2 ^ q.ringLog)

/-- A queue stops (R398). -/
def stopQueue (s : State) (k : Nat) (q : Queue) (v : BitVec 8) : State :=
  cpField { s with queues := smPut s.queues k { q with qstatus := v } } q 0x50 1 v.toNat

/-- A launch that ends as it is consumed: it is held no longer, and is the latest of its id (R34, R399, R409). -/
def consumed (s : State) (l : Launch) (status : Nat) : State :=
  completion { s with nextLaunch := s.nextLaunch + 1,
                      launches := smPut s.launches (s.nextLaunch + 1) { l with waiting := [], ended := true } } l status 0

/-- The gangs, resident or saved, of a cluster. -/
def gangsIn (s : State) (k : Nat) : List (Nat × Gang) := s.gangs.filter fun p => p.2.cluster == k
/-- The sum of G over the admitted guaranteed tasks of a cluster (R407). -/
def guarSum (s : State) (k : Nat) : Nat := ((gangsIn s k).filter (·.2.guaranteed)).foldl (fun a p => a + p.2.g) 0
def guarRoom (s : State) (die g : Nat) : Bool := (nats (2 * die) 2).any fun k => decide (guarSum s k + g ≤ 24)

/-- Whether a guaranteed launch has tasks for a die that have not started. -/
def guarWaits (die : Nat) (l : Launch) : Bool := dF l.desc 3 51 1 == 1 && !l.ended && l.waiting.any (·.1 == die)
/-- Whether an earlier guaranteed launch with tasks for the die is held, or lacks room now (R407). -/
def heldBefore (s : State) (die k : Nat) : Bool :=
  s.launches.any fun p => decide (p.1 < k) && guarWaits die p.2 && (p.2.held.contains die || !guarRoom s die (dF p.2.desc 3 0 5))
/-- Guaranteed launches that find no room on a die, or a held one before them, are held there: from then on their tasks start in
consumption order (R407). -/
def markHeld (s : State) (die : Nat) : State :=
  s.launches.foldl (fun s p =>
    if guarWaits die p.2 && !p.2.held.contains die && (heldBefore s die p.1 || !guarRoom s die (dF p.2.desc 3 0 5)) then
      s.updLaunch p.1 fun l => { l with held := die :: l.held }
    else s) s

/-- The next descriptor of a queue, if one is posted, is consumed (R397, R398, R409). A tail that cannot be read leaves the queue
running, and is read again: R398 gives qstatus 2 for an entry alone (the model's choice, log 83). -/
def consume (s : State) (k : Nat) : State :=
  match smFind s.queues k with
  | none => s
  | some q =>
    if !q.live || q.qstatus != 0 || !readyBit s (38 + q.home) then s
    else match cpRead s q.home q.asid q.ctl.toNat 4 with
    | none => s
    | some tail =>
      let n := (BitVec.ofNat 32 tail - q.head).toNat
      if 2 ^ q.ringLog < n then stopQueue s k q 1
      else if n = 0 then s
      else match readEntry s q with
      | none => stopQueue s k q 2
      | some d =>
        let l := mkLaunch s k q d
        let cancelled := ringCancelled q (tokenOf l)
        let q := { q with head := q.head + 1 }
        let s := cpField { s with queues := smPut s.queues k q } q 0x08 4 q.head.toNat
        if !descOk d then consumed s l 2
        else if cancelled then consumed s l 3
        else (nats 0 4).foldl markHeld { s with nextLaunch := s.nextLaunch + 1, launches := smPut s.launches (s.nextLaunch + 1) l }

/-- Event: the home command processor consumes the next descriptor of a queue (R397). -/
def execDescriptorConsume (queue : Nat) (s : State) : Out := .next (consume s queue)

/-! ### What the dispatcher may use (R401 to R403, R407) -/

/-- Whether a predecessor lets its successor's tasks start (R38): a task that a cancellation removed has not started. -/
def predOk (s : State) (l : Launch) : Bool :=
  match l.pred.bind (smFind s.launches) with
  | none => true
  | some p =>
    p.ended || (dF l.desc 6 32 2 == 1 && p.waiting.isEmpty && p.removed == 0) ||
    (dF l.desc 6 32 2 == 2 && p.waiting.isEmpty && p.removed == 0 && decide (p.total ≤ p.marked.length))

/-- Whether a cluster takes tasks at all. -/
def cluOpen (s : State) (k : Nat) : Bool :=
  let c := s.clu k
  let d := s.dbgOf k
  readyBit s k && !c.gateReq && !c.marching && !c.hot && !d.spadFail && !d.frozen && !d.pending

/-- The free cores of a cluster that are not withheld (R432, R435, R439). -/
def freeCores (s : State) (k : Nat) : List Nat :=
  let d := s.dbgOf k
  (nats (24 * k) 24).filter fun n =>
    (s.coreN n).run == .free && !(d.coreFail ||| d.vfail ||| d.gfail).getLsbD (n % 24)

/-- Whether the reservation of a saved guaranteed task is due: its period start is at most 7,200 aclk away (R407). -/
def reservationDue (s : State) (g : Nat) : Bool :=
  let t := s.gangN g
  t.guaranteed && t.life == .saved && t.period != 0 &&
  decide (t.resumeAt * (t.period * 6000) ≤ (s.clock - t.base).toNat + 7200)


/-- The admitted guaranteed tasks that have not started, each with the cluster that has room for it and its G: their reservation is
due, since a period of theirs has started or starts as they do (R407, log 7). -/
def freshDue (s : State) : List (Nat × Nat) :=
  (s.launches.map fun (k, l) =>
    if dF l.desc 3 51 1 == 1 && !l.ended && !l.cancelled && predOk s l then
      (nats 0 4).filterMap fun die =>
        if l.waiting.any (·.1 == die) && !heldBefore s die k then
          ((nats (2 * die) 2).find? fun cl => cluOpen s cl && decide (guarSum s cl + dF l.desc 3 0 5 ≤ 24)).map fun cl => (cl, dF l.desc 3 0 5)
        else none
    else []).flatten

/-- How many cores of a cluster are kept for guaranteed tasks whose reservation is due (R407). -/
def keptCores (s : State) (k : Nat) : Nat :=
  ((gangsIn s k).filter fun p => reservationDue s p.1).foldl (fun a p => a + p.2.g) 0 +
  ((freshDue s).filter fun p => p.1 == k).foldl (fun a p => a + p.2) 0

/-- The lowest place for an allotment of scratchpad units (log 7). -/
def spPlace (s : State) (k u : Nat) : Option Nat :=
  let l := (gangsIn s k).map fun p => (p.2.spBase, p.2.spUnits)
  let fits (b : Nat) : Bool := decide (b + u ≤ 6144) && l.all fun x => decide (b + u ≤ x.1) || decide (x.1 + x.2 ≤ b)
  let ends := (0 :: l.map fun x => x.1 + x.2).filter fits
  if u = 0 then some 0 else ends.foldl (fun a b => match a with | none => some b | some x => some (min x b)) none

/-! ### The start of a task (R42, R43) -/

/-- Whether a unit of memory keeps its content: its last owner had the same ASID. -/
def ownedBy (m : SMap Nat) (u asid : Nat) : Bool := smGet 1024 m u == asid

/-- A core at the start of its task. Its V-stream fetches memory as the start finds it, until one of the events of R283. -/
def startCore (s : State) (g : Nat) (t : Gang) (l : Launch) (n rank : Nat) : Core :=
  let c := s.coreN n
  let asid := t.asid.toNat
  let stays (b : Nat) : Bool := decide (t.tcmBlocks ≤ b) || ownedBy c.tcmOwner b asid
  let trips := dTrips l.desc 1
  let v := (dF l.desc 1 0 56)
  { tcm := c.tcm.filter fun p => stays (p.1 / 4096)
    tcmPoison := c.tcmPoison.filter fun x => stays (x / 512)
    tcmDirty := smOf false ((nats 0 t.tcmBlocks).map fun b => (b, ownedBy c.tcmOwner b asid))
    tcmOwner := ownAll c.tcmOwner t.tcmBlocks asid
    tlb := c.tlb, walkc := c.walkc, seq := c.seq, ctxStat := c.ctxStat, asid := t.asid, gang := g, rank := rank, placement := 0,
    run := .run, lanes := c.lanes, updNum := c.updNum, cadMiss := c.cadMiss, lastGrant := c.lastGrant
    ctl := { sup := c.ctl.sup, tvec := c.ctl.tvec, scratch0 := c.ctl.scratch0, scratch1 := c.ctl.scratch1, epc := c.ctl.epc,
             tval := c.ctl.tval, csrc := c.ctl.csrc, ccode := c.ctl.ccode, pfrec := c.ctl.pfrec, vtrec := c.ctl.vtrec,
             priv := 0, event := c.ctl.event ||| 1, pc := BitVec.ofNat 56 (dF l.desc 0 0 56),
             s := smOf 0 ([(1, t.arg), (2, BitVec.ofNat 64 t.cIdx), (3, BitVec.ofNat 64 t.dIdx), (4, t.launchId.setWidth 64)] ++
               (nats 0 6).map fun i => (5 + i, BitVec.ofNat 64 (trips.getD i 0))),
             rtseg := smOf 0 ((nats 0 4).map fun i => (i, smGet 0 s.segs (4 * asid + i))) }
    vec := { pc := BitVec.ofNat 56 v, halted := v == 0, retired := c.vec.retired, samples := c.vec.samples, img := some s.mem } }

/-- The scratchpad of a cluster after an allotment to an ASID. -/
def takeUnits (c : Cluster) (base u asid : Nat) : Cluster :=
  let stays (x : Nat) : Bool := decide (x < base) || decide (base + u ≤ x) || ownedBy c.spOwner x asid
  { c with spad := c.spad.filter fun p => stays (p.1 / 4064), spPoison := c.spPoison.filter fun x => stays (x / 127),
           spOwner := (nats base u).foldl (fun m x => smPut m x asid) c.spOwner }

/-- The latest place in the round robin of a die's dispatcher (R402). -/
def lastTurn (s : State) (die : Nat) : Nat := s.launches.foldl (fun a p => max a (smGet 0 p.2.turn die)) 0

/-- Starts task (d, c) of launch `k` on cores of a cluster, together (R40). -/
def startGang (s : State) (k : Nat) (l : Launch) (d c cl : Nat) (cores slots : List Nat) (spBase : Nat) : State :=
  let gs := dF l.desc 3 0 5
  let period := dF l.desc 4 32 16
  let base := l.first.getD s.clock
  let num := if period = 0 then 0 else (s.clock - base).toNat / (period * 6000)
  let g := s.nextGang
  let t : Gang :=
    { launch := k, asid := l.asid, g := gs, cores := cores, cluster := cl, tcmBlocks := dF l.desc 3 8 9, spBase := spBase,
      spUnits := dF l.desc 3 20 13, tokens := dF l.desc 3 38 6, barriers := dF l.desc 3 33 5,
      bar := (nats 0 16).map (fun b => (b, { expected := gs, start := s.clock })), launchId := l.id,
      arg := descWord l 2, cIdx := c, dIdx := d, guaranteed := dF l.desc 3 51 1 == 1, period := period,
      cycles := dF l.desc 4 0 32, budget := dF l.desc 4 0 32, base := base, curPeriod := num, ranIn := some num, slots := slots,
      cls := match smFind s.queues l.queue with | some q => q.cls | none => 0 }
  let s := slots.foldl slotInit s
  let s := s.setClu cl (takeUnits (s.clu cl) spBase t.spUnits t.asid.toNat)
  let s := { (s.setGang g t) with nextGang := g + 1 }
  let s := (cores.zip (nats 0 gs)).foldl (fun s p => s.setCoreN p.1 (startCore s g t l p.1 p.2)) s
  let s := s.updLaunch k fun l =>
    { l with first := some base, running := l.running + 1, turn := smSet 0 l.turn d (lastTurn s d + 1),
             waiting := l.waiting.filterMap fun w => if w.1 = d then (if w.2.2 ≤ 1 then none else some (d, w.2.1 + 1, w.2.2 - 1)) else some w }
  traceStart s g

/-! ### The choice (R402) -/

/-- A task that may start or resume. -/
inductive Cand where
  | fresh (launch d c : Nat)
  | saved (gang : Nat)
  deriving DecidableEq, Repr

/-- The order of two keys, element by element. -/
def keyLt : List Nat → List Nat → Bool
  | a :: x, b :: y => decide (a < b) || (a == b && keyLt x y)
  | _, _ => false

def insertCand (k : List Nat × Cand) : List (List Nat × Cand) → List (List Nat × Cand)
  | [] => [k]
  | x :: t => if keyLt k.1 x.1 then k :: x :: t else x :: insertCand k t

/-- The eligible tasks of a die, in the order of R402. -/
def candidates (s : State) (die : Nat) : List Cand :=
  let fresh := s.launches.filterMap fun (k, l) =>
    match l.waiting.find? fun w => w.1 == die with
    | none => none
    | some (d, c, _) =>
      let guar := dF l.desc 3 51 1 == 1
      if l.cancelled || l.ended || !predOk s l || (guar && (!guarRoom s die (dF l.desc 3 0 5) || heldBefore s die k)) then none
      else some ([if guar then 0 else 1, 7 - l.prio, 1, smGet 0 l.turn die, k, c], Cand.fresh k d c)
  let saved := s.gangs.filterMap fun (g, t) =>
    if t.life != .saved || t.cluster / 2 != die || decide (t.curPeriod < t.resumeAt) then none
    else match smFind s.launches t.launch with
    | none => none
    | some l =>
      let due := t.guaranteed && t.ranIn != some t.curPeriod
      some ([if due then 0 else 1, 7 - l.prio, 0, smGet 0 l.turn die, t.launch, t.cIdx], Cand.saved g)
  ((fresh ++ saved).foldl (fun a k => insertCand k a) []).map (·.2)

/-- Places a fresh task in a cluster, or wakes the cluster if it is gated (R478). -/
def placeFresh (s : State) (k d c cl : Nat) : Option State :=
  match smFind s.launches k with
  | none => none
  | some l =>
    let g := dF l.desc 3 0 5
    if !cluOpen s cl || (dF l.desc 3 51 1 == 1 && decide (24 < guarSum s cl + g)) then none
    else if (s.clu cl).waking then none
    else if (s.clu cl).gated then some (s.setClu cl { s.clu cl with waking := true })
    else
      let cores := (freeCores s cl).take g
      if (freeCores s cl).length < g + (if dF l.desc 3 51 1 = 1 then 0 else keptCores s cl) then none
      else match spPlace s cl (dF l.desc 3 20 13), findSlots s d (slotLen (dF l.desc 3 8 9)) g [] with
      | some b, some slots => some (startGang s k l d c cl cores slots b)
      | _, _ => none

/-- Loads a saved task onto free cores of its cluster (R403, R422); it stays saved where a slot cannot be loaded. -/
def placeSaved (s : State) (g : Nat) : Option State :=
  let t := s.gangN g
  let cores := (freeCores s t.cluster).take t.g
  if !cluOpen s t.cluster || decide ((freeCores s t.cluster).length < t.g + (if t.guaranteed then 0 else keptCores s t.cluster)) || !t.slots.all (fun a => slotOk s a t.asid t.tcmBlocks) then none
  else
    let s := ((cores.zip t.slots).zip (nats 0 t.g)).foldl (fun s p =>
      (loadRank s p.1.1 p.1.2 g p.2).updN p.1.1 fun c =>
        { c with run := .stopped, ctl := { c.ctl with priv := 0, event := c.ctl.event ||| 1 } }) s
    let die := t.cluster / 2
    some (s.updLaunch t.launch fun l => { l with turn := smSet 0 l.turn die (lastTurn s die + 1) })

def place (s : State) (die : Nat) : Cand → Option State
  | .fresh k d c => (nats (2 * die) 2).findSome? (placeFresh s k d c)
  | .saved g => placeSaved s g

/-- The first candidate of a die that can be placed is placed (R402). -/
def dispatchDie (s : State) (die : Nat) : State :=
  if !readyBit s (38 + die) then s
  else
    let s := markHeld s die
    ((candidates s die).findSome? (place s die)).getD s

/-- Event: the dispatcher of a die starts or resumes a task (R402). -/
def execDispatch (die : Nat) (s : State) : Out := .next (dispatchDie s die)

/-! ### Resuming together, exits (R423, R44) -/

/-- Event: a loaded gang resumes together (R423). -/
def execGangResume (gang : Nat) (s : State) : Out := event (loaded s gang) (fun s => resumeGang s gang) s

/-- Whether a rank only waits for its exit: by its `ecall`, or by a `halt` that a stop of the gang put off (R44, R370). -/
def exits (c : Core) : Bool := c.ctl.exiting || (c.ctl.exitOwed && c.ctl.priv == 0)

/-- Event: the exit of a rank completes (R44), its traps taken first. -/
def execRankExitComplete (core : Nat) (s : State) : Out :=
  let c := s.coreN core
  event (ctlAlive c && exits c && !c.latched && (dueTrap c).isNone) (fun s => (exitTry s core).1) s

/-! ### Budgets (R59 to R61, R406, R407) -/

/-- A period start of a gang that has passed unacted: the budget is reloaded (R59). During a freeze it waits for the thaw (R445). -/
def periodStart (s : State) (g : Nat) : State :=
  let t := s.gangN g
  if !smHas s.gangs g || t.period = 0 || gangFrozen s t then s
  else
    let num := (s.clock - t.base).toNat / (t.period * 6000)
    if num ≤ t.curPeriod then s else s.setGang g { t with curPeriod := num, budget := t.cycles }
/-- Event: a budget period starts (R59). -/
def execBudgetPeriodStart (gang : Nat) (s : State) : Out := .next (periodStart s gang)

/-- A gang's budget over `dt` aclk that end at `clk`: it falls by G each aclk while the task holds its cores, those of its load and of
its save among them (R60, R428, log 71), and each period start sets it anew in its own aclk (R59). Where it reaches 0, the period in which it first did is noted (R61). -/
def Gang.spend (t : Gang) (clk : DWord) (dt : Nat) : Gang :=
  if t.period = 0 then t
  else
    let len := t.period * 6000
    let now := (clk - t.base).toNat
    let rate := if t.life == .saved then 0 else t.g
    let out (b k p : Nat) : Option Nat := if rate ≠ 0 ∧ b ≠ 0 ∧ b ≤ rate * k then some p else none
    if now / len ≤ t.curPeriod then
      { t with budget := t.budget - rate * dt, ranOut := t.ranOut.or (out t.budget dt t.curPeriod) }
    else
      let before := dt - 1 - (now - (t.curPeriod + 1) * len)
      { t with curPeriod := now / len, budget := t.cycles - rate * (now % len),
               ranOut := ((t.ranOut.or (out t.budget before t.curPeriod)).or
                 (if t.curPeriod + 1 < now / len then out t.cycles (len - 1) (t.curPeriod + 1) else none)).or
                 (out t.cycles (now % len) (now / len)) }

/-- The budgets of the gangs over `dt` aclk, but not while frozen (R60, R445). -/
def spend (s : State) (dt : Nat) : State :=
  { s with gangs := s.gangs.map fun p => if gangFrozen s p.2 then p else (p.1, p.2.spend s.clock dt) }

/-- Whether the queue of a launch ends guaranteed tasks at their deadline (R396). -/
def deadlineEnds (s : State) (t : Gang) : Bool :=
  match (smFind s.launches t.launch).bind fun l => smFind s.queues l.queue with
  | some q => q.deadlineEnd
  | none => false

/-- A budget that has run out is acted on (R61, R406, R424): after every trap of the task that is due in the same aclk, and not once
the task is ending. Behind a `ctxsave` it waits for the save's end, the deadline record owed; during a freeze, for the thaw. -/
def exhausted (s : State) (g : Nat) : State :=
  let t := s.gangN g
  match t.ranOut with
  | none => s
  | some p =>
    let ends := t.guaranteed && deadlineEnds s t
    let owed := if t.guaranteed then some (t.dlRec.getD s.clock) else none
    if gangHeld s t || t.life == .saved || t.life == .loading then s
    else if t.why == some .ctxsave && t.doom.isNone && !ends then (if t.dlRec = owed then s else s.setGang g { t with dlRec := owed })
    else if t.doom.isSome || t.why == some .cancel || t.why == some .faulted then s.setGang g { t with ranOut := none }
    else
      let s := t.cores.foldl (fun s n => match dueTrap (s.coreN n) with | some d => takeDue s n d | none => s) s
      let s := s.updGang g fun t => { t with ranOut := none, resumeAt := p + 1, dlRec := owed }
      latchGang s g (if !t.guaranteed then .budget else if ends then .faulted else .deadline)
/-- Event: a budget reaches 0 (R61). -/
def execBudgetExhausted (gang : Nat) (s : State) : Out := .next (exhausted s gang)

/-- Requests pre-emption of elastic gangs, in order, until `need` more cores are free or on their way (log 7). -/
def reserve (s : State) : List (Nat × Gang) → Nat → State
  | [], _ => s
  | (h, t) :: rest, need =>
    if need = 0 then s else reserve (latchGang s h .reservation) rest (need - t.g)

/-- The holders of the cores that the due reservations of a cluster need are pre-empted (R407). -/
def reserveIn (s : State) (k : Nat) : State :=
  let there := gangsIn s k
  let leaving := (there.filter fun p => p.2.life == .stopping).foldl (fun a p => a + p.2.g) 0
  reserve s (there.filter fun p => p.2.life == .resident && !p.2.guaranteed) (keptCores s k - ((freeCores s k).length + leaving))
/-- Event: the holders of a guaranteed task's cores are pre-empted (R407): for a saved gang, or else for the tasks that have not
started. -/
def execGuaranteedReservation (gang : Nat) (s : State) : Out :=
  .next (if reservationDue s gang then reserveIn s (s.gangN gang).cluster else (freshDue s).foldl (fun s p => reserveIn s p.1) s)

/-- A request that came during a freeze latches after the thaw (R448). -/
def latchLate (s : State) (g : Nat) : State :=
  let t := s.gangN g
  match t.late with
  | some w => if gangHeld s t then s else latchGang (s.setGang g { t with late := none }) g w
  | none => s

/-! ### Classes (R62, R404, R405) -/

/-- Sets every counter of a class to its allowance. -/
def refill (c : Class) : Class :=
  { c with hbmLeft := smOf 0 ((nats 0 4).map fun d => (d, c.hbm)), meshLeft := smOf 0 ((nats 0 4).map fun d => (d, c.mesh)) }

/-- A class period starts: fields set since the last one take effect, and the counters are reset (R404). A class without a
period takes new fields at once. -/
def classStart (s : State) (k : BitVec 4) : State :=
  let c := s.cls k
  let num := if c.cperiod = 0 then 0 else s.clock.toNat / (c.cperiod * 6000)
  if num ≤ c.num ∧ ¬ (c.cperiod = 0 ∧ c.newFields.isSome = true) then s
  else
    let c := match c.newFields with
      | some (kind, p, h, m) => { c with kind := kind, cperiod := p, hbm := h, mesh := m, newFields := none }
      | none => c
    let c := refill { c with num := if c.cperiod = 0 then 0 else s.clock.toNat / (c.cperiod * 6000) }
    let s := s.setCls k c
    { s with gangs := s.gangs.map fun p => if p.2.cls = k then (p.1, { p.2 with reported10 := false }) else p }
/-- Event: a class period starts (R404). -/
def execClassPeriodStart (cls : BitVec 4) (s : State) : Out := .next (classStart s cls)

/-- A held request of a guaranteed class is reported once per task and class period (R405). -/
def holdReport (s : State) (n : Nat) : State :=
  let c := s.coreN n
  match c.byteHeld with
  | none => s
  | some (src, ea) =>
    if !c.hasTask || !(s.cls (classOf s n)).kind || (s.gangOf n).reported10 then s
    else
      let s := s.updGang (s.gid n) fun t => { t with reported10 := true }
      faultRecord s n 0x10 (BitVec.ofNat 3 src) false c.ctl.pc ea 0 0
/-- Event: a request is held by a byte budget (R62, R405). -/
def execByteBudgetHold (core : Nat) (s : State) : Out := .next (holdReport s core)

/-! ### Cancellation and requests (R408 to R410) -/

/-- A written `cancel_req` is acted on and acknowledged (R408); a word that cannot be read is read again (log 83). -/
def cancelReq (s : State) (k : Nat) : State :=
  match smFind s.queues k with
  | none => s
  | some q =>
    if !q.live || !readyBit s (38 + q.home) then s
    else match cpRead s q.home q.asid (q.ctl.toNat + 0x40) 4 with
    | none => s
    | some v =>
      let tok := BitVec.ofNat 32 v
      if tok = q.cancelAck then s
      else
        let s := cancelToken s q.asid tok
        match smFind s.queues k with
        | none => s
        | some q => cpField { s with queues := smPut s.queues k { q with cancelAck := tok } } q 0x48 4 tok.toNat
/-- Event: a cancellation request is served (R408). -/
def execCancelRequest (queue : Nat) (s : State) : Out := .next (cancelReq s queue)

/-- Whether the reason of a pre-emption request holds for a gang (R410, R486). -/
def whyHolds (s : State) (g : Nat) : StopWhy → Bool
  | .budget => !(s.gangN g).guaranteed && (s.gangN g).period != 0 && (s.gangN g).budget == 0
  | .deadline => (s.gangN g).guaranteed && (s.gangN g).period != 0 && (s.gangN g).budget == 0
  | .reservation => !(s.gangN g).guaranteed && keptCores s (s.gangN g).cluster != 0
  | .cancel => match smFind s.launches (s.gangN g).launch with | some l => l.cancelled | none => false
  | .ctxsave => saveBegun s (s.gangN g)
  | .thermal => (s.clu (s.gangN g).cluster).hot
  | .faulted => false

/-- Event: a request latches at every core of a gang (R410). -/
def execPreemptLatch (gang : Nat) (why : StopWhy) (s : State) : Out :=
  event (smHas s.gangs gang && whyHolds s gang why && !gangHeld s (s.gangN gang)) (fun s => latchGang s gang why) s

/-! ### Saves (R412, R418, R419) -/

/-- Whether a stop of a gang ends in a save. -/
def saves (t : Gang) : Bool :=
  t.life == .stopping && match t.why with | some .cancel | some .faulted | none => false | some _ => true

/-- Whether nothing of a gang moves any more: each rank has stopped, or is in its handler with its engines stopped. -/
def gangStill (s : State) (t : Gang) : Bool :=
  t.cores.all fun n => ((s.coreN n).run == .stopped || (s.coreN n).ctl.priv != 0) && enginesStopped (s.coreN n)
/-- The buffers of a gang that is still are flushed (R165, R412). -/
def flushGang (s : State) (t : Gang) : State := if gangStill s t then t.cores.foldl flushAll s else s
/-- Whether the drains of R412 are done for a gang. -/
def gangDrained (s : State) (t : Gang) : Bool := gangStill s t && t.cores.all fun n => drained s n

/-- One step of the save of a core: its begin, or its items once the gang's drains are done (R412, R418). The context engine may
stop for a while after the rows or after the TCM; a den write that fails ends the save (R371). -/
def ctxSave (s : State) (n : Nat) : State :=
  let c := s.coreN n
  let t := s.gangOf n
  if c.frozen || c.ctxErr || !enginesStopped c then s
  else match c.ctxOp with
  | some (a, true, full) =>
    if itemsDone s a then s
    else if denFailed s a then saveFailed s n a
    else
      let s := flushGang s t
      if gangDrained s t then saveItems s n a full else s
  | some _ => s
  | none =>
    if c.hasTask && c.savedAt.isNone && coreStopped c && saves t then
      match t.slots[c.rank]? with
      | some a => if denFailed s a then s else saveBegin s n a false
      | none => s
    else s
/-- Event: the context engine saves a core (R418). -/
def execContextSave (core : Nat) (s : State) : Out := .next (ctxSave s core)

/-- The end of a stop without a save: a cancelled or a faulted task (R409, R370, R424). -/
def endStop (s : State) (g : Nat) : State :=
  let t := s.gangN g
  if !(t.cores.all fun n => coreStopped (s.coreN n)) then s
  else
    let s := flushGang s t
    if !gangDrained s t then s
    else if t.why = some .cancel then
      let out := t.cores.all fun n => (s.coreN n).ctl.exited || (s.coreN n).ctl.exiting
      endTask (cpEvent s 0x111 (t.cores.headD 0)) g (if out then 0 else 6)
    else if t.why = some .faulted then endTask (deadlineRecord s g) g 5 else s

/-- The commit of a core's save, or the end of a stop: of one that saves nothing, or of one whose saves have all committed (a double
trap or a `halt` with disposition 1 after them, R365, R370). -/
def commit (s : State) (n : Nat) : State :=
  let c := s.coreN n
  let t := s.gangOf n
  if c.frozen || c.ctxErr || !c.hasTask then s
  else match c.ctxOp with
  | some (a, true, _) =>
    if !(itemsDone s a && gangDrained s t) then s
    else if denFailed s a then saveFailed s n a else settleSaved (saveCommitAt s n a) (s.gid n)
  | some _ => s
  | none =>
    if t.life = .stopping ∧ gangFrozen s t = false then
      if saves t then settleSaved s (s.gid n) else endStop s (s.gid n)
    else s
/-- Event: the drains are done, and a save commits (R412, R418). -/
def execSaveCommit (core : Nat) (s : State) : Out := .next (commit s core)

/-- Event: an interrupted save is restarted on the same slot (R419). -/
def execSaveRestart (core : Nat) (s : State) : Out :=
  event ((s.coreN core).ctxErr && !(s.coreN core).frozen) (fun s => s.updN core fun c => { c with ctxErr := false }) s

/-- Whether a save of a core is in progress. -/
def saving (c : Core) : Bool := match c.ctxOp with | some (_, true, _) => true | _ => false

/-- Event: the context engine reports a soft error, and the save in progress stops before its commit (R419). -/
def execContextEngineSoftError (core : Nat) (s : State) : Out :=
  event (saving (s.coreN core)) (fun s => s.updN core fun c => { c with ctxErr := true }) s

/-! ### The management block (R479) -/

/-- What an operation answers: its result, and on 0 the state and the four outputs. -/
abbrev MgmtRes := Except Nat (State × List Nat)

def mgmtArg (s : State) (i : Nat) : Nat := memRd s.mem (s.mgmtBase + 0x18 + 8 * i) 8

/-- Whether every operand is below its bound; the rest are zero. -/
def argsBelow (s : State) (l : List Nat) : Bool := (nats 0 9).all fun i => decide (mgmtArg s i < l.getD i 1)

/-- The place in die 0's shared SRAM of what boot firmware leaves there: the ASID table, the tables of ASID 0 and the march image,
128 KiB (log 69). -/
def bootBase : Nat := sramBase 0
/-- The highest place for a segment of `n` records in a die's shared SRAM, in units of 128 bytes, outside the den, the held
segments, the report rings, the management block and the boot area (log 7). -/
def segPlace (s : State) (die n : Nat) : Option Nat :=
  let b := sramBase die
  let used := [(smGet 0 s.denBase die, smGet 0 s.denSize die), (s.mgmtBase / 128 * 128, 256), (bootBase, 0x20000)] ++
    ((s.segs.filter fun p => p.1 % 4 == die).map fun p => (b + rtBase p.2, 128 * rtSize p.2)) ++
    s.ringBase.map fun p => (p.2 / 128 * 128, 98304 + 128)
  let fits (x : Nat) : Bool :=
    decide (b ≤ x) && decide (x + 128 * n ≤ b + 0x6000000) && used.all fun r => decide (x + 128 * n ≤ r.1) || decide (r.1 + r.2 ≤ x)
  let starts := ((b + 0x6000000) :: used.map fun r => r.1 / 128 * 128).map (· - 128 * n)
  ((starts.filter fits).foldl (fun (a : Option Nat) x => match a with | none => some x | some y => some (max x y)) none).map
    fun x => (x - b) / 128

/-- Allocates the segments of an ASID on the dies from `d` on; the values of `%rtseg`. -/
def allocSegs (asid : Nat) : Nat → List Nat → State → Option State
  | _, [], s => some s
  | d, n :: rest, s =>
    if n = 0 then allocSegs asid (d + 1) rest { s with segs := smPut s.segs (4 * asid + d) 0 }
    else match segPlace s d n with
    | none => none
    | some p => allocSegs asid (d + 1) rest { s with segs := smPut s.segs (4 * asid + d) (BitVec.ofNat 64 (n * 2 ^ 32 + p)) }

/-- Whether the ASID table's entry can be reached. -/
def tableOk (s : State) (asid : BitVec 10) : Bool := usable s 0 (asidEntry s asid) && !poisoned s (asidEntry s asid)

/-- Whether an ASID has been created and not retired. -/
def asidLive (s : State) (asid : Nat) : Bool := smHas s.segs (4 * asid)

/-- Create an ASID. -/
def opCreate (s : State) : MgmtRes :=
  let a := mgmtArg s 0
  let root := mgmtArg s 1
  if !argsBelow s [1024, 2 ^ 52, 262145, 262145, 262145, 262145] || root % 4096 != 0 then .error 1
  else if a = 0 || asidLive s a then .error 4
  else if !tableOk s (BitVec.ofNat 10 a) then .error 3
  else match allocSegs a 0 ((nats 2 4).map (mgmtArg s)) s with
  | none => .error 2
  | some s =>
    let e := asidEntry s (BitVec.ofNat 10 a)
    .ok ({ s with mem := memWr (memWr s.mem e 8 (root + 1)) (e + 8) 8 0 }, (nats 0 4).map fun d => (smGet 0 s.segs (4 * a + d)).toNat)

/-- Retire an ASID. -/
def opRetire (s : State) : MgmtRes :=
  let a := mgmtArg s 0
  let asid := BitVec.ofNat 10 a
  if !argsBelow s [1024] then .error 1
  else if a = 0 || !asidLive s a || s.queues.any (fun p => p.2.live && p.2.asid == asid) || s.gangs.any (fun p => p.2.asid == asid) then .error 4
  else if !tableOk s asid then .error 3
  else
    let e := asidEntry s asid
    let s := { s with mem := memWr (memWr s.mem e 8 0) (e + 8) 8 0, segs := s.segs.filter fun p => p.1 / 4 != a,
                      cores := s.cores.map fun p => (p.1, p.2.forget (fun t => t.asid == asid) fun t => t.asid == asid) }
    .ok ((nats 0 8).foldl (traceUnpin fun t => t.asid == asid) s, [0, 0, 0, 0])

/-- Set a class. -/
def opClass (s : State) : MgmtRes :=
  if !argsBelow s [16, 2, 2 ^ 16, 2 ^ 32, 2 ^ 32] then .error 1
  else
    let k := BitVec.ofNat 4 (mgmtArg s 0)
    .ok (s.setCls k { s.cls k with newFields := some (mgmtArg s 1 == 1, mgmtArg s 2, mgmtArg s 3, mgmtArg s 4) }, [0, 0, 0, 0])

/-- The number a registration takes: that of the same control block, else the lowest free one. -/
def queueNum (s : State) (asid : BitVec 10) (ctl : VAddr) : Option Nat :=
  match s.queues.find? fun p => p.2.live && p.2.asid == asid && p.2.ctl == ctl with
  | some p => some p.1
  | none => (nats 0 256).find? fun k => match smFind s.queues k with
    | none => true
    | some q => !q.live && !s.launches.any fun p => p.2.queue == k && !p.2.ended

/-- The control block of a queue, as its registration reads it (R395). -/
def readCtl (s : State) (home : Nat) (asid : BitVec 10) (ctl : Nat) : Option (List Nat) :=
  (nats 0 12).mapM fun i => cpRead s home asid (ctl + 8 * i) 8

/-- The cancelled tokens that a registration keeps: those of the same control block, while the ring goes on where it stood (R409). -/
def keptCancels (s : State) (k : Nat) (q : Queue) : List (BitVec 32 × BitVec 32) :=
  match smFind s.queues k with
  | some o =>
    if o.live && o.asid == q.asid && o.ctl == q.ctl && o.ring == q.ring && o.ringLog == q.ringLog && o.head == q.head then o.cancels else []
  | none => []

/-- Register a queue. -/
def opRegister (s : State) : MgmtRes :=
  let arg := mgmtArg s
  let asid := BitVec.ofNat 10 (arg 0)
  let cls := BitVec.ofNat 4 (arg 2)
  if !argsBelow s [1024, 2 ^ 56, 16, 8, 2, 4, 256] || arg 1 % 256 != 0 || (decide (64 ≤ arg 6) && arg 6 != 255) then .error 1
  else if asid = 0 || s.queues.any (fun p => p.2.live && p.2.asid == asid && p.2.cls != cls && p.2.ctl.toNat != arg 1) then .error 4
  else match readCtl s (arg 5) asid (arg 1) with
  | none => .error 3
  | some w =>
    let f (i lo n : Nat) : Nat := w.getD i 0 / 2 ^ lo % 2 ^ n
    if f 2 56 8 != 0 || f 2 0 7 != 0 || f 3 5 59 != 0 || decide (16 < f 3 0 5) || f 4 56 8 != 0 || f 4 0 6 != 0 || f 5 36 28 != 0 ||
        decide (12 < f 5 32 4) || f 6 56 8 != 0 || f 6 0 4 != 0 || f 7 36 28 != 0 || decide (12 < f 7 32 4) then .error 1
    else match queueNum s asid (BitVec.ofNat 56 (arg 1)) with
    | none => .error 2
    | some k =>
      let q : Queue :=
        { asid := asid, ctl := BitVec.ofNat 56 (arg 1), cls := cls, ceiling := arg 3, deadlineEnd := arg 4 == 1, home := arg 5,
          vector := arg 6, ring := BitVec.ofNat 56 (f 2 0 56), ringLog := f 3 0 5, flog := BitVec.ofNat 56 (f 4 0 56),
          flogLog := f 5 32 4, flogTail := BitVec.ofNat 32 (f 5 0 32), mlog := BitVec.ofNat 56 (f 6 0 56), mlogLog := f 7 32 4,
          mlogTail := BitVec.ofNat 32 (f 7 0 32), head := BitVec.ofNat 32 (f 1 0 32), cancelAck := BitVec.ofNat 32 (f 9 0 32),
          wfail := BitVec.ofNat 32 (f 11 0 32) }
      let q := { q with cancels := keptCancels s k q }
      .ok (cpField { s with queues := smPut s.queues k q } q 0x50 1 0, [k, 0, 0, 0])

/-- Deregister a queue. -/
def opDeregister (s : State) : MgmtRes :=
  let k := mgmtArg s 0
  if !argsBelow s [256] then .error 1
  else match smFind s.queues k with
  | none => .error 4
  | some q => if q.live then .ok ({ s with queues := smPut s.queues k { q with live := false } }, [0, 0, 0, 0]) else .error 4

/-- The operation of the request in the block; result 5 where it is not listed. -/
def mgmtOp (s : State) : MgmtRes :=
  match memRd s.mem (s.mgmtBase + 0x10) 8 with
  | 1 => opCreate s
  | 2 => opRetire s
  | 3 => opClass s
  | 4 => opRegister s
  | 5 => opDeregister s
  | w => .error (if w < 256 then 5 else 1)

/-- Whether a reserved field of the block that no operation covers is non-zero: 0x00 [63:32], 0x08 [63:40] and 0x80 to 0xF8. -/
def mgmtReserved (s : State) : Bool :=
  memRd s.mem (s.mgmtBase + 4) 4 != 0 || memRd s.mem (s.mgmtBase + 13) 3 != 0 || memRd s.mem (s.mgmtBase + 0x80) 128 != 0

/-- Serves the request that is posted (R479); none while a sector of the block is poisoned, whose read gives no data (R392, log 66). -/
def mgmtServe (s : State) : State :=
  let b := s.mgmtBase
  let ack := memRd s.mem (b + 8) 4
  if !readyBit s 38 || runBad s b 256 || memRd s.mem b 4 != (ack + 1) % 2 ^ 32 then s
  else
    let r := if mgmtReserved s then .error 1 else mgmtOp s
    let fin (s : State) (res : Nat) : State := { s with mem := memWr s.mem (b + 8) 5 (res * 2 ^ 32 + (ack + 1) % 2 ^ 32) }
    match r with
    | .ok (s, out) => fin { s with mem := (out.zip (nats 0 4)).foldl (fun m p => memWr m (b + 0x60 + 8 * p.2) 8 p.1) s.mem } 0
    | .error res => fin s res

/-- An event of one operation: it serves the posted request where the request names this operation, or none that exists. -/
def mgmtEvent (op : Nat) (s : State) : Out :=
  let w := memRd s.mem (s.mgmtBase + 0x10) 8
  event (w == op || w == 0 || decide (5 < w)) mgmtServe s

/-- Event: an ASID is created (R479). -/
def execMgmtCreateAsid (s : State) : Out := mgmtEvent 1 s
/-- Event: an ASID is retired (R479). -/
def execMgmtRetireAsid (s : State) : Out := mgmtEvent 2 s
/-- Event: a class is set (R479). -/
def execMgmtSetClass (s : State) : Out := mgmtEvent 3 s
/-- Event: a queue is registered (R479). -/
def execMgmtRegisterQueue (s : State) : Out := mgmtEvent 4 s
/-- Event: a queue is deregistered (R479). -/
def execMgmtDeregisterQueue (s : State) : Out := mgmtEvent 5 s

end Sys2Proof.Machine
end

