-- ==== Sys2Proof/Machine/DebugOps.lean ====
section
/-! DEFINITION. The debug block and the power gate of a cluster (R437 to R452): freeze and thaw, the registers and the dump
window, trace arming, gating and the wake test. An event that is not due leaves the state as it is. -/

namespace Sys2Proof.Machine

/-! ### The dump window (R446) -/

/-- The member count of the convoy at the V-stream's PC: 0 when halted. A convoy that cannot be fetched counts one member (log 33). -/
def dumpMembers (s : State) (n : Nat) : Nat :=
  let v := (s.coreN n).vec
  if v.halted then 0
  else match (fetchConvoy n 4 s v.pc []).2 with
    | .encs l => max 1 l.length
    | _ => 1

/-- A core as section 0 of its window shows it: at task privilege with the resume values of a slot (R290, R488), in a handler as it
stands (log 33). -/
def dumpCore (c : Core) : Core := if c.ctl.priv = 0 then resumeCore c else c

/-- The bytes of the dump window of a core from an offset on: the two words of R446, and the areas of a slot as the core stands,
with its registers in section 0. A poisoned TCM word gives no data (R390): what its bytes read as is free (log 86). -/
def dumpBytes (s : State) (n off len : Nat) : List Byte :=
  let c := s.coreN n
  let v := c.vec
  let head := memWr (memWr [] 0 8 v.pc.toNat) 8 8 (dumpMembers s n * 2 ^ 48 + v.vstart)
  let sec0 := sec0Mem s n (dumpCore c)
  (nats off len).map fun o =>
    if o < 0x10 then memGet head o
    else if o < 0x1000 then 0
    else if o < 0x1800 then memGet sec0 (o - 0x1000)
    else if o < 0x1E000 then
      (secBytes ((s.dbgOf (clusterOf n)).dumpNum + n % 24) ((o - 0x1000) / 0x800)).getD ((o - 0x1000) % 0x800) 0
    else if o < 0x21000 then 0
    else if o < 0x81000 then
      let x := (o - 0x21000) / 4
      (cellGet c.grd (x / 384) (x % 384)).extractLsb' (8 * ((o - 0x21000) % 4)) 8
    else if o < 0x81000 + 4096 * (s.gangOf n).tcmBlocks then
      if c.tcmPoison.contains ((o - 0x81000) / 8) then BitVec.ofNat 8 (Config.freeBits (s.free + o)) else memGet c.tcm (o - 0x81000)
    else 0

/-- One byte of a row or of the TCM allotment that a debugger has written (R446). -/
def dumpPoke (blocks : Nat) (c : Core) (w : Nat × Byte) : Core :=
  let o := w.1
  if 0x21000 ≤ o ∧ o < 0x81000 then
    let x := (o - 0x21000) / 4
    let k := 8 * ((o - 0x21000) % 4)
    let old := cellGet c.grd (x / 384) (x % 384)
    c.updGrd fun g => cellSet g (x / 384) (x % 384) ((old &&& ~~~((0xFF : Word) <<< k)) ||| (w.2.setWidth 32 <<< k))
  else if 0x81000 ≤ o ∧ o < 0x81000 + 4096 * blocks then
    { c with tcm := memSet c.tcm (o - 0x81000) w.2, tcmDirty := smSet false c.tcmDirty ((o - 0x81000) / 4096) true }
  else c

/-- The TCM words that writes of 8 aligned bytes cover: they are good again (R390). Every write of a window has 8 bytes. -/
def dumpCovers (blocks : Nat) (ws : List (Nat × Byte)) : List Nat :=
  ((nats 0 (ws.length / 8)).map fun i => (ws.getD (8 * i) (0, 0)).1).filterMap fun o =>
    if o % 8 = 0 ∧ 0x81000 ≤ o ∧ o < 0x81000 + 4096 * blocks then some ((o - 0x81000) / 8) else none
/-- The writes of rows and of the TCM. -/
def dumpPokes (blocks : Nat) (ws : List (Nat × Byte)) (c : Core) : Core :=
  let good := dumpCovers blocks ws
  let c := ws.foldl (dumpPoke blocks) c
  { c with tcmPoison := c.tcmPoison.filter fun x => !good.contains x }

/-- The writes of a range, over bytes that stand at offset 0 of it. -/
def dumpOver (ws : List (Nat × Byte)) (lo hi : Nat) (m : Mem) : Mem :=
  (ws.filter fun w => decide (lo ≤ w.1) && decide (w.1 < hi)).foldl (fun m w => memSet m (w.1 - lo) w.2) m

/-- A core after a debugger's writes of its section 0; fields no write reaches keep what the section has no room for. Another PC
leaves the instruction that the old one named: its waits are returned, and a claimed `ebreak` is done with (R447). -/
def dumpSec0 (s : State) (n : Nat) (ws : List (Nat × Byte)) : Core :=
  let c := s.coreN n
  let hit (lo hi : Nat) : Bool := ws.any fun w => decide (0x1000 + lo ≤ w.1) && decide (w.1 < 0x1000 + hi)
  if !hit 0 0x800 then c
  else
    let m := dumpOver ws 0x1000 0x1800 (sec0Mem s n (dumpCore c))
    let d := sec0Load (fun o k => memRd m o k) c
    let d := if hit 0x4A0 0x4C8 then d else d.updCtl fun k =>
      { k with epc := c.ctl.epc, csrc := c.ctl.csrc, ccode := c.ctl.ccode, tval := c.ctl.tval, pfrec := c.ctl.pfrec, vtrec := c.ctl.vtrec }
    let d := if hit 0x650 0x6F0 then d else { d with ptraps := c.ptraps }
    let d := if hit 0x6F0 0x708 then d else { d with reports := c.reports }
    if d.ctl.pc = c.ctl.pc then d
    else
      { (giveBack d).updCtl fun k =>
          { k with stalled := false, cadTested := false, pauseEnd := none, exiting := false } with ebrk := [] }

/-- The writes of a core's sections 1 to 57. Bytes that are a save's give its content; others leave it free (R416, log 8). -/
def dumpSections (s : State) (n : Nat) (ws : List (Nat × Byte)) (c : Core) : Core :=
  (nats 1 57).foldl (fun c k =>
    let lo := 0x1000 + 0x800 * k
    if ws.any fun w => decide (lo ≤ w.1) && decide (w.1 < lo + 0x800) then
      let m := dumpOver ws lo (lo + 0x800) (memPut [] 0 (secBytes ((s.dbgOf (clusterOf n)).dumpNum + n % 24) k))
      let num := memRd m 0 8
      secPut c (secCore s (if memBytes m 0 0x800 = secBytes num k then num else 0)) (secHead k)
    else c) c

/-- Applies a debugger's writes of a core's dump window, at the thaw (R446): `%budget` in section 0 is the gang's. -/
def applyDump (s : State) (n : Nat) (ws : List (Nat × Byte)) : State :=
  if ws.isEmpty then s
  else
    let c := dumpPokes (s.gangOf n).tcmBlocks ws (dumpSections s n ws (dumpSec0 s n ws))
    let bud := ws.any fun w => decide (0x1398 ≤ w.1) && decide (w.1 < 0x13A0)
    let v := memRd (dumpOver ws 0x1000 0x1800 (sec0Mem s n (s.coreN n))) 0x398 8
    let s := if bud && smHas s.gangs (s.gid n) && (s.gangOf n).period != 0 then s.updGang (s.gid n) fun t => { t with budget := v } else s
    (s.setCoreN n c).bumpFree

/-! ### Freeze and thaw (R444 to R447) -/

/-- A freeze at a debugger's request (R444); it is a debug request for every core of the cluster (R360). -/
def freezeReq (s : State) (k : Nat) : State :=
  if (s.dbgOf k).frozen || (s.dbgOf k).pending then s
  else
    (nats (24 * k) 24).foldl (fun s n => s.updN n fun c => c.updCtl fun t => { t with event := t.event ||| 16 })
      (requestFreeze s (24 * k) 1 0 0)
/-- Event: a write of freeze (R444). -/
def execDbgFreeze (cluster : Nat) (s : State) : Out := .next (freezeReq s cluster)

/-- Whether every engine of a cluster has stopped after the latch. A cause 0x0D comes first: the freeze waits for the stop of its
task's cores (R448). -/
def cluStopped (s : State) (k : Nat) : Bool :=
  (s.dbgOf k).pending && (nats (24 * k) 24).all fun n =>
    enginesStopped (s.coreN n) && !(stopDue (s.coreN n) && (s.gangOf n).why == some .faulted)
/-- The detail of a freeze or thaw record (R451). -/
def freezeDetail (d : Dbg) : Nat := d.unit.toNat * 16 + d.reason.toNat
def traceFreeze (s : State) (k kind : Nat) : State :=
  let d := s.dbgOf k
  trace s kind d.core.toNat (s.coreN d.core.toNat).ctl.pc 0 (freezeDetail d)

/-- The clocks of a cluster are gated (R444). -/
def freezeNow (s : State) (k : Nat) : State :=
  let s := (nats (24 * k) 24).foldl (fun s n => s.updN n fun c => { c with frozen := true, freezeLatch := false }) s
  let num := s.nextSave + 1
  let s := { s with saves := (nats (24 * k) 24).foldl (fun m n => smPut m (num + n % 24) (secOnly (s.coreN n))) s.saves,
                    nextSave := s.nextSave + 24 }
  let s := s.setDbg k { s.dbgOf k with frozen := true, pending := false, dumpNum := num }
  traceFreeze s k 0x06
/-- Event: the engines have stopped and the cluster is frozen (R444). -/
def execClusterFrozen (cluster : Nat) (s : State) : Out := event (cluStopped s cluster) (fun s => freezeNow s cluster) s

/-- The acknowledgement of the sender's oldest arrived entry reaches it. -/
def skidEnq (s : State) (n : Nat) : State :=
  match s.mail.find? fun m => m.src == n && m.arrived with
  | some m => enqAck { s with mail := s.mail.erase m } m
  | none => s
/-- A reply of the skid buffer is delivered: 16 a deferred report, 17 an entry's acknowledgement, else a scatter's of a lane. -/
def skidDeliver (s : State) (x : Nat × Nat) : State :=
  if x.2 = 16 then reportArrive s x.1 else if x.2 = 17 then skidEnq s x.1 else ackLane s x.1 x.2

/-- The engine trap held on a core is taken at the thaw, before a breakpoint there or a request of its gang (R448). -/
def thawTrap (s : State) (n : Nat) : State :=
  match dueTrap (s.coreN n) with
  | some t => takeDue s n t
  | none => s

/-- The thaw (R447): the skid buffer, the writes of the dump windows (R446), the clocks, the traps held, the period starts held (R445),
and the requests that came meanwhile (R448). -/
def thaw (s : State) (k : Nat) : State :=
  let d := s.dbgOf k
  if !d.frozen then s
  else
    let s := d.skid.foldl skidDeliver s
    let s := (nats (24 * k) 24).foldl (fun s n =>
      (applyDump s n ((d.dump.filter fun w => w.1 == n).map fun w => w.2)).updN n fun c => { c with frozen := false }) s
    let s := s.setDbg k { s.dbgOf k with frozen := false, skid := [], dump := [] }
    let s := traceFreeze s k 0x07
    let s := (nats (24 * k) 24).foldl thawTrap s
    ((gangsIn s k).map (·.1)).foldl (fun s g => latchLate (periodStart s g) g) s
/-- Event: a write of thaw (R447). -/
def execDbgThaw (cluster : Nat) (s : State) : Out := .next (thaw s cluster)

/-- Abandons the cluster's saves in progress, while frozen (R419, R441). -/
def resetCtx (s : State) (k : Nat) : State :=
  if (s.dbgOf k).frozen then
    (nats (24 * k) 24).foldl (fun s n => s.updN n fun c => if saving c then { c with ctxErr := true } else c) s
  else s
/-- Event: a write of reset_ctx (R441). -/
def execDbgResetCtx (cluster : Nat) (s : State) : Out := .next (resetCtx s cluster)

/-- The breakpoint that a core's next instruction or convoy hits (R443). -/
def bkptDue (s : State) (n : Nat) : Option Nat :=
  let c := s.coreN n
  let cHit := if atBoundary c && !exits c && !(c.latched && c.ctl.priv == 0) then bkptFind s n false c.ctl.priv c.ctl.pc else none
  let vHit := if engOk c && !c.vec.halted && !c.vec.trapped && c.vec.cv.isNone then bkptFind s n true 0 c.vec.pc else none
  cHit.or vHit
/-- Event: a breakpoint hits (R443). -/
def execBreakpointHit (core : Nat) (s : State) : Out :=
  .next <| match bkptDue s core with
  | some u => requestFreeze s core 2 (BitVec.ofNat 4 u) 0
  | none => s

/-- Event: a watchpoint hits (R443). -/
def execWatchpointHit (core : Nat) (s : State) : Out := .next (watchAnswer s core)

/-! ### Trace control (R386, R449) -/

/-- A write of `trc_ctl`: size_log2 keeps its value while armed; arming resets wp and pins the pages that translate; disarming
releases them. Cadence misses count anew from an arming (R452). -/
def trcCtlWrite (s : State) (k : Nat) (v : DWord) : State :=
  let d := s.dbgOf k
  let armed := d.trcCtl.getLsbD 0
  let v := v &&& 0x1F1F
  let v := if armed then (v &&& ~~~0x1F00) ||| (d.trcCtl &&& 0x1F00) else v
  if !v.getLsbD 0 then s.setDbg k { d with trcCtl := v, trcPins := [] }
  else if armed then s.setDbg k { d with trcCtl := v }
  else
    let s := s.setDbg k { d with trcCtl := v, trcWp := 0, trcPins := [] }
    let s := (nats 0 (2 ^ (v.extractLsb' 8 5).toNat)).foldl (fun s p => trcPinUnit s k (128 * p)) s
    (nats (24 * k) 24).foldl (fun s n => s.updN n fun c => { c with cadMiss := 0 }) s
/-- Event: the trace of a cluster is armed (R449). -/
def execTrcArm (cluster : Nat) (v : DWord) (s : State) : Out := .next (trcCtlWrite s cluster (v ||| 1))

/-! ### The registers (R6, R440 to R442, R449, R452) -/

/-- A write of `dbg_ctl`: reset_ctx and thaw act on a frozen cluster, freeze on another. -/
def dbgCtlWrite (s : State) (k : Nat) (v : DWord) : State :=
  if (s.dbgOf k).frozen then
    let s := if v.getLsbD 2 then resetCtx s k else s
    if v.getLsbD 1 then thaw s k else s
  else if v.getLsbD 0 then freezeReq s k else s

/-- The new value of `watch_sel`: a size outside 5 to 40 leaves that field unchanged. -/
def watchSelNew (old v : DWord) : DWord :=
  let z := (v.extractLsb' 44 6).toNat
  let m : DWord := 0x00000F07FFFFFFFF
  if 5 ≤ z ∧ z ≤ 40 then (v &&& m) ||| (v &&& 0x0003F00000000000) else (v &&& m) ||| (old &&& 0x0003F00000000000)

/-- A write of a debug register sets its RW fields (R6); other offsets below the dump windows ignore it (R440). -/
def dbgRegWrite (s : State) (k off : Nat) (v : DWord) : State :=
  let d := s.dbgOf k
  if off = 0x000 then dbgCtlWrite s k v
  else if off = 0x010 then s.setDbg k { d with claim := v.setWidth 24 }
  else if off = 0x018 then s.setDbg k { d with gcorr := v.extractLsb' 32 32, vcorr := v.setWidth 32 }
  else if 0x040 ≤ off ∧ off < 0x0C0 ∧ off % 16 = 0 then
    s.setDbg k { d with bkptAddr := smSet 0 d.bkptAddr ((off - 0x040) / 16) (v &&& 0xE0FFFFFFFFFFFFFF) }
  else if 0x040 ≤ off ∧ off < 0x0C0 ∧ off % 16 = 8 then
    s.setDbg k { d with bkptSel := smSet 0 d.bkptSel ((off - 0x048) / 16) (v &&& 0x00000007FFFFFFFF) }
  else if 0x0C0 ≤ off ∧ off < 0x100 ∧ off % 16 = 0 then
    s.setDbg k { d with watchAddr := smSet 0 d.watchAddr ((off - 0x0C0) / 16) (v &&& 0xE0FFFFFFFFFFFFFF) }
  else if 0x0C0 ≤ off ∧ off < 0x100 ∧ off % 16 = 8 then
    let i := (off - 0x0C8) / 16
    s.setDbg k { d with watchSel := smPut d.watchSel i (watchSelNew (smGet (5#64 <<< 44) d.watchSel i) v) }
  else if off = 0x100 then if d.trcCtl.getLsbD 0 then s else s.setDbg k { d with trcBase := v &&& 0x00FFFFFFFFFFF3FF }
  else if off = 0x108 then trcCtlWrite s k v
  else if off = 0x110 then s.setDbg k { d with trcRp := v.setWidth 32 }
  else if off = 0x120 then s.setDbg k { d with trcLost := v.setWidth 32 }
  else if off = 0x140 then s.setDbg k { d with prf := v &&& 0x00000000FFFFFFF1 }
  else s

/-- A write of a dump window, 8 bytes, which takes effect at thaw; outside a freeze it is ignored (R446). -/
def dumpWrite (s : State) (k off : Nat) (v : DWord) : State :=
  let d := s.dbgOf k
  let n := (off - 0x100000) / 0x200000
  let o := (off - 0x100000) % 0x200000
  if !d.frozen || decide (24 ≤ n) then s
  else s.setDbg k { d with dump := d.dump ++ (nats 0 8).map fun i => (24 * k + n, o + i, BitVec.ofNat 8 (v.toNat / 256 ^ i)) }

/-- A write at an offset of a cluster's debug block. -/
def dbgWrite (s : State) (k off : Nat) (v : DWord) : State := if off < 0x100000 then dbgRegWrite s k off v else dumpWrite s k off v
/-- Event: a write of a register without a row of its own: a debug register or a dump window, also through BAR4, where cluster k's
block stands at k × 64 MiB, while port 0 carries it (R6, R440, R446, R459, R466), and an entry of the inbound aperture table,
whose reserved bits are zero (R462). -/
def execRegisterWrite (blk : RegBlock) (off : Nat) (v : DWord) (s : State) : Out :=
  .next <| match blk with
  | .dbg cluster => dbgWrite s cluster off v
  | .bar4 => if readyBit s 16 && decide (off < 0x20000000) then dbgWrite s (off / 0x4000000) (off % 0x4000000) v else s
  | .inbound => if off < 2 ^ 19 then { s with inbound := smPut s.inbound off (v &&& 0x000FFFFFFFE000FF) } else s

/-- The value of a debug register or of 8 bytes of a dump window (R440 to R442, R446, R449, R452). -/
def dbgRead (s : State) (k off : Nat) : DWord :=
  let d := s.dbgOf k
  let f (x : Nat) (sh : Nat) : Nat := x * 2 ^ sh
  if 0x100000 ≤ off then
    if !d.frozen || decide (24 ≤ (off - 0x100000) / 0x200000) then 0
    else BitVec.ofNat 64 (leVal (dumpBytes s (24 * k + (off - 0x100000) / 0x200000) ((off - 0x100000) % 0x200000) 8))
  else if off = 0x008 then
    BitVec.ofNat 64 (f d.core.toNat 32 + f d.src.toNat 29 + f d.reason.toNat 24 + f d.unit.toNat 20 + f (d.skid.length % 2048) 1 +
      (if d.frozen then 1 else 0))
  else if off = 0x010 then d.claim.setWidth 64
  else if off = 0x018 then d.gcorr ++ d.vcorr
  else if off = 0x020 then (d.gfail ++ d.vfail).setWidth 64
  else if off = 0x028 then BitVec.ofNat 64 (f d.coreFail.toNat 24 + (if d.spadFail then 2 ^ 16 else 0) + d.runs.toNat)
  else if 0x040 ≤ off ∧ off < 0x0C0 ∧ off % 16 = 0 then smGet 0 d.bkptAddr ((off - 0x040) / 16)
  else if 0x040 ≤ off ∧ off < 0x0C0 ∧ off % 16 = 8 then smGet 0 d.bkptSel ((off - 0x048) / 16)
  else if 0x0C0 ≤ off ∧ off < 0x100 ∧ off % 16 = 0 then smGet 0 d.watchAddr ((off - 0x0C0) / 16)
  else if 0x0C0 ≤ off ∧ off < 0x100 ∧ off % 16 = 8 then smGet (5#64 <<< 44) d.watchSel ((off - 0x0C8) / 16)
  else if off = 0x100 then d.trcBase
  else if off = 0x108 then d.trcCtl
  else if off = 0x110 then d.trcRp.setWidth 64
  else if off = 0x118 then d.trcWp.setWidth 64
  else if off = 0x120 then d.trcLost.setWidth 64
  else if off = 0x140 then d.prf
  else 0

/-! ### Gating and the wake test (R437 to R439) -/

/-- A core whose cluster has lost its power: the grid and the TCM are gone, and the counts since its wake begin again (R430, R434). -/
def Core.powerCut (c : Core) : Core :=
  { c with grd := {}, tcm := [], tcmDirty := [], tcmPoison := [], tcmOwner := [], lanes := [], updNum := 0 }
/-- The cluster is gated. -/
def gateNow (s : State) (k : Nat) : State :=
  let s := (nats (24 * k) 24).foldl (fun s n => s.updN n Core.powerCut) s
  s.setClu k { s.clu k with spad := [], spPoison := [], spOwner := [], gated := true, gateReq := false, drainEnd := none, waking := false }

/-- Whether a request to gate a cluster is taken (R437, R448): no task in it and no cores reserved in it, and at a thermal stop no
task but saved ones (R486). During the wake test of a gated cluster it is taken, and acts after the test (R487). -/
def gateOk (s : State) (k : Nat) : Bool :=
  (if (s.clu k).hot then (gangsIn s k).all fun p => p.2.life == .saved else (gangsIn s k).isEmpty && keptCores s k == 0) &&
  !(s.dbgOf k).frozen && !(s.dbgOf k).pending && (!(s.clu k).gated || (s.clu k).waking) && !(s.clu k).gateReq

/-- A request to gate: an armed trace first drains. -/
def gateStart (s : State) (k : Nat) : State :=
  let armed := (s.dbgOf k).trcCtl.getLsbD 0
  s.setClu k { s.clu k with gateReq := true, drainEnd := if armed then some (s.clock + 4800) else none }

/-- Ends a request to gate: once the trace has drained, no test runs (R437, R487), and no task is left but saved ones (R486). -/
def gateFinish (s : State) (k : Nat) : State :=
  let c := s.clu k
  let past := match c.drainEnd with | some t => decide (t.toNat ≤ s.clock.toNat) | none => true
  if c.gateReq && past && !c.waking && !c.marching && !(s.dbgOf k).frozen && (gangsIn s k).all (fun p => p.2.life == .saved) then gateNow s k
  else s

/-- Event: the command processor gates a cluster (R437): an armed trace first drains. -/
def execClusterGate (cluster : Nat) (s : State) : Out :=
  event (gateOk s cluster) (fun s => gateFinish (gateStart s cluster) cluster) s
/-- Event: the time limit of the drain (R437). Every record is written as it is made, so none is left to drop. -/
def execTraceDrainLimit (cluster : Nat) (s : State) : Out := .next (gateFinish s cluster)

def popCount24 (b : BitVec 24) : Nat := (nats 0 24).countP fun i => b.getLsbD i

/-- A saved task that its cluster can no longer hold ends faulted, with a record of cause 0x0D (R439). R372 names no core, source, rank or
addresses for it: the record has the cluster's first core, source 0, rank 0 and zeros (the model's choice, log 85). -/
def faultSaved (s : State) (g : Nat) : State :=
  let t := s.gangN g
  match smFind s.launches t.launch with
  | none => endTask s g 5
  | some l =>
    endTask (flogAppend s l.queue
      [l.id.toNat * 2 ^ 32 + 0x0D * 2 ^ 24 + l.asid.toNat, 24 * t.cluster * 256, 0, 0, s.clock.toNat, 0, 0, 0]) g 5

/-- A firmware core that has run its march is free again. -/
def freeFirmware (s : State) (n : Nat) : State := if (s.coreN n).run == .run && !(s.coreN n).hasTask then freeCore s n else s

/-- The boot status word after the consolidation of a cluster (R484). -/
def bootUpdate (s : State) (k : Nat) : State :=
  let dead (j : Nat) : Bool := (s.dbgOf j).spadFail || (s.dbgOf j).coreFail == BitVec.allOnes 24
  let done := (s.bootstat.extractLsb' 16 8).toNat ||| 2 ^ k
  let bad := ((nats 0 8).filter fun j => done.testBit j && dead j).foldl (fun a j => a + 2 ^ j) 0
  let held := (nats 0 8).foldl (fun a j => if done.testBit j then a + popCount24 (s.dbgOf j).coreFail else a) 0
  let new := (s.bootstat.extractLsb' 32 8).toNat
  let verdict := if done ≠ 255 then 0 else if bad = 255 then 4 else if held ≠ 0 ∨ bad ≠ 0 then 3 else if new ≠ 0 then 2 else 1
  { s with bootstat := BitVec.ofNat 64 (new * 2 ^ 32 + bad * 2 ^ 24 + done * 2 ^ 16 + held * 2 ^ 8 + verdict) }

/-- The wake test of a cluster with its result (R438, R439, R478); after a boot march it ends the consolidation (R483). A cluster of a
die that is too hot stays not ready (R486). -/
def wake (s : State) (k : Nat) (coreFail : BitVec 24) (spadFail : Bool) : State :=
  let cl := s.clu k
  let coreFail := coreFail ||| cl.marchFail
  let spadFail := spadFail || cl.marchSpad
  let s := (nats (24 * k) 24).foldl (fun s n => (freeFirmware s n).updN n Core.powerCut) s
  let s := s.setClu k { cl with spad := [], spPoison := [], spOwner := [], gated := false, waking := false, consol := false }
  let d := s.dbgOf k
  let s := s.setDbg k { d with coreFail := coreFail, spadFail := spadFail, runs := d.runs + 1, vfail := d.vfail &&& coreFail,
                               gfail := d.gfail &&& coreFail }
  let m : DWord := 1#64 <<< k
  let s := { s with ready := if spadFail || coreFail == BitVec.allOnes 24 || cl.hot then s.ready &&& ~~~m else s.ready ||| m,
                    failed := if spadFail || coreFail == BitVec.allOnes 24 then s.failed ||| m else s.failed &&& ~~~m }
  let s := if cl.consol then bootUpdate s k else s
  let lost := (gangsIn s k).filter fun p => p.2.life == .saved && decide (24 - popCount24 coreFail < p.2.g)
  checkDone (gateFinish ((lost.map (·.1)).foldl faultSaved s) k)

/-- Whether a wake test is due: the cluster has power again and no task is on its cores. A thermal stop lets a test that is pending
complete (R487). -/
def wakeDue (s : State) (k : Nat) : Bool :=
  (s.clu k).waking && (gangsIn s k).all fun p => p.2.life == .saved

/-- Event: the wake test of a cluster that is powered again (R438). -/
def execWakeTest (cluster : Nat) (coreFail : BitVec 24) (spadFail : Bool) (s : State) : Out :=
  event (wakeDue s cluster) (fun s => wake s cluster coreFail spadFail) s

end Sys2Proof.Machine
end

