-- ==== Sys2Proof/Machine/Fabric.lean ====
section
/-! DEFINITION. Memories, links and the host (R390, R453 to R467): the background scrub, requests of peers, the Quonis ports and
mesh edges, and the QHA-7's windows and registers. -/

namespace Sys2Proof.Machine

/-- A count of corrected errors, saturating (R387). -/
def satCount (v : DWord) : DWord := if v = BitVec.allOnes 64 then v else v + 1

/-- What a controller or its command processor does beside requests. A TCM word or a scratchpad word becomes poisoned where it exists
(R390); a reset of a failed controller clears its record (R391, log 51); a freed frame loses its frame entry and its sectors'
entries (R393). -/
def memEvent (s : State) : MemEvent → State
  | .sector pa => addPoison s pa.toNat
  | .corrected pa =>
    match ctlOf pa.toNat with
    | some k =>
      let die := if k < 8 then k / 2 else k - 8
      { s with ecc := smSet 0 s.ecc die (satCount (smGet 0 s.ecc die)) }
    | none => s
  | .tcmWord n w =>
    if n < 192 ∧ w < 0x20000 then s.updN n fun c => { c with tcmPoison := w :: c.tcmPoison.filter (· ≠ w) } else s
  | .spadWord k w =>
    if k < 8 ∧ w < 6144 * 127 then s.setClu k { s.clu k with spPoison := w :: (s.clu k).spPoison.filter (· ≠ w) } else s
  | .reset k =>
    if (smGet {} s.poison k).failed then { s with poison := smPut s.poison k {} } else s
  | .freed fs =>
    let gone (pa : Nat) : Bool := fs.any fun f => f.toNat == pa / 4096
    { s with poison := s.poison.map fun p =>
        (p.1, { p.2 with sectors := p.2.sectors.filter fun x => !gone x, frames := p.2.frames.filter fun x => !gone x }) }
/-- Event: a controller's scrub, its errors and the care of its record (R387, R390 to R393). -/
def execBackgroundScrub (e : MemEvent) (s : State) : Out := .next (memEvent s e)

/-! ### Peers (R462) -/

/-- The entry of the inbound aperture table for an offset. -/
def inboundOf (s : State) (off : Nat) : DWord := smGet (Config.inboundEntry (off / 0x200000)) s.inbound (off / 0x200000)

/-- The physical address of a peer's request, where its entry allows it. -/
def inboundPa (s : State) (peer : BitVec 6) (off : Nat) (write : Bool) : Option Nat :=
  let e := inboundOf s off
  let pa := (e.extractLsb' 21 31).toNat * 0x200000 + off % 0x200000
  if e.extractLsb' 21 31 = 0 ∨ ¬ (e.getLsbD 1 = true ∨ e.extractLsb' 2 6 = peer) ∨ (write = true ∧ e.getLsbD 0 = false) then none
  else if mapOk s pa 0 || mapOk s pa 1 then some pa else none

/-- The physical address of a peer's request of `n` bytes at an offset, where every byte of it is one entry's. -/
def inboundRange (s : State) (peer : BitVec 6) (off n : Nat) (write : Bool) : Option Nat :=
  if 0x200000 < off % 0x200000 + n then none else inboundPa s peer off write

/-- One read of a peer from a port's die: the code 0 done, 1 refused or 2 poison, then the bytes. -/
def peerRead (s : State) (peer : BitVec 6) (die off n : Nat) : List Byte :=
  match inboundRange s peer off n false with
  | none => 1 :: List.replicate n 0
  | some pa => if poisoned s pa || !usable s die pa then 2 :: List.replicate n 0 else 0 :: memBytes s.mem pa n

/-- A peer's write. A request that covers a sector clears its poison entry (R392): only copy instructions send such requests. -/
def peerWrite (s : State) (peer : BitVec 6) (die off : Nat) (data : List Byte) : State :=
  match inboundRange s peer off data.length true with
  | none => { s with reply := [1] }
  | some pa =>
    if !usable s die pa then { s with reply := [1] }
    else
      let first := (pa + 31) / 32
      let s := { s with mem := memPut s.mem pa data, reply := [0] }
      (nats first ((pa + data.length) / 32 - first)).foldl (fun s i => clearPoison s (32 * i)) s

/-- A peer's entry for an inbox of this module (R275, R464): its request waits at the inbox until it is granted in its turn; it is
refused where no task of its ASID is there or no path leads there. The reply is 0 granted, 1 refused, 3 waiting. -/
def peerEnqueue (s : State) (peer : BitVec 6) (die : Nat) (asid : BitVec 10) (addr : DWord) (data : BitVec 256) : State :=
  let m := enqCore addr
  let b := (addr.extractLsb' 0 4).toNat
  let c := s.coreN m
  if !enqLocal s addr || decide (24 ≤ (addr.extractLsb' 8 5).toNat) || !c.hasTask || c.asid != asid || c.latched || (route s die (dieOf m)).isNone then
    { s with reply := [1] }
  else
    let e : Mail := { src := 192 + peer.toNat, dst := m, inbox := b, data := data, asid := asid, ack := false, slot := 0, addr := addr }
    let s := { s with mail := s.mail ++ [e], reply := [3] }
    if mailDue s e then mailGrant { s with reply := [0] } e else s

/-- Event: a peer's request at a port (R462 to R464), which travels from the port's die (R455). A gather answers its elements in
order, each resolved by itself (R463). -/
def execPeerInboundRequest (peer : BitVec 6) (port : Nat) (req : PeerReq) (s : State) : Out :=
  let die := portDie port
  event (decide (port < 18) && readyBit s (16 + port)) (fun s => match req with
    | .read off => { s with reply := peerRead s peer die (off.toNat / 32 * 32) 32 }
    | .write off data => peerWrite s peer die off.toNat data
    | .gather base offs log2 =>
      { s with reply := (offs.map fun o => peerRead s peer die ((base.toNat + o.toNat) % 2 ^ 40) (2 ^ log2.toNat)).flatten }
    | .enqueue asid addr data => peerEnqueue s peer die asid addr data) s

/-! ### Ports and edges (R455, R459) -/

def portOf' (s : State) (p : Nat) : Port := smGet {} s.ports p
/-- Event: a flit's CRC. One that fails is replayed, and after eight replays of one flit the port retrains; one that passes is
done with, and the next begins anew (R459). A flit sent by a port that retrained shows that the training was done. -/
def execFlitCrcReplay (flit : Flit) (s : State) : Out :=
  let port := flit.port
  event (decide (port < 18) && readyBit s (16 + port)) (fun s =>
    let p := portOf' s port
    let k := if p.retraining then 1 else p.replays + 1
    { s with ports := smPut s.ports port (if !flit.bad then {} else if k = 8 then { replays := 0, retraining := true } else { replays := k, retraining := false }) }) s

/-- Whether a port trains: anew after its replays, or for the first time, at bring-up (R459, R478). -/
def portTrains (s : State) (p : Nat) : Bool :=
  (portOf' s p).retraining || (s.clocksOn && !readyBit s (16 + p) && !s.failed.getLsbD (16 + p))
/-- Event: the training of a port has not ended in its time: 100 µs, or at bring-up that of R478 (R459). -/
def execRetrainTimeout (port : Nat) (s : State) : Out :=
  event (decide (port < 18) && portTrains s port) (fun s => notReady { s with ports := smPut s.ports port {} } (16 + port)) s

/-! ### The host adapter (R465 to R467) -/

/-- The physical address of a BAR2 offset, through its aperture entry. -/
def hostPa (s : State) (off : Nat) (write : Bool) : Option Nat :=
  let e := smGet 0 s.qhaBase (off / 0x80000000)
  let pa := (e.extractLsb' 31 21).toNat * 0x80000000 + off % 0x80000000
  if e.getLsbD 0 && (!write || e.getLsbD 1) && (mapOk s pa 0 || mapOk s pa 1) then some pa else none

/-- The addresses of a host access, none where any byte is refused. -/
def hostRange (s : State) (off n : Nat) (write : Bool) : Option Nat :=
  if (nats off n).all fun o => (hostPa s o write).isSome && o / 0x80000000 == off / 0x80000000 then hostPa s off write else none

/-- Event: a host write through BAR2 (R466, R467), while port 0 carries it (R459). It leaves a poisoned sector poisoned: only copy
instructions send whole-sector requests (R392). -/
def execHostWrite (off : BitVec 36) (data : List Byte) (s : State) : Out :=
  .next <| match hostRange s off.toNat data.length true with
  | none => { s with qhaErr := s.qhaErr + 1 }
  | some pa => if readyBit s 16 && usable s 0 pa then { s with mem := memPut s.mem pa data } else s

/-- Event: a host write of BAR0 (R466): before the lock, the aperture entries and the MSI-X table; after it, discarded. -/
def execBar0Write (off : BitVec 24) (v : DWord) (s : State) : Out :=
  .next <|
    let o := off.toNat
    if s.qhaLock then { s with qhaErr := s.qhaErr + 1 }
    else if 0x1000 ≤ o ∧ o < 0x1100 ∧ o % 8 = 0 then { s with qhaBase := smSet 0 s.qhaBase ((o - 0x1000) / 8) (v &&& 0x000FFFFF80000003) }
    else if 0x2000 ≤ o ∧ o < 0x2400 ∧ o % 8 = 0 then { s with msixTable := smSet 0 s.msixTable ((o - 0x2000) / 8) v }
    else s

/-- The value of a BAR0 register (R466, R477). -/
def bar0Read (s : State) (o : Nat) : DWord :=
  if o = 0x0100 then s.ready
  else if o = 0x0108 then s.qhaErr
  else if 0x1000 ≤ o ∧ o < 0x1100 ∧ o % 8 = 0 then smGet 0 s.qhaBase ((o - 0x1000) / 8)
  else if 0x2000 ≤ o ∧ o < 0x2400 ∧ o % 8 = 0 then smGet 0 s.msixTable ((o - 0x2000) / 8)
  else 0

/-- A host read through BAR2; a poisoned or unreachable sector returns no data. -/
def bar2Read (s : State) (off n : Nat) : State :=
  match hostRange s off n false with
  | none => { s with qhaErr := s.qhaErr + 1, reply := List.replicate n 0xFF }
  | some pa =>
    if !readyBit s 16 || !usable s 0 pa || (nats (pa / 32) ((pa + n + 31) / 32 - pa / 32)).any (fun i => poisoned s (32 * i)) then
      { s with reply := [] }
    else { s with reply := memBytes s.mem pa n }

/-- Event: a host read of a register of the adapter, of the module window, or of a debug block, cluster k's at k × 64 MiB (R466, R467).
BAR2 and BAR4 need port 0 (R459). A register answers with its 8 bytes. -/
def execHostRead (off : HostAt) (n : Nat) (s : State) : Out :=
  .next <| match off with
  | .bar0 off => { s with reply := leBytes (bar0Read s off.toNat).toNat 8 }
  | .bar2 off => bar2Read s off.toNat n
  | .bar4 off =>
    { s with reply := if readyBit s 16 then leBytes (dbgRead s (off.toNat / 0x4000000) (off.toNat % 0x4000000)).toNat 8 else [] }

end Sys2Proof.Machine
end

