-- ==== Sys2Proof/Machine/Power.lean ====
section
/-! DEFINITION. Bring-up, identity and power (R468 to R487): flash records, power-on, the boot march and its consolidation,
readiness, core reset, attestation, and the thermal limits. -/

namespace Sys2Proof.Machine

/-! ### Flash records (R468 to R471) -/

/-- The bytes of a record from 0x000 to the end of its body. -/
def recBytes (r : FlashRec) : List Byte :=
  leBytes r.magic.toNat 4 ++ [r.kind, r.signer] ++ leBytes r.reserved.toNat 2 ++ leBytes r.seq.toNat 4 ++ leBytes r.body.length 4 ++ leBytes r.serial.toNat 16 ++ r.body

/-- The bytes of an ML-DSA-65 signature. -/
def sigBytes : Nat := 3309
/-- A whole record as flash holds it: the signature stands at the next multiple of 8 after the body. -/
def recImage (r : FlashRec) : List Byte :=
  let b := recBytes r
  b ++ List.replicate ((8 - b.length % 8) % 8) 0 ++ r.sig

def ascii (s : List Nat) : List Byte := s.map (BitVec.ofNat 8)
/-- The context strings of R469: `KX940-REC`, `KX940-ATT` and `KX940-IDE`. -/
def ctxRec : List Byte := ascii [0x4B, 0x58, 0x39, 0x34, 0x30, 0x2D, 0x52, 0x45, 0x43]
def ctxAtt : List Byte := ascii [0x4B, 0x58, 0x39, 0x34, 0x30, 0x2D, 0x41, 0x54, 0x54]
def ctxIde : List Byte := ascii [0x4B, 0x58, 0x39, 0x34, 0x30, 0x2D, 0x49, 0x44, 0x45]
/-- `KX940-DEVID` (R472). -/
def devId : List Byte := ascii [0x4B, 0x58, 0x39, 0x34, 0x30, 0x2D, 0x44, 0x45, 0x56, 0x49, 0x44]

/-- The signers allowed for a kind (R470). -/
def signerOk (kind signer : BitVec 8) : Bool :=
  match kind.toNat with
  | 1 | 2 | 4 | 6 => signer == 0
  | 3 => signer == 0 || signer == 1
  | 5 => signer == 1
  | _ => false

/-- A signature under the identity key: context and message digest (R469). -/
def signed (s : State) (ctx digest : List Byte) : List Byte :=
  (Config.mldsaSign s.devPriv ctx digest ++ List.replicate sigBytes 0).take sigBytes

/-- Whether a record is valid under the module's identity key (R469). -/
def recValid (devPub : List Byte) (r : FlashRec) : Bool :=
  r.magic == 0x58464C31 && r.reserved == 0 && r.sig.length == sigBytes && (r.serial == 0 || r.serial == Config.serial) && signerOk r.kind r.signer && decide (r.body.length ≤ 0x1000000) &&
  Config.mldsaVerify (if r.signer = 0 then Config.rootKey else devPub) ctxRec (Config.shake256 (recBytes r) 64) r.sig

/-- The valid copy with the greater seq, copy A where both have the same (R471). -/
def recInUse (s : State) (kind : BitVec 8) : Option FlashRec :=
  let l := s.flash.filter fun r => r.kind == kind && recValid s.devPub r
  l.foldl (fun a r => match a with
    | none => some r
    | some x => if x.seq.toNat < r.seq.toNat ∨ (x.seq = r.seq ∧ x.copyB = true ∧ r.copyB = false) then some r else some x) none

/-- Writes a new record over the other copy, with seq one greater (R471). -/
def recWrite (s : State) (kind : BitVec 8) (body : List Byte) : State :=
  let old := recInUse s kind
  let copyB := match old with | some r => !r.copyB | none => false
  let r : FlashRec := { kind := kind, copyB := copyB, signer := 1, seq := (match old with | some r => r.seq + 1 | none => 1),
                        serial := Config.serial, body := body, sig := [] }
  let r := { r with sig := signed s ctxRec (Config.shake256 (recBytes r) 64) }
  { s with flash := r :: s.flash.filter fun x => !(x.kind == kind && x.copyB == copyB) }

/-! ### Identity and attestation (R472, R474) -/

/-- Derives the identity key and checks its certificate (R472). -/
def deriveKey (s : State) : State :=
  let xi := Config.shake256 (devId ++ leBytes Config.pufResponse.toNat 32) 32
  let s := { s with devPub := Config.mldsaPub xi, devPriv := Config.mldsaPriv xi }
  { s with devCert := match recInUse s 6 with | some r => Config.certifies r.body s.devPub | none => false }

/-- The attestation report (R474). -/
def attReport (s : State) (nonce : BitVec 256) : List Byte :=
  let digest (k : Nat) : List Byte := match recInUse s (BitVec.ofNat 8 k) with
    | some r => Config.shake256 (recBytes r) 64
    | none => List.replicate 64 0
  leBytes nonce.toNat 32 ++ leBytes Config.serial.toNat 16 ++ leBytes idcode.toNat 8 ++ ((nats 1 5).map digest).flatten ++
  [if s.devCert then 1 else 0] ++ leBytes s.ready.toNat 8 ++ leBytes s.bootstat.toNat 8 ++ leBytes s.clock.toNat 8

/-- Signs a message under the identity key and sends it on VC 3. -/
def sendSigned (s : State) (ctx msg : List Byte) : State :=
  { s with vc3 := s.vc3 ++ [msg ++ signed s ctx (Config.shake256 msg 64)] }

/-- Event: an attestation request is answered (R474). -/
def execAttestationRequest (nonce : BitVec 256) (s : State) : Out := event s.clocksOn (fun s => sendSigned s ctxAtt (attReport s nonce)) s
/-- Event: a key agreement message is answered under the identity key (R465, R474). -/
def execIdeKeyAgreement (msg : BitVec 256) (s : State) : Out := event s.clocksOn (fun s => sendSigned s ctxIde (Config.ideAnswer msg)) s

/-! ### Core reset and the boot march (R475, R480) -/

/-- The physical address of a core's march block: the model's choice is 1,187,840 bytes a core in its die's shared SRAM, above the
boot area, with the tables of ASID 0 mapping every shared SRAM onto its own addresses (log 69). -/
def marchPa (n : Nat) : Nat := sramBase (dieOf n) + 0x20000 + 0x122000 * (n % 48)

/-- A core after its reset: the state of R42 at firmware privilege, under ASID 0; a core of a marching cluster finds its block and its
index in `s1` and `s2` (R480). The profiler's counts go on: R452 has cadence misses count from the arming (log 87). -/
def resetCore (s : State) (n : Nat) (start : VAddr) : Core :=
  let c := s.coreN n
  let march := (s.clu (clusterOf n)).marching
  { tcm := c.tcm.filter fun p => ownedBy c.tcmOwner (p.1 / 4096) 0
    tcmPoison := c.tcmPoison.filter fun x => ownedBy c.tcmOwner (x / 512) 0
    tcmOwner := ownAll c.tcmOwner 256 0
    frozen := c.frozen, run := .run, lanes := c.lanes, updNum := c.updNum, cadMiss := c.cadMiss
    vec := { retired := c.vec.retired, samples := c.vec.samples }
    ctl := { pc := codeAddr 4 start.toNat, priv := 2,
             s := if march then smOf 0 [(1, BitVec.ofNat 64 (marchPa n)), (2, BitVec.ofNat 64 (n % 24))] else [] } }

/-- The scratchpad of a cluster as firmware owns it (R42, R475): a unit that another ASID owned last is zero. The units that a task
of the cluster holds stay the task's (log 69). -/
def fwUnits (s : State) (k : Nat) : Cluster :=
  let c := s.clu k
  let there := gangsIn s k
  let task (x : Nat) : Bool := there.any fun p => decide (p.2.spBase ≤ x) && decide (x < p.2.spBase + p.2.spUnits)
  let stays (x : Nat) : Bool := task x || ownedBy c.spOwner x 0
  { c with spad := c.spad.filter fun p => stays (p.1 / 4064), spPoison := c.spPoison.filter fun x => stays (x / 127),
           spOwner := (nats 0 6144).map fun x => (x, if task x then smGet 1024 c.spOwner x else 0) }

/-- A core reset (R475): the core starts at firmware privilege, its private gang and the scratchpad with it. A task on the core ends as
faulted (log 69). -/
def resetAt (s : State) (n : Nat) (start : VAddr) : State :=
  let g := s.gid n
  let s := profWrite s n
  let s := if (s.coreN n).hasTask then endTask (s.updGang g fun t => { t with cores := t.cores.filter (· < 192) }) g 5 else s
  let s := { s with gangs := smErase s.gangs n }
  let s := s.setClu (clusterOf n) (fwUnits s (clusterOf n))
  s.setCoreN n (resetCore s n start)

/-- The registers that a command processor gives a core it starts (R475). -/
def startRegs (regs : List (Reg × DWord)) (c : Core) : Core := regs.foldl (fun c p => regSet c p.1 p.2) c
/-- A free core on which the command processor starts supervisor code (R354, R370): it runs under ASID 0, with no task. -/
def startSup (start : VAddr) (c : Core) : Core :=
  { c with run := .run, ctl := { c.ctl with pc := codeAddr 4 start.toNat, priv := 1, ppriv := 0, nest := false, waitReset := false,
                                            stalled := false, pauseEnd := none, took := none } }

/-- Whether supervisor code can start on a core (R370). -/
def supOk (s : State) (n : Nat) : Bool := !(s.coreN n).hasTask && (s.coreN n).run == .free && cluOpen s (clusterOf n) && !(s.clu (clusterOf n)).gated

/-- Event: a command processor starts a core: at core reset, with firmware code (R475), or free, with supervisor code (R370). The reset
of a core without power first has its cluster woken: the start is then asked for again (log 69). -/
def execCoreReset (core : Nat) (start : CoreStart) (s : State) : Out :=
  event (s.clocksOn && decide (core < 192) && (!start.sup || supOk s core))
    (fun s =>
      let cl := s.clu (clusterOf core)
      if start.sup then s.setCoreN core (startRegs start.regs (startSup start.pc (s.coreN core)))
      else if cl.gated then s.setClu (clusterOf core) { cl with waking := cl.waking || !cl.hot }
      else (resetAt s core start.pc).updN core (startRegs start.regs)) s

/-! #### The boot march (R480) -/

/-- The set-up of the registers and of the walks, and the passes over the grid. -/
def marchGrid : List Instr :=
  [.li 0 31 1, .li 0 30 65535, .li 0 21 256, .li 0 25 192, .li 0 35 384, .li 0 37 3, .li 0 38 6144, .slli 0 38 38 4,
   .li 0 28 1, .slli 0 28 28 17, .li 0 29 8128, .slli 0 29 29 4, .li 0 16 4064, .li 0 15 254, .slli 0 15 15 12,
   .mul 0 15 15 2, .addi 0 11 1 256, .addi 0 12 11 256, .li 0 14 1536, .add 0 14 14 1, .li 0 13 4096, .add 0 13 13 1,
   .add 0 33 13 0, .li 0 18 4624, .slli 0 18 18 8, .add 0 18 18 1, .li 0 19 1536, .add 0 19 19 18, .qbase 0 18 0 0 0 0,
   .qdim 0 0 35 31 0 0 false, .qfmt 0 0 0 11 1, .qbase 0 19 0 2 0 0, .qdim 0 0 35 31 2 0 false, .qfmt 0 0 2 11 1,
   .qbase 0 13 0 1 0 0, .qdim 0 0 35 31 1 0 false, .qdim 0 0 21 35 1 1 false, .qdim 0 0 37 38 1 2 false, .qfmt 0 0 1 11 2,
   .qstart 0 0 0, .qstart 0 0 1, .qstart 0 0 2, .qrow 0 21 0 0, .li 0 22 0, .jal 0 41 58, .qrow 0 21 2 0, .add 0 22 30 0,
   .jal 0 41 54, .qrow 0 21 0 0, .li 0 22 0, .jal 0 41 50]
/-- The passes over the TCM. -/
def marchTcm : List Instr :=
  [.li 0 23 0, .lpset 0 0 28 0, .st 0 0 23 2 3 0, .addi 0 23 23 8, .lpend 0 0 1022, .li 0 23 0, .lpset 0 0 28 0,
   .ld 0 26 23 2 3 0, .beq 0 26 0 2, .jal 0 40 57, .st 0 30 23 2 3 0, .addi 0 23 23 8, .lpend 0 0 1019, .lpset 0 0 28 0,
   .addi 0 23 23 1016, .ld 0 26 23 2 3 0, .beq 0 26 30 2, .jal 0 40 49, .st 0 0 23 2 3 0, .ld 0 26 23 2 3 0, .beq 0 26 0 2,
   .jal 0 40 45, .lpend 0 0 1016]
/-- The passes over the scratchpad, the done word and the end. -/
def marchSpad : List Instr :=
  [.add 0 23 15 0, .lpset 0 0 29 0, .st 0 0 23 1 3 0, .addi 0 23 23 8, .lpend 0 0 1022, .add 0 23 15 0, .lpset 0 0 29 0,
   .ld 0 26 23 1 3 0, .beq 0 26 0 2, .jal 0 40 38, .st 0 30 23 1 3 0, .addi 0 23 23 8, .lpend 0 0 1019, .lpset 0 0 29 0,
   .addi 0 23 23 1016, .ld 0 26 23 1 3 0, .beq 0 26 30 2, .jal 0 40 30, .st 0 0 23 1 3 0, .ld 0 26 23 1 3 0, .beq 0 26 0 2,
   .jal 0 40 26, .lpend 0 0 1016, .stOrdered 0 31 1 ⟨3, false, true, 0, 3, 0⟩, .halt 0 0 0]
/-- The subroutines `gscan`, `tmark` and `smark`. -/
def marchSubs : List Instr :=
  [.qstore 0 21 1 false 0 false 0 0 0 true, .tkwait 0 0, .lpset 0 0 21 0, .li 0 34 0, .lpset 0 1 25 0, .ld 0 26 33 0 3 0,
   .xor 0 26 26 22, .or 0 34 34 26, .addi 0 33 33 8, .lpend 0 1 1020, .beq 0 34 0 4, .lpidx 0 27 0, .add 0 27 27 11,
   .st 0 31 27 0 0 0, .lpend 0 0 1013, .jalr 0 0 41 0, .srli 0 27 23 10, .add 0 27 27 12, .st 0 31 27 0 0 0, .jalr 0 0 40 0,
   .sub 0 27 23 15, .divn 0 27 27 16, .add 0 27 27 14, .st 0 31 27 0 0 0, .jalr 0 0 40 0]
/-- The listing of R480. -/
def marchProgram : List Instr := marchGrid ++ marchTcm ++ marchSpad ++ marchSubs

/-- The address of the march's first instruction, which is both physical and virtual: the last 64 KiB of the boot area (log 69). -/
def marchEntry : Nat := bootBase + 0x10000

/-- The ASID table of boot firmware and the tables of ASID 0: a leaf of 1 GiB for each die's shared SRAM, at its own addresses, for
reads, writes and fetches (R375 to R377, R475, log 69). -/
def bootTables : List (Nat × Nat) :=
  [(0, bootBase + 0x4001), (8, 0), (0x4000, bootBase + 0x5001), (0x5008, bootBase + 0x6001),
   (0x6000, sramBase 0 + 0x473), (0x6020, sramBase 1 + 0x473), (0x6040, sramBase 2 + 0x473), (0x6060, sramBase 3 + 0x473)]

/-- What boot firmware leaves in the boot area: those tables and the march image. -/
def bootArea (m : Mem) : Mem :=
  let m := memClear m bootBase 0x20000
  let m := bootTables.foldl (fun m p => memWr m (bootBase + p.1) 8 p.2) m
  let w := (marchProgram.map encode).flatten
  (w.zip (nats 0 w.length)).foldl (fun m p => memWr m (marchEntry + 4 * p.2) 4 p.1.toNat) m

/-- The block as the march finds it (R480). -/
def marchInit (m : Mem) (n : Nat) : Mem :=
  let b := marchPa n
  let m := memPut m b (List.replicate 0x1000 0)
  let m := memPut m (b + 0x121000) (List.replicate 1536 0)
  memPut m (b + 0x121600) (List.replicate 1536 0xFF)

/-- The boot march starts on every core of a cluster, which has power for it. -/
def startMarch (s : State) (k : Nat) : State :=
  let s := s.setClu k { s.clu k with marching := true, marchStart := s.clock, gated := false }
  let cs := nats (24 * k) 24
  let s := { s with mem := cs.foldl marchInit s.mem }
  cs.foldl (fun s n => resetAt s n (BitVec.ofNat 56 marchEntry)) s

/-- Whether every mesh edge has reported ready or failed (R477). -/
def edgesKnown (s : State) : Bool := (nats 34 4).all fun i => readyBit s i || s.failed.getLsbD i
/-- Whether a cluster has its march still to make and can make it now: it translates through tables of die 0, so its die waits for a way
there. Where the mesh has none left to give it, its march starts all the same: its fetches fail, and its cores have not finished when
its time is over (R375, R455, R478, R483, log 69). -/
def marchDue (s : State) (k : Nat) : Bool :=
  let c := s.clu k
  s.clocksOn && !readyBit s k && !s.bootstat.getLsbD (16 + k) && !c.consol && !c.marching && !c.hot && !c.waking &&
    ((route s (k / 2) 0).isSome || edgesKnown s)
/-- The marches that are due start. -/
def startMarches (s : State) : State := (nats 0 8).foldl (fun s k => if marchDue s k then startMarch s k else s) s

/-! ### Power-on (R476, R478) -/

/-- The configuration record's fields, or the defaults (R476). A power limit outside 800 to 1,650 W is the default (log 41). -/
def applyConfig (s : State) : State :=
  match recInUse s 3 with
  | none => { s with qhaLock := true }
  | some r =>
    let f := Config.recordField r.body
    { s with
      modNum := BitVec.ofNat 6 (f 0 0)
      denBase := (nats 0 4).map fun d => (d, f 1 d)
      denSize := (nats 0 4).map fun d => (d, f 2 d)
      ringBase := (nats 0 8).map fun k => (k, f 3 k)
      mgmtBase := f 4 0
      routes := (nats 0 64).map fun m => (m, BitVec.ofNat 18 (f 5 m))
      qhaBase := (nats 0 32).map fun n => (n, BitVec.ofNat 64 (f 6 n) &&& 0x000FFFFF80000003)
      qhaLock := f 7 0 != 0
      powerLimit := if 800 ≤ f 8 0 ∧ f 8 0 ≤ 1650 then f 8 0 else 1650 }

/-- The entries of a repair record: a 32-bit count, then 32-bit entries, at most 2,048 (R483, log 41). -/
def repairList (r : Option FlashRec) : List (BitVec 32) :=
  match r with
  | none => []
  | some r => (nats 1 (min 2048 (leVal (r.body.take 4)))).map fun i => BitVec.ofNat 32 (leVal ((r.body.drop (4 * i)).take 4))

/-- What a loss of power leaves: the flash, and what stands outside the module. -/
def unpowered (s : State) : State :=
  { State.reset with
    powered := false, flash := s.flash, mem := s.mem.filter fun p => decide (0x8000000000000 ≤ p.1), inbound := s.inbound,
    free := s.free, agenda := s.agenda, rr := s.rr }

/-- Bring-up to its second step (R478). Without a valid kind 0x01 record the module stays in ROM recovery (R470). -/
def bringUp (s : State) : State :=
  let s := { (unpowered s) with powered := true }
  match recInUse s 1 with
  | none => s
  | some fw =>
    let s := deriveKey { s with clocksOn := true, asidtab := BitVec.ofNat 64 bootBase,
                                mem := bootArea ((Config.bootImage fw.body).foldl (fun m p => memSet m p.1 p.2) s.mem) }
    let s := applyConfig s
    let fixed := repairList (recInUse s 4)
    let s := { s with repairs := fixed ++ (repairList (recInUse s 5)).filter fun e => !fixed.contains e }
    startMarches s

/-- Event: a mesh edge fails (R455); the marches that waited for it start (R478). -/
def execMeshEdgeFailure (edge : Nat) (s : State) : Out :=
  event (decide (edge < 4)) (fun s => startMarches (notReady s (34 + edge))) s

/-- Event: power-on (R478). -/
def execPowerOn (s : State) : Out := event (!s.clocksOn) bringUp s
/-- Event: the supply is lost (R471, R487). -/
def execPowerLoss (s : State) : Out := .next (unpowered s)

/-! ### Readiness (R477, R478) -/

/-- Whether a function's initialisation can have ended well. -/
def canReady (s : State) (i : Nat) : Bool :=
  if i < 8 then
    s.bootstat.getLsbD (16 + i) && !(s.dbgOf i).spadFail && (s.dbgOf i).coreFail != BitVec.allOnes 24 && !(s.clu i).hot && !(s.clu i).waking
  else if i < 16 then !(smGet {} s.poison (i - 8)).failed
  else if i < 38 then true
  else if i < 42 then (recInUse s 2).isSome
  else false

/-- Whether a function's initialisation cannot end well: an HBM stack whose controller has failed, a command processor without a valid
runtime record. -/
def cannotReady (s : State) (i : Nat) : Bool := decide (8 ≤ i) && decide (i < 42) && !canReady s i

/-- A function that is ready; a mesh edge lets the marches start that waited for it (log 69). -/
def nowReady (s : State) (i : Nat) : State :=
  let s := checkDone { s with ready := s.ready ||| 1#64 <<< i, failed := s.failed &&& ~~~(1#64 <<< i) }
  if 34 ≤ i ∧ i < 38 then startMarches s else s

/-- Event: a function reports ready, or failed where its initialisation cannot have ended well (R477, R478). -/
def execFunctionReady (fn : BitVec 6) (s : State) : Out :=
  event (s.clocksOn && (canReady s fn.toNat || cannotReady s fn.toNat))
    (fun s => if canReady s fn.toNat then nowReady s fn.toNat else notReady s fn.toNat) s

/-! ### Consolidation (R482, R483) -/

/-- Whether a march has set its done word; a poisoned sector gives no data (R392). -/
def marchDone (s : State) (n : Nat) : Bool := !poisoned s (marchPa n) && memRd s.mem (marchPa n) 8 == 1
/-- A repair entry. -/
def repairEntry (kind owner unit : Nat) : BitVec 32 := BitVec.ofNat 32 (kind * 2 ^ 30 + owner * 2 ^ 22 + unit)
def entryKey (e : BitVec 32) : Nat × Nat := ((e.extractLsb' 30 2).toNat, (e.extractLsb' 22 8).toNat)

/-- The units that a core's march marked. -/
def marked (s : State) (n : Nat) : List (BitVec 32) :=
  let b := marchPa n
  let hits (off len : Nat) : List Nat := (nats 0 len).filter fun i => !poisoned s (b + off + i) && memGet s.mem (b + off + i) != 0
  (hits 0x100 256).map (repairEntry 0 n) ++ (hits 0x200 1024).map (repairEntry 1 n) ++
  (hits 0x600 256).map fun i => repairEntry 2 (clusterOf n) (256 * (n % 24) + i)

/-- The entries of a kind and an owner in a table. -/
def spareUse (t : List (BitVec 32)) (kind owner : Nat) : Nat := t.countP fun e => entryKey e == (kind, owner)

/-- Consolidates a cluster's march: new repairs, cores without spares, then its wake test (R483). -/
def consolidate (s : State) (k : Nat) : State :=
  let cs := nats (24 * k) 24
  let new := ((cs.map (marked s)).flatten).filter fun e => !s.repairs.contains e
  let table := s.repairs ++ new
  let short (n : Nat) : Bool := !marchDone s n || decide (4 < spareUse table 0 n) || decide (4 < spareUse table 1 n)
  let fail := (cs.filter short).foldl (fun (m : BitVec 24) n => m ||| (1#24 <<< (n % 24))) 0
  let field := repairList (recInUse s 5) ++ new
  let s := if new.isEmpty then s
    else recWrite s 5 (leBytes (min 2048 field.length) 4 ++ ((field.take 2048).map fun e => leBytes e.toNat 4).flatten)
  let count := min 255 ((s.bootstat.extractLsb' 32 8).toNat + new.length)
  let s := { s with repairs := table
                    bootstat := (s.bootstat &&& ~~~0x000000FF00000000) ||| BitVec.ofNat 64 (count * 2 ^ 32) }
  s.setClu k { s.clu k with marching := false, consol := true, waking := true, marchFail := fail,
                            marchSpad := decide (8 < spareUse table 2 k) }

/-- Whether a march has ended or run out of time. -/
def marchOver (s : State) (k : Nat) : Bool :=
  (s.clu k).marching && ((nats (24 * k) 24).all (marchDone s) || decide (60000000 ≤ (s.clock - (s.clu k).marchStart).toNat))

/-- Event: a march is consolidated (R483). -/
def execMarchConsolidate (cluster : Nat) (s : State) : Out := event (marchOver s cluster) (fun s => consolidate s cluster) s

/-! ### Power and temperature (R486, R487) -/

/-- Event: the grid's issue interval grows by one step (R486). -/
def execThermalThrottle (die : Nat) (s : State) : Out :=
  event (decide (die < 4)) (fun s => { s with throttle := smSet 0 s.throttle die (min 4 (smGet 0 s.throttle die + 1)) }) s

/-- A thermal stop requests the gate of a cluster that has power, or is being tested for it; while it is frozen, after the thaw
(R448, R486, R487). -/
def heatGate (s : State) (k : Nat) : State :=
  if (s.dbgOf k).frozen || (s.dbgOf k).pending || ((s.clu k).gated && !(s.clu k).waking) || (s.clu k).gateReq then s else gateStart s k

/-- A cluster of a die that is too hot: its tasks are pre-empted, a march is abandoned, it is not ready, and it is to be gated, once its
tasks are saved. -/
def heatCluster (s : State) (k : Nat) : State :=
  let s := if (s.clu k).marching then (nats (24 * k) 24).foldl freeCore s else s
  let s := s.setClu k { s.clu k with hot := true, marching := false }
  let s := { s with ready := s.ready &&& ~~~(1#64 <<< k) }
  heatGate (((gangsIn s k).map (·.1)).foldl (fun s g => latchGang s g .thermal) s) k
/-- Event: a die above 105 °C (R486). -/
def execThermalStop (die : Nat) (s : State) : Out := event (decide (die < 4)) (fun s => (nats (2 * die) 2).foldl heatCluster s) s

/-- A cluster of a die that has cooled: its wake test, or its march, is due again. A gate that the heat asked for and that has not come
about is not asked for any more (log 70). -/
def coolCluster (s : State) (k : Nat) : State :=
  if !(s.clu k).hot then s
  else
    let s := s.setClu k { s.clu k with hot := false, gateReq := false, drainEnd := none }
    if s.bootstat.getLsbD (16 + k) || (s.clu k).consol then s.setClu k { s.clu k with waking := true }
    else if marchDue s k then startMarch s k else s
/-- Event: a die below 95 °C (R478, R486). -/
def execThermalRecovery (die : Nat) (s : State) : Out :=
  event (decide (die < 4)) (fun s => (nats (2 * die) 2).foldl coolCluster { s with throttle := smSet 0 s.throttle die 0 }) s

/-- Event: a die above 115 °C: the module removes its own power (R486). -/
def execThermalPowerOff (s : State) : Out := .next (unpowered s)

end Sys2Proof.Machine
end

