-- ==== Sys2Proof/Machine/Dispatch.lean ====
section
/-! DEFINITION. One arm per constructor of `Instr`: each is one call of its meaning. -/

namespace Sys2Proof.Machine

def exec (i : Instr) (s : State) : Host.Outcome State Fault Refusal :=
  match i with
  | .add h d a b => Sys2Proof.Machine.execAdd h d a b s
  | .sub h d a b => Sys2Proof.Machine.execSub h d a b s
  | .mul h d a b => Sys2Proof.Machine.execMul h d a b s
  | .mulh h d a b => Sys2Proof.Machine.execMulh h d a b s
  | .mulhn h d a b => Sys2Proof.Machine.execMulhn h d a b s
  | .div h d a b => Sys2Proof.Machine.execDiv h d a b s
  | .divn h d a b => Sys2Proof.Machine.execDivn h d a b s
  | .rem h d a b => Sys2Proof.Machine.execRem h d a b s
  | .remn h d a b => Sys2Proof.Machine.execRemn h d a b s
  | .and h d a b => Sys2Proof.Machine.execAnd h d a b s
  | .or h d a b => Sys2Proof.Machine.execOr h d a b s
  | .xor h d a b => Sys2Proof.Machine.execXor h d a b s
  | .sll h d a b => Sys2Proof.Machine.execSll h d a b s
  | .srl h d a b => Sys2Proof.Machine.execSrl h d a b s
  | .sra h d a b => Sys2Proof.Machine.execSra h d a b s
  | .slt h d a b => Sys2Proof.Machine.execSlt h d a b s
  | .sltn h d a b => Sys2Proof.Machine.execSltn h d a b s
  | .min h d a b => Sys2Proof.Machine.execMin h d a b s
  | .max h d a b => Sys2Proof.Machine.execMax h d a b s
  | .minn h d a b => Sys2Proof.Machine.execMinn h d a b s
  | .maxn h d a b => Sys2Proof.Machine.execMaxn h d a b s
  | .clz h d a => Sys2Proof.Machine.execClz h d a s
  | .ctz h d a => Sys2Proof.Machine.execCtz h d a s
  | .popc h d a => Sys2Proof.Machine.execPopc h d a s
  | .adda h d a b => Sys2Proof.Machine.execAdda h d a b s
  | .tagset h d a b => Sys2Proof.Machine.execTagset h d a b s
  | .tagget h d a => Sys2Proof.Machine.execTagget h d a s
  | .fadd h d a b => Sys2Proof.Machine.execFadd h d a b s
  | .fmul h d a b => Sys2Proof.Machine.execFmul h d a b s
  | .fmin h d a b => Sys2Proof.Machine.execFmin h d a b s
  | .fmax h d a b => Sys2Proof.Machine.execFmax h d a b s
  | .fcmpEq h d a b => Sys2Proof.Machine.execFcmpEq h d a b s
  | .fcmpLt h d a b => Sys2Proof.Machine.execFcmpLt h d a b s
  | .fcmpLe h d a b => Sys2Proof.Machine.execFcmpLe h d a b s
  | .barinit h a b => Sys2Proof.Machine.execBarinit h a b s
  | .barinitCad h d a b => Sys2Proof.Machine.execBarinitCad h d a b s
  | .bararr h b => Sys2Proof.Machine.execBararr h b s
  | .barwait h b => Sys2Proof.Machine.execBarwait h b s
  | .pend h b => Sys2Proof.Machine.execPend h b s
  | .pendCad h b => Sys2Proof.Machine.execPendCad h b s
  | .tkwait h t => Sys2Proof.Machine.execTkwait h t s
  | .tkpoll h d t => Sys2Proof.Machine.execTkpoll h d t s
  | .vstart h a => Sys2Proof.Machine.execVstart h a s
  | .vpush h a => Sys2Proof.Machine.execVpush h a s
  | .vpop h d => Sys2Proof.Machine.execVpop h d s
  | .vsync h => Sys2Proof.Machine.execVsync h s
  | .inpop h d b => Sys2Proof.Machine.execInpop h d b s
  | .inpeek h d b => Sys2Proof.Machine.execInpeek h d b s
  | .aiset h a b => Sys2Proof.Machine.execAiset h a b s
  | .aret h => Sys2Proof.Machine.execAret h s
  | .ecall h => Sys2Proof.Machine.execEcall h s
  | .ebreak h => Sys2Proof.Machine.execEbreak h s
  | .pause h => Sys2Proof.Machine.execPause h s
  | .addi h d a imm => Sys2Proof.Machine.execAddi h d a imm s
  | .andi h d a imm => Sys2Proof.Machine.execAndi h d a imm s
  | .ori h d a imm => Sys2Proof.Machine.execOri h d a imm s
  | .xori h d a imm => Sys2Proof.Machine.execXori h d a imm s
  | .slli h d a sh => Sys2Proof.Machine.execSlli h d a sh s
  | .srli h d a sh => Sys2Proof.Machine.execSrli h d a sh s
  | .srai h d a sh => Sys2Proof.Machine.execSrai h d a sh s
  | .slti h d a imm => Sys2Proof.Machine.execSlti h d a imm s
  | .fcvt h d a mode dst src => Sys2Proof.Machine.execFcvt h d a mode dst src s
  | .ld h d a sp sz off => Sys2Proof.Machine.execLd h d a sp sz off s
  | .ldn h d a sp sz off => Sys2Proof.Machine.execLdn h d a sp sz off s
  | .st h d a sp sz off => Sys2Proof.Machine.execSt h d a sp sz off s
  | .jalr h d a imm => Sys2Proof.Machine.execJalr h d a imm s
  | .lpset h n a imm => Sys2Proof.Machine.execLpset h n a imm s
  | .lpidx h d n => Sys2Proof.Machine.execLpidx h d n s
  | .fence h scope => Sys2Proof.Machine.execFence h scope s
  | .kget h d k => Sys2Proof.Machine.execKget h d k s
  | .kset h a k => Sys2Proof.Machine.execKset h a k s
  | .kbis h a k => Sys2Proof.Machine.execKbis h a k s
  | .kbic h a k => Sys2Proof.Machine.execKbic h a k s
  | .li h d imm => Sys2Proof.Machine.execLi h d imm s
  | .lis h d imm => Sys2Proof.Machine.execLis h d imm s
  | .jal h d off => Sys2Proof.Machine.execJal h d off s
  | .beq h a b off => Sys2Proof.Machine.execBeq h a b off s
  | .bne h a b off => Sys2Proof.Machine.execBne h a b off s
  | .blt h a b off => Sys2Proof.Machine.execBlt h a b off s
  | .bge h a b off => Sys2Proof.Machine.execBge h a b off s
  | .bltn h a b off => Sys2Proof.Machine.execBltn h a b off s
  | .bgen h a b off => Sys2Proof.Machine.execBgen h a b off s
  | .lpend h n off => Sys2Proof.Machine.execLpend h n off s
  | .amo h d a b op m => Sys2Proof.Machine.execAmo h d a b op m s
  | .amocas h d a b c m => Sys2Proof.Machine.execAmocas h d a b c m s
  | .waitge h a b m => Sys2Proof.Machine.execWaitge h a b m s
  | .ldOrdered h d a m => Sys2Proof.Machine.execLdOrdered h d a m s
  | .ldnOrdered h d a m => Sys2Proof.Machine.execLdnOrdered h d a m s
  | .stOrdered h d a m => Sys2Proof.Machine.execStOrdered h d a m s
  | .qbase h a b n sp ssp => Sys2Proof.Machine.execQbase h a b n sp ssp s
  | .qdim h d a b n j k => Sys2Proof.Machine.execQdim h d a b n j k s
  | .qfmt h a n fmt tgt => Sys2Proof.Machine.execQfmt h a n fmt tgt s
  | .qstart h a n => Sys2Proof.Machine.execQstart h a n s
  | .qstop h n => Sys2Proof.Machine.execQstop h n s
  | .qstat h a n sp t => Sys2Proof.Machine.execQstat h a n sp t s
  | .qfill h a srcA srcB na nb => Sys2Proof.Machine.execQfill h a srcA srcB na nb s
  | .qrow h a n v => Sys2Proof.Machine.execQrow h a n v s
  | .qstore h a n col idx cvt mode t scope tke => Sys2Proof.Machine.execQstore h a n col idx cvt mode t scope tke s
  | .gupd h a fa fb half => Sys2Proof.Machine.execGupd h a fa fb half s
  | .gclr h v n1 => Sys2Proof.Machine.execGclr h v n1 s
  | .gdone h v n1 => Sys2Proof.Machine.execGdone h v n1 s
  | .glim h cols1 rows1 => Sys2Proof.Machine.execGlim h cols1 rows1 s
  | .gchk h => Sys2Proof.Machine.execGchk h s
  | .xcopy h d a b f => Sys2Proof.Machine.execXcopy h d a b f s
  | .xfill h d a b f => Sys2Proof.Machine.execXfill h d a b f s
  | .xtag h d a b f => Sys2Proof.Machine.execXtag h d a b f s
  | .xtagrd h d a b f => Sys2Proof.Machine.execXtagrd h d a b f s
  | .xgath h d a b f => Sys2Proof.Machine.execXgath h d a b f s
  | .xscat h d a b f => Sys2Proof.Machine.execXscat h d a b f s
  | .xsadd h d a b f => Sys2Proof.Machine.execXsadd h d a b f s
  | .xbcast h d a b f => Sys2Proof.Machine.execXbcast h d a b f s
  | .xred h d a b f => Sys2Proof.Machine.execXred h d a b f s
  | .xenq h d a b f => Sys2Proof.Machine.execXenq h d a b f s
  | .xpref h a b f => Sys2Proof.Machine.execXpref h a b f s
  | .stbind h a n => Sys2Proof.Machine.execStbind h a n s
  | .stflush h a all => Sys2Proof.Machine.execStflush h a all s
  | .stread h a b sp => Sys2Proof.Machine.execStread h a b sp s
  | .streset h a b sp => Sys2Proof.Machine.execStreset h a b sp s
  | .starm h a b => Sys2Proof.Machine.execStarm h a b s
  | .eret h => Sys2Proof.Machine.execEret h s
  | .wfi h => Sys2Proof.Machine.execWfi h s
  | .tlbinv h scope a b => Sys2Proof.Machine.execTlbinv h scope a b s
  | .tlbflush h scope a => Sys2Proof.Machine.execTlbflush h scope a s
  | .ctxsave h a b => Sys2Proof.Machine.execCtxsave h a b s
  | .ctxload h a => Sys2Proof.Machine.execCtxload h a s
  | .ctxwait h d => Sys2Proof.Machine.execCtxwait h d s
  | .halt h a b => Sys2Proof.Machine.execHalt h a b s
  | .vsetvl f => Sys2Proof.Machine.execVsetvl f s
  | .vsetvli f count cfg => Sys2Proof.Machine.execVsetvli f count cfg s
  | .vadd t f => Sys2Proof.Machine.execVadd t f s
  | .vsub t f => Sys2Proof.Machine.execVsub t f s
  | .vmul t f => Sys2Proof.Machine.execVmul t f s
  | .vfma t f => Sys2Proof.Machine.execVfma t f s
  | .vmin t f => Sys2Proof.Machine.execVmin t f s
  | .vmax t f => Sys2Proof.Machine.execVmax t f s
  | .vabs t f => Sys2Proof.Machine.execVabs t f s
  | .vneg t f => Sys2Proof.Machine.execVneg t f s
  | .vrcp t f => Sys2Proof.Machine.execVrcp t f s
  | .vrsqrt t f => Sys2Proof.Machine.execVrsqrt t f s
  | .vsqrt t f => Sys2Proof.Machine.execVsqrt t f s
  | .vexp2 t f => Sys2Proof.Machine.execVexp2 t f s
  | .vlog2 t f => Sys2Proof.Machine.execVlog2 t f s
  | .vsig t f => Sys2Proof.Machine.execVsig t f s
  | .vtanh t f => Sys2Proof.Machine.execVtanh t f s
  | .vsilu t f => Sys2Proof.Machine.execVsilu t f s
  | .vsel f => Sys2Proof.Machine.execVsel f s
  | .vand f => Sys2Proof.Machine.execVand f s
  | .vor f => Sys2Proof.Machine.execVor f s
  | .vxor f => Sys2Proof.Machine.execVxor f s
  | .vshl f => Sys2Proof.Machine.execVshl f s
  | .vshr f => Sys2Proof.Machine.execVshr f s
  | .vsra f => Sys2Proof.Machine.execVsra f s
  | .vcmpEq t f => Sys2Proof.Machine.execVcmpEq t f s
  | .vcmpLt t f => Sys2Proof.Machine.execVcmpLt t f s
  | .vcmpLe t f => Sys2Proof.Machine.execVcmpLe t f s
  | .vcmpNe t f => Sys2Proof.Machine.execVcmpNe t f s
  | .vmpop f => Sys2Proof.Machine.execVmpop f s
  | .vmfirst f => Sys2Proof.Machine.execVmfirst f s
  | .vmlogAnd f => Sys2Proof.Machine.execVmlogAnd f s
  | .vmlogOr f => Sys2Proof.Machine.execVmlogOr f s
  | .vmlogXor f => Sys2Proof.Machine.execVmlogXor f s
  | .vmlogAndn f => Sys2Proof.Machine.execVmlogAndn f s
  | .vcvt f => Sys2Proof.Machine.execVcvt f s
  | .vcvtSat f => Sys2Proof.Machine.execVcvtSat f s
  | .vquant f => Sys2Proof.Machine.execVquant f s
  | .vbquant f => Sys2Proof.Machine.execVbquant f s
  | .vdequant f => Sys2Proof.Machine.execVdequant f s
  | .vpack f => Sys2Proof.Machine.execVpack f s
  | .vunpack f => Sys2Proof.Machine.execVunpack f s
  | .vredAdd g f => Sys2Proof.Machine.execVredAdd g f s
  | .vredMax g f => Sys2Proof.Machine.execVredMax g f s
  | .vredMin g f => Sys2Proof.Machine.execVredMin g f s
  | .vredMaxn f => Sys2Proof.Machine.execVredMaxn f s
  | .vredMinn f => Sys2Proof.Machine.execVredMinn f s
  | .vredAnd f => Sys2Proof.Machine.execVredAnd f s
  | .vredOr f => Sys2Proof.Machine.execVredOr f s
  | .vredXor f => Sys2Proof.Machine.execVredXor f s
  | .vscanAdd g f => Sys2Proof.Machine.execVscanAdd g f s
  | .vscanMax g f => Sys2Proof.Machine.execVscanMax g f s
  | .vscanMin g f => Sys2Proof.Machine.execVscanMin g f s
  | .vscanMaxn f => Sys2Proof.Machine.execVscanMaxn f s
  | .vscanMinn f => Sys2Proof.Machine.execVscanMinn f s
  | .vscanAnd f => Sys2Proof.Machine.execVscanAnd f s
  | .vscanOr f => Sys2Proof.Machine.execVscanOr f s
  | .vscanXor f => Sys2Proof.Machine.execVscanXor f s
  | .vcompress f => Sys2Proof.Machine.execVcompress f s
  | .vexpand f => Sys2Proof.Machine.execVexpand f s
  | .vslideUp f => Sys2Proof.Machine.execVslideUp f s
  | .vslideDown f => Sys2Proof.Machine.execVslideDown f s
  | .vperm f => Sys2Proof.Machine.execVperm f s
  | .vbcst f => Sys2Proof.Machine.execVbcst f s
  | .vid f => Sys2Proof.Machine.execVid f s
  | .vmove f => Sys2Proof.Machine.execVmove f s
  | .vrand f => Sys2Proof.Machine.execVrand f s
  | .vdrop f => Sys2Proof.Machine.execVdrop f s
  | .vstat f => Sys2Proof.Machine.execVstat f s
  | .vld sp f => Sys2Proof.Machine.execVld sp f s
  | .vst sp f => Sys2Proof.Machine.execVst sp f s
  | .vgath sp f => Sys2Proof.Machine.execVgath sp f s
  | .vscat sp f => Sys2Proof.Machine.execVscat sp f s
  | .vsaddI sp f => Sys2Proof.Machine.execVsaddI sp f s
  | .vsaddF sp f => Sys2Proof.Machine.execVsaddF sp f s
  | .vldq f => Sys2Proof.Machine.execVldq f s
  | .vstq f => Sys2Proof.Machine.execVstq f s
  | .vrel f => Sys2Proof.Machine.execVrel f s
  | .vfence f => Sys2Proof.Machine.execVfence f s
  | .vhalt f => Sys2Proof.Machine.execVhalt f s
  | .vtrap f => Sys2Proof.Machine.execVtrap f s
  | .eadd f => Sys2Proof.Machine.execEadd f s
  | .eaddi f => Sys2Proof.Machine.execEaddi f s
  | .esub f => Sys2Proof.Machine.execEsub f s
  | .emul f => Sys2Proof.Machine.execEmul f s
  | .eli f imm => Sys2Proof.Machine.execEli f imm s
  | .epop f => Sys2Proof.Machine.execEpop f s
  | .epush f => Sys2Proof.Machine.execEpush f s
  | .eget f num => Sys2Proof.Machine.execEget f num s
  | .vbr f off => Sys2Proof.Machine.execVbr f off s
  | .vbrm f off => Sys2Proof.Machine.execVbrm f off s
  | .vbrd f off => Sys2Proof.Machine.execVbrd f off s
  | .vjoin f => Sys2Proof.Machine.execVjoin f s
  | .vjal f off => Sys2Proof.Machine.execVjal f off s
  | .vret f => Sys2Proof.Machine.execVret f s
  | .convoyIssue core => Sys2Proof.Machine.execConvoyIssue core s
  | .convoyRetire core chk grp => Sys2Proof.Machine.execConvoyRetire core chk grp s
  | .profileSample core => Sys2Proof.Machine.execProfileSample core s
  | .heldSignalApply core ctr => Sys2Proof.Machine.execHeldSignalApply core ctr s
  | .tokenIdle core t => Sys2Proof.Machine.execTokenIdle core t s
  | .qfillEntryPush core sideB => Sys2Proof.Machine.execQfillEntryPush core sideB s
  | .multicastEntryPush core sideB => Sys2Proof.Machine.execMulticastEntryPush core sideB s
  | .gridUpdate upd => Sys2Proof.Machine.execGridUpdate upd s
  | .updateRetire core chk => Sys2Proof.Machine.execUpdateRetire core chk s
  | .rowHandover core => Sys2Proof.Machine.execRowHandover core s
  | .chunkForm core slot => Sys2Proof.Machine.execChunkForm core slot s
  | .waitgeRead core => Sys2Proof.Machine.execWaitgeRead core s
  | .pauseEnd core => Sys2Proof.Machine.execPauseEnd core s
  | .cadenceElapsed core => Sys2Proof.Machine.execCadenceElapsed core s
  | .combiningEntryAgeOut core eng => Sys2Proof.Machine.execCombiningEntryAgeOut core eng s
  | .recordEntryApply => Sys2Proof.Machine.execRecordEntryApply s
  | .trapEntry core => Sys2Proof.Machine.execTrapEntry core s
  | .arrivalInterruptEntry core => Sys2Proof.Machine.execArrivalInterruptEntry core s
  | .inboxReservationGrant core slot => Sys2Proof.Machine.execInboxReservationGrant core slot s
  | .inboxEntryArrive core inbox => Sys2Proof.Machine.execInboxEntryArrive core inbox s
  | .descriptorConsume queue => Sys2Proof.Machine.execDescriptorConsume queue s
  | .dispatch die => Sys2Proof.Machine.execDispatch die s
  | .gangResume gang => Sys2Proof.Machine.execGangResume gang s
  | .rankExitComplete core => Sys2Proof.Machine.execRankExitComplete core s
  | .budgetPeriodStart gang => Sys2Proof.Machine.execBudgetPeriodStart gang s
  | .budgetExhausted gang => Sys2Proof.Machine.execBudgetExhausted gang s
  | .guaranteedReservation gang => Sys2Proof.Machine.execGuaranteedReservation gang s
  | .classPeriodStart cls => Sys2Proof.Machine.execClassPeriodStart cls s
  | .byteBudgetHold core => Sys2Proof.Machine.execByteBudgetHold core s
  | .cancelRequest queue => Sys2Proof.Machine.execCancelRequest queue s
  | .preemptLatch gang why => Sys2Proof.Machine.execPreemptLatch gang why s
  | .contextSave core => Sys2Proof.Machine.execContextSave core s
  | .saveCommit core => Sys2Proof.Machine.execSaveCommit core s
  | .saveRestart core => Sys2Proof.Machine.execSaveRestart core s
  | .backgroundScrub e => Sys2Proof.Machine.execBackgroundScrub e s
  | .peerInboundRequest peer port req => Sys2Proof.Machine.execPeerInboundRequest peer port req s
  | .flitCrcReplay flit => Sys2Proof.Machine.execFlitCrcReplay flit s
  | .retrainTimeout port => Sys2Proof.Machine.execRetrainTimeout port s
  | .hostWrite off data => Sys2Proof.Machine.execHostWrite off data s
  | .hostRead off n => Sys2Proof.Machine.execHostRead off n s
  | .bar0Write off v => Sys2Proof.Machine.execBar0Write off v s
  | .mgmtCreateAsid => Sys2Proof.Machine.execMgmtCreateAsid s
  | .mgmtRetireAsid => Sys2Proof.Machine.execMgmtRetireAsid s
  | .mgmtSetClass => Sys2Proof.Machine.execMgmtSetClass s
  | .mgmtRegisterQueue => Sys2Proof.Machine.execMgmtRegisterQueue s
  | .mgmtDeregisterQueue => Sys2Proof.Machine.execMgmtDeregisterQueue s
  | .dbgFreeze cluster => Sys2Proof.Machine.execDbgFreeze cluster s
  | .clusterFrozen cluster => Sys2Proof.Machine.execClusterFrozen cluster s
  | .dbgThaw cluster => Sys2Proof.Machine.execDbgThaw cluster s
  | .dbgResetCtx cluster => Sys2Proof.Machine.execDbgResetCtx cluster s
  | .breakpointHit core => Sys2Proof.Machine.execBreakpointHit core s
  | .watchpointHit core => Sys2Proof.Machine.execWatchpointHit core s
  | .trcArm cluster v => Sys2Proof.Machine.execTrcArm cluster v s
  | .registerWrite blk off v => Sys2Proof.Machine.execRegisterWrite blk off v s
  | .clusterGate cluster => Sys2Proof.Machine.execClusterGate cluster s
  | .traceDrainLimit cluster => Sys2Proof.Machine.execTraceDrainLimit cluster s
  | .wakeTest cluster coreFail spadFail => Sys2Proof.Machine.execWakeTest cluster coreFail spadFail s
  | .thermalThrottle die => Sys2Proof.Machine.execThermalThrottle die s
  | .thermalStop die => Sys2Proof.Machine.execThermalStop die s
  | .thermalPowerOff => Sys2Proof.Machine.execThermalPowerOff s
  | .powerOn => Sys2Proof.Machine.execPowerOn s
  | .functionReady fn => Sys2Proof.Machine.execFunctionReady fn s
  | .marchConsolidate cluster => Sys2Proof.Machine.execMarchConsolidate cluster s
  | .coreReset core start => Sys2Proof.Machine.execCoreReset core start s
  | .attestationRequest nonce => Sys2Proof.Machine.execAttestationRequest nonce s
  | .scatterAcknowledgement core lane => Sys2Proof.Machine.execScatterAcknowledgement core lane s
  | .storeMismatchReportArrival core => Sys2Proof.Machine.execStoreMismatchReportArrival core s
  | .powerLoss => Sys2Proof.Machine.execPowerLoss s
  | .meshEdgeFailure edge => Sys2Proof.Machine.execMeshEdgeFailure edge s
  | .thermalRecovery die => Sys2Proof.Machine.execThermalRecovery die s
  | .contextEngineSoftError core => Sys2Proof.Machine.execContextEngineSoftError core s
  | .ideKeyAgreement msg => Sys2Proof.Machine.execIdeKeyAgreement msg s

end Sys2Proof.Machine
end

