-- ==== Sys2Proof/Machine/Turns.lean ====
section
/-! DEFINITION. Turns: what one agent does when it moves. The control core's turn fetches, decodes and runs one instruction; the
fabric's turn carries out whatever of the command processors, links and debug blocks is due (log 1). -/

namespace Sys2Proof.Machine

/-! ### The control core -/

/-- The breakpoint that stops a core at its boundary (R443). It comes before the traps that are due there (R448). -/
def ctlBkpt (s : State) (n : Nat) : Option Nat :=
  let c := s.coreN n
  if atBoundary c && !exits c then bkptFind s n false c.ctl.priv c.ctl.pc else none

/-- Whether the control core issues its next instruction at this turn: it runs, nothing that comes first is due (R241, R363,
R410), and no breakpoint stops it (R443). -/
def issues (s : State) (n : Nat) : Bool :=
  let c := s.coreN n
  ctlAlive c && !(c.latched && c.ctl.priv == 0) && (ctlBkpt s n).isNone && !exits c && (dueTrap c).isNone && !arrivalNow s n

/-- What comes before the instruction at a turn at which it does not issue. A latched stop comes first, also before a freeze that has
latched (R410, R448). -/
def beforeIssue (s : State) (n : Nat) : State :=
  let c := s.coreN n
  if stopDue c then stopCore s n
  else if !ctlAlive c then s
  else match ctlBkpt s n with
  | some u => requestFreeze s n 2 (BitVec.ofNat 4 u) 0
  | none => match dueTrap c with
    | some t => takeDue s n t
    | none => if exits c then (exitTry s n).1 else if arrivalNow s n then s.updN n enterArrival else s

/-- Whether an instruction is the claimed `ebreak` at the PC that has caused its freeze (R447). -/
def brokeAt (c : Core) : Instr → Bool
  | .ebreak _ => c.ebrkAt == some c.ctl.pc
  | _ => false
/-- An instruction begins: it is not stalled, and a claimed `ebreak` of its privilege that it is not is done with (R447). -/
def fresh (s : State) (n : Nat) (i : Instr) : State :=
  s.updN n fun c => (if brokeAt c i then c else c.setEbrk none).updCtl fun k => { k with stalled := false }

/-- A watchpoint that the instruction's accesses hit is answered after it (R443). -/
def answered (n : Nat) : Out → Out
  | .next t => .next (watchAnswer t n)
  | o => o

/-- The turn of a control core (R210): a fetch that fails, and an encoding that is no instruction, trap (R184, R209); a fetch that a
byte budget holds is tried again (R62). -/
def ctlTurn (s : State) (n : Nat) : Out :=
  let s := { s with cur := n }
  if !issues s n then .next (beforeIssue s n)
  else match fetchC s n with
  | (s, .fault code tval) => .next (takeTrap s n 0 code (s.coreN n).ctl.pc tval none)
  | (s, .held ea) => .next (holdAt s n 0 ea)
  | (s, .words w0 w1) =>
    match decodeC w0 w1 with
    | none => .next (takeTrap s n 0 0x01 (s.coreN n).ctl.pc (w1 ++ w0) none)
    | some i => answered n (exec i (fresh s n i))

/-! ### The fabric -/

/-- The effect of an event. -/
def effect (o : State → Out) (s : State) : State := outState s (o s)

/-- What is due on one core outside its engines. -/
def coreDue (s : State) (n : Nat) : State :=
  let s := if (s.coreN n).frozen then s else reportArrive s n
  let s := (nats 0 10).foldl (fun s i => effect (execHeldSignalApply n i) s) s
  let s := (nats 0 32).foldl (fun s t => effect (execTokenIdle n (BitVec.ofNat 5 t)) s) s
  let s := (nats 0 3).foldl (fun s e => effect (execCombiningEntryAgeOut n e) s) s
  let s := ((s.coreN n).cpy.flight.map flSlot).foldl (fun s t => effect (execInboxReservationGrant n t) s) s
  let s := effect (execPauseEnd n) (effect (execRankExitComplete n) s)
  ctxSave (commit (effect (execSaveRestart n) (holdReport s n)) n) n

/-- What is due for a gang. -/
def gangDue (s : State) (g : Nat) : State :=
  effect (execGangResume g) (effect (execGuaranteedReservation g) (latchLate (exhausted s g) g))

/-- What is due in a cluster; the result of a wake test is free (log 5). -/
def cluDue (s : State) (k : Nat) : State :=
  let s := effect (execClusterFrozen k) s
  let s := effect (execMarchConsolidate k) s
  let s := if wakeDue s k then
      wake { s with free := s.free + 2 } k (BitVec.ofNat 24 (Config.freeBits s.free)) (Config.freeBits (s.free + 1) % 2 == 1)
    else s
  gateFinish (if (s.clu k).hot then effect (execClusterGate k) s else s) k

/-- The turn of everything outside the cores. -/
def fabricTurn (s : State) : State :=
  let s := (s.cores.map (·.1)).foldl coreDue s
  let s := s.acks.foldl (fun s a => effect (execScatterAcknowledgement a.core a.lane) s) s
  let s := mailTurn s
  let s := s.mail.foldl (fun s m => effect (execInboxEntryArrive m.dst (BitVec.ofNat 4 m.inbox)) s) s
  let s := s.recs.foldl (fun s _ => effect execRecordEntryApply s) s
  let s := (s.queues.map (·.1)).foldl (fun s k => consume (cancelReq s k) k) s
  let s := (s.gangs.map (·.1)).foldl gangDue s
  let s := (nats 0 16).foldl (fun s k => classStart s (BitVec.ofNat 4 k)) s
  let s := (nats 0 4).foldl dispatchDie s
  (nats 0 8).foldl cluDue (mgmtServe s)

/-! ### One turn -/

/-- Answers the watchpoint hits of an imprecise engine (R443). -/
def engineTurn (f : State → Nat → State) (s : State) (n : Nat) : Out := .next (watchAnswer (f s n) n)

def runTurn (s : State) : Turn → Out
  | .control n => ctlTurn s n
  | .stream n => engineTurn strTurn s n
  | .grid n => .next (grdTurn s n)
  | .vector n => .next (vecTurn s n)
  | .copy n => engineTurn cpyTurn s n
  | .fabric => .next (fabricTurn s)
  | .event i => exec i s

/-- `dt` aclk pass, once the clocks run (R4): first the budgets that the last aclk used up are acted on, after that aclk's traps
(R61); then `%clock` counts, budgets fall and period starts reload them (R59, R60), class periods start (R404), and combining
entries age, and those that are due by their age are sent and applied (R164 to R167). -/
def tick (s : State) (dt : Nat) : State :=
  if s.clocksOn then
    let s := (s.gangs.map (·.1)).foldl exhausted s
    let s := spend { s with clock := s.clock + BitVec.ofNat 64 dt } dt
    recsDue (ageComb ((s.classes.map (·.1)).foldl (fun s k => classStart s (BitVec.ofNat 4 k)) s) dt)
  else s

/-- The agent with a place in the round (log 1): five engines of each core, then the fabric. -/
def turnAt (i : Nat) : Turn :=
  if 960 ≤ i then .fabric
  else match i % 5 with
  | 0 => .control (i / 5)
  | 1 => .stream (i / 5)
  | 2 => .grid (i / 5)
  | 3 => .vector (i / 5)
  | _ => .copy (i / 5)

/-- The turn that is next, and the state after the choice and the time that it takes. -/
def nextTurn (s : State) : Turn × State :=
  match s.agenda with
  | (dt, t) :: rest => (t, tick { s with agenda := rest } (dt + 1))
  | [] => (turnAt s.rr, tick { s with rr := (s.rr + 1) % 961 } 1)

/-- Whether the module can move at all: it has power, or the turn is its power-on. -/
def canMove (s : State) (t : Turn) : Bool := s.powered || t == .event .powerOn

end Sys2Proof.Machine
end

