-- ==== Sys2Proof/Machine/Step.lean ====
section
/-! DEFINITION. One step of the module: the next agent moves. -/

namespace Sys2Proof.Machine

/-- One step (R4, log 1): the next turn of the agenda, or else of the round. Without power nothing moves (R486). -/
def step (s : State) : Host.Outcome State Fault Refusal :=
  if canMove s (nextTurn s).1 then runTurn (nextTurn s).2 (nextTurn s).1 else .fault .noPower

/-- The frames that `withFetchWord` uses in the shared SRAM of die 0: the ASID table, five tables and the page of the code. -/
def fetchTables : List (Nat × Nat) :=
  [(0x8000000000, 0x8000004001), (0x8000000008, 0), (0x8000004000, 0x8000005001), (0x8000005000, 0x8000006001),
   (0x8000006000, 0x8000007001), (0x8000007000, 0x8000008001), (0x8000008000, 0x8000009473)]

/-- The state with an instruction where the next step fetches: core 0 runs at address 0 of ASID 0, and moves next (log 6). -/
def State.withFetchWord (s : State) (nbits w : Nat) : State :=
  let c := s.coreN 0
  let c := { c with
    run := .run, asid := 0, tlb := [], walkc := [], frozen := false, freezeLatch := false, latched := false, ptraps := []
    ctl := { c.ctl with pc := 0, waitReset := false, exited := false, exiting := false, exitOwed := false, took := none, paid := [], pauseEnd := none, pendArrived := false,
                        arrPend := 0, stale := [], staleFenced := [] } }
  let m := fetchTables.foldl (fun m p => memWr m p.1 8 p.2) s.mem
  let m := memWr m 0x8000009000 8 (w % 2 ^ nbits)
  let d := s.dbgOf 0
  { (s.setCoreN 0 c).setDbg 0 { d with bkptAddr := [] } with
    mem := m, poison := smErase s.poison 8, asidtab := 0x8000000000, powered := true, clocksOn := true
    agenda := (0, .control 0) :: s.agenda }

end Sys2Proof.Machine
end

