-- ==== Sys2Proof/Safety.lean ====
section
/-! DEFINITION. What counts as a safe state of the module, and the words in which statements speak of one instruction: when it
may act, what it leaves when it is done, and what it leaves unchanged. -/

namespace Sys2Proof.Safety

open Sys2Proof.Machine

/-- A step is safe where it answers a next state. -/
def stepSafe (s : State) : Prop := ∃ t, step s = .next t

/-- `k` steps from a state stop at no fault and no refusal. -/
def runSafe (k : Nat) (s : State) : Prop := ∃ t, Host.Core.run Sys2Proof.core k s = .next t

/-! ### The C-stream -/

/-- An instruction with nibble `h` may act on the acting core: no mark above task privilege (R356), each wait finds its counter
above 0 (R49 to R51: 8 is vector's neighbour side, 1 the stream side), and no increment of this engine is held (R53). -/
def Ready (s : State) (h : Hal) : Prop :=
  (s.core.ctl.priv = 0 ∨ h = 0) ∧ (h.getLsbD 3 = true → 0 < halGet s.core 8) ∧ (h.getLsbD 2 = true → 0 < halGet s.core 1) ∧
  heldGet s.core 9 = 0 ∧ heldGet s.core 0 = 0

/-- A register of the acting core. -/
def reg (s : State) (r : Reg) : DWord := regGet s.core r

/-- The acting core with one register written. -/
def wrote (s : State) (d : Reg) (v : DWord) : State := s.upd fun c => regSet c d v

/-- The instruction of `len` bytes at the PC of `s` is done with the effect `t`: its waits are taken, the PC is after it, its
signals are made. -/
def done (s : State) (h : Hal) (len : VAddr) (t : State) : Out := .next (finish t h (s.core.ctl.pc + len))

/-- The instruction at the PC of `s` jumps after the effect `t`: as `done`, with the PC at the target, fetch seeing stores
fenced before (R209), and the transfer traced where a trace is armed (R451). -/
def jumped (s : State) (h : Hal) (target : VAddr) (t : State) : Out :=
  .next (traceJump ((finish t h target).upd cTransfer) s.cur s.core.ctl.pc target)

/-- The instruction at the PC of `s` traps precisely (R364), with the state `t` before the trap. -/
def trapped (s : State) (code : BitVec 8) (tval : DWord) (t : State) : Out :=
  .next (takeTrap t s.cur 0 code s.core.ctl.pc tval none)

/-- The instruction with nibble `h` has taken its waits and is tried again from the state `t` (R51). -/
def waits (h : Hal) (t : State) : Out := .next (stallTook t h)

/-- The deferred report `r` is taken at the instruction (R388), from the state `t`. -/
def reported (s : State) (r : Report) (t : State) : Out := .next (takeTrap t s.cur 5 r.code s.core.ctl.pc r.tval none)

/-- A trap taken after the effect `t` of the instruction of `len` bytes at the PC of `s`, `%epc` at the next one. -/
def trappedAfter (s : State) (h : Hal) (len : VAddr) (code : BitVec 8) (tval : DWord) (t : State) : Out :=
  .next (takeTrap (finish t h (s.core.ctl.pc + len)) s.cur 0 code (s.core.ctl.pc + len) tval none)

/-- The state with one of the acting core's control-core fields changed. -/
def withCtl (s : State) (f : Ctl → Ctl) : State := s.upd fun c => c.updCtl f

/-- The instruction with these registers is posted to engine `e`, 1 stream, 2 grid, 4 copy: their values, those of the register
after `a` among them, are read at commit (R177). -/
def posted (s : State) (i : Instr) (e : Nat) (d a b : Reg) : State :=
  s.upd fun c => setPc (pushQueue c e
    { instr := i, d := reg s d, a := reg s a, b := reg s b, a1 := reg s (a + 1), pc := s.core.ctl.pc }) (s.core.ctl.pc + 8)

/-! ### The V-stream -/

/-- Member `i` of the convoy `cv` in flight on the acting core is the next to run. -/
def Running (s : State) (i : Instr) (cv : Convoy) : Prop := s.core.vec.cv = some cv ∧ cv.todo.head? = some i

/-- The member is done: its core is `c`, and the convoy `cv` goes on with the members after it. -/
def ran (s : State) (c : Core) (cv : Convoy) : Out :=
  .next ((s.setCore c).upd fun c => c.updVec fun v => { v with cv := some { cv with todo := cv.todo.tail } })

/-! ### What stays -/

/-- The parts of a core that a register-only instruction may change, cleared: the scalar registers, the PC and `%fflags`, the
halyard counters with their held increments and the waits taken, the end of a pause. -/
def Core.still (c : Core) : Core :=
  { c with ctl := { c.ctl with s := [], sup := [], shadow := [], pc := 0, fflags := 0, pauseEnd := none, took := none }, hal := [], held := [] }

/-- Nothing outside the registers, the PC, the flags and the halyard of the acting core differs: every other core, all memory,
every special register, accumulator and exception register, every queue and table is as before. -/
def OnlyRegisters (s t : State) : Prop :=
  { t with cores := [] } = { s with cores := [] } ∧ (∀ n, n ≠ s.cur → t.coreN n = s.coreN n) ∧
  Core.still t.core = Core.still s.core

/-- Every register but `d` reads as before. -/
def OtherRegisters (s t : State) (d : Reg) : Prop := ∀ r, r ≠ d → reg t r = reg s r

/-- A byte of a location's storage: physical memory, the scratchpad of a cluster, the TCM of a core. -/
def byteAt (s : State) : Loc → Byte
  | .phys pa _ => memGet s.mem pa
  | .spad k a => memGet (s.clu k).spad a
  | .tcm n a => memGet (s.coreN n).tcm a

/-- Whether two locations are the same byte. -/
def sameByte : Loc → Loc → Prop
  | .phys a _, .phys b _ => a = b
  | .spad k a, .spad j b => k = j ∧ a = b
  | .tcm k a, .tcm j b => k = j ∧ a = b
  | _, _ => False

/-- The location `i` bytes above another. -/
def locPlus : Loc → Nat → Loc
  | .phys a e, i => .phys (a + i) e
  | .spad k a, i => .spad k (a + i)
  | .tcm k a, i => .tcm k (a + i)

/-- The little-endian value of the `n` bytes from a location on (R5). -/
def valueAt (s : State) (l : Loc) (n : Nat) : Nat := leVal ((List.range n).map fun i => byteAt s (locPlus l i))

/-- Every register of every core, its PC, its flags and its trap registers are as before. The stores its fetch does not see yet
(R209) apart, so is all of its control core. -/
def SameControl (s t : State) : Prop :=
  ∀ n, { (t.coreN n).ctl with stale := [], staleFenced := [] } = { (s.coreN n).ctl with stale := [], staleFenced := [] }

/-- Every byte of every memory but the `n` bytes from `l` on reads as before. -/
def OtherBytes (s t : State) (l : Loc) (n : Nat) : Prop :=
  ∀ x, (∀ i, i < n → ¬ sameByte x (locPlus l i)) → byteAt t x = byteAt s x
/-- Every byte of every memory reads as before. -/
def AllBytes (s t : State) : Prop := ∀ x, byteAt t x = byteAt s x

/-! ### Invariants -/

/-- Every memory of the module is in its canonical form: physical memory, the scratchpads and the TCMs. -/
def MemInv (s : State) : Prop :=
  Mem.wf s.mem ∧ (∀ k, Mem.wf (s.clu k).spad) ∧ ∀ n, Mem.wf (s.coreN n).tcm

end Sys2Proof.Safety
end

