-- ==== Sys2Proof/Certificates/Slice0/Obligations.lean ====
section
/-! DEFINITION. The statements about the module, for the provers. Each docstring names the rules of spec/ it speaks of. -/

open Sys2Proof Sys2Proof.Machine Sys2Proof.Safety

/-! ### Encodings and the step -/

/-- Words written out from the encoding tables of R174 to R192 decode to the instructions they stand for. -/
def Obligations.SpecWordsDecode : Prop :=
  decodeC 0x004A24A0 0 = some (.add 0 10 9 10) ∧
  decodeC 0x005B6D06 0 = some (.divn 0 27 27 16) ∧
  decodeC 0x020513FD 0 = some (.addi 0 5 4 (-3)) ∧
  decodeC 0x045A5EC0 0 = some (.ld 0 26 23 2 3 0) ∧
  decodeC 0x084303FD 0 = some (.bne 0 3 0 (-3)) ∧
  decodeC 0x098003FB 0 = some (.lpend 0 0 (-5)) ∧
  decodeC 0x01400016 0 = some (.tkwait 0 1) ∧
  decodeC 0x06300201 0 = some (.kget 0 48 0x201) ∧
  decodeC 0x0FC31462 0 = some (.tlbinv 0 3 5 6) ∧
  decodeC 0x09C51060 0x06908010 = some (.amo 0 5 4 6 1 ⟨3, false, true, 0, 2, 16⟩) ∧
  decodeC 0x0A001C06 0x00424800 = some (.qfill 0 7 (.stream 1) (.stream 2) 2 2) ∧
  decodeC 0x0A851872 0x00842160 = some (.xtag 0 5 6 7 ⟨1, 1, 1, 1, 3, 0, 0, false⟩) ∧
  decodeV 0x914018FA 0x04500323 =
    some (.vfma 0 ⟨9, .view (.row 12), some ⟨.row 250, true⟩, .view (.col 40), .view (.row 12), false, true, true⟩) ∧
  decodeV 0x005C0400 0x00600099 = some (.vsetvli ⟨0, .ereg 2, none, .absent, .absent, false, false, true⟩ 384 2) ∧
  decodeV 0x0F8C0200 0x0FFFFF59 = some (.vbr ⟨0, .ereg 1, none, .absent, .absent, false, false, true⟩ (-3))

/-- Every well-formed C-stream instruction, with every operand at every value its encoding admits, decodes from its own words;
a one-word instruction decodes whatever word follows (R174 to R176, R186 to R190). -/
def Sys2Proof.Parts.DecodeEncodeC : Prop :=
  ∀ i : Instr, i.isC = true → i.wf = true →
    (∃ w, encode i = [w] ∧ isTwoWord w = false ∧ ∀ v, decodeC w v = some i) ∨
    (∃ w v, encode i = [w, v] ∧ isTwoWord w = true ∧ decodeC w v = some i)

/-- Every well-formed V-stream instruction decodes from its own two words (R178 to R182, R191, R192). -/
def Sys2Proof.Parts.DecodeEncodeV : Prop :=
  ∀ i : Instr, i.isV = true → i.wf = true → ∃ w v, encode i = [w, v] ∧ decodeV w v = some i

/-- Every well-formed instruction, with every operand at every value its encoding admits, decodes from the words that encode it: C-stream (R174 to R176, R186 to R190) and V-stream (R178 to R182, R191, R192). -/
def Obligations.DecodeEncode : Prop := Parts.DecodeEncodeC ∧ Parts.DecodeEncodeV

/-- No two words are one C-stream instruction, and every word that decodes is a well-formed C-stream instruction: no bit of a
word is passed over (R183). -/
def Sys2Proof.Parts.EncodeDecodeC : Prop :=
  ∀ w v i, decodeC w v = some i → i.isC = true ∧ i.wf = true ∧ encode i = if isTwoWord w then [w, v] else [w]

/-- No two pairs of words are one V-stream instruction, and every pair that decodes is well formed (R183). -/
def Sys2Proof.Parts.EncodeDecodeV : Prop :=
  ∀ w v i, decodeV w v = some i → i.isV = true ∧ i.wf = true ∧ encode i = [w, v]

/-- Words that decode are the words of one well-formed instruction: no bit is passed over, in either stream (R183). -/
def Obligations.EncodeDecode : Prop := Parts.EncodeDecodeC ∧ Parts.EncodeDecodeV

/-- Where a control core has the turn and nothing comes before its next instruction, the words fetched at its PC decide the
step: a decoded instruction runs by its own meaning, with no stall behind it and any watchpoint answered after it (R210, R443); a
claimed `ebreak` of its privilege that it is not is done with (R447). -/
def Sys2Proof.Parts.StepRunsInstruction : Prop :=
  ∀ (s s1 s2 : State) (n : Nat) (w0 w1 : Word) (i : Instr), s.powered = true → nextTurn s = (.control n, s1) →
    issues { s1 with cur := n } n = true → fetchC { s1 with cur := n } n = (s2, .words w0 w1) → decodeC w0 w1 = some i →
    step s = answered n (exec i (fresh s2 n i))

/-- Where the words at the PC are no instruction, the step takes cause 0x01 at the PC with the words in `%tval`; where the
fetch fails it takes the cause of the failure with the PC in both registers; a fetch that a byte budget holds is tried again (R62,
R184, R209). That the PC stands in `%tval` where the second word's fetch fails is the model's choice (log 79), and so is the report of
a poisoned fetch (log 51). -/
def Sys2Proof.Parts.StepTrapsOnBadWords : Prop :=
  ∀ (s s1 s2 : State) (n : Nat), s.powered = true → nextTurn s = (.control n, s1) → issues { s1 with cur := n } n = true →
    (∀ w0 w1, fetchC { s1 with cur := n } n = (s2, .words w0 w1) → decodeC w0 w1 = none →
      step s = .next (takeTrap s2 n 0 0x01 (s2.coreN n).ctl.pc (w1 ++ w0) none)) ∧
    (∀ code tval, fetchC { s1 with cur := n } n = (s2, .fault code tval) → tval = ((s1.coreN n).ctl.pc).setWidth 64 ∧
      step s = .next (takeTrap s2 n 0 code (s2.coreN n).ctl.pc tval none)) ∧
    ∀ ea, fetchC { s1 with cur := n } n = (s2, .held ea) → step s = .next (holdAt s2 n 0 ea)

/-- A step of a control core runs the instruction that the words at its PC decode to, and traps where they decode to none or cannot be fetched (R184, R209, R210, R443; the value reported for a second word that cannot be fetched is the model's choice, log 79). -/
def Obligations.StepRunsDecoded : Prop := Parts.StepRunsInstruction ∧ Parts.StepTrapsOnBadWords

/-- Without power nothing moves but a power-on; with power the next turn is taken (R486; the order of turns is the model's,
log 1). -/
def Sys2Proof.Parts.StepNeedsPower : Prop :=
  ∀ s : State,
    (s.powered = false → (nextTurn s).1 ≠ .event .powerOn → step s = .fault .noPower) ∧
    (s.powered = true ∨ (nextTurn s).1 = .event .powerOn → step s = runTurn (nextTurn s).2 (nextTurn s).1)

/-- No instruction and no event of the module stops the machine: each answers a next state in every state, and so does every
step of a powered module. -/
def Sys2Proof.Parts.AnswersNext : Prop :=
  (∀ (i : Instr) (s : State), ∃ t, exec i s = .next t) ∧ ∀ s : State, s.powered = true → ∃ t, step s = .next t

/-- Nothing stops a powered module; without power nothing moves but a power-on (R486; the order of turns is the model's, log 1). -/
def Obligations.EveryInstructionAnswers : Prop := Parts.AnswersNext ∧ Parts.StepNeedsPower

/-- After reset nothing is listed in any memory, every core stands at firmware privilege with every register zero, its vector
engine halted and its token slots idle, and the den, the report rings and the management block stand at the defaults of R476
(the register values are the model's choice, log 3, and so is the place of the rings in the den, log 40). -/
def Obligations.ResetState : Prop :=
  let s := State.reset
  s.mem = [] ∧ s.clock = 0 ∧ s.ready = 0 ∧ s.bootstat = 0 ∧
  (∀ n, (s.coreN n).ctl.priv = 2 ∧ (s.coreN n).tcm = [] ∧ (s.coreN n).vec.halted = true ∧ (s.coreN n).ctl.fflags = 0 ∧
    (∀ r, regGet (s.coreN n) r = 0) ∧ (∀ t, tokPending (s.coreN n) t = false) ∧ ∀ i, halGet (s.coreN n) i = 0) ∧
  (∀ k, (s.clu k).spad = []) ∧
  (∀ d, d < 4 → smGet 0 s.denBase d = 0x008000000000 + d * 0x100000000 + 0x4800000 ∧ smGet 0 s.denSize d = 0x1800000) ∧
  (∀ k, k < 8 → smGet 0 s.ringBase k = smGet 0 s.denBase (k / 2) + 0x17D0000 + k % 2 * 0x18000) ∧ s.mgmtBase = 0x0080047FF000

/-- At reset every memory is in its canonical form. -/
def Obligations.ResetMemoryCanonical : Prop := MemInv State.reset

/-- Every step keeps every memory, physical, scratchpad and TCM, in its canonical form. -/
def Obligations.StepKeepsMemoryCanonical : Prop := ∀ s t : State, MemInv s → step s = .next t → MemInv t

/-! ### Registers and completion -/

/-- A register reads what was last written to it in its bank; `s0` reads zero and a write to it changes nothing (R211, R356). -/
def Sys2Proof.Parts.RegisterFile : Prop :=
  ∀ (c : Core) (d r : Reg) (v : DWord),
    regGet c 0 = 0 ∧ regSet c 0 v = c ∧ regGet (regSet c d v) r = if r = d ∧ d ≠ 0 then v else regGet c r

/-- Above task privilege `s48` to `s63` are a bank of their own: what the supervisor writes there the task does not see, and it
keeps what the task has in them (R356). -/
def Sys2Proof.Parts.SupervisorBank : Prop :=
  ∀ (c : Core) (r : Reg) (v : DWord) (p : BitVec 2), c.ctl.priv = 0 → c.ctl.inHandler = false → p ≠ 0 → 48 ≤ r.toNat →
    let k := regSet (c.updCtl fun t => { t with priv := p }) r v
    regGet k r = v ∧ regGet (k.updCtl fun t => { t with priv := 0 }) r = regGet c r

/-- The scalar registers and the bank of the supervisor (R113, R211, R356). -/
def Obligations.RegisterBanks : Prop := Parts.RegisterFile ∧ Parts.SupervisorBank

/-- What the completion of an instruction does besides its effect: the PC; one taken from each counter waited on, unless a stall
has taken it before, and one added to each counter signalled, a full counter holding the increment; nothing else of the halyard
(R49 to R53, R210). What the task's instruction has taken stays through a handler (R356). -/
def Sys2Proof.Parts.CompletionMovesHalyard : Prop :=
  ∀ (s : State) (h : Hal) (p : VAddr), heldGet s.core 8 = 0 → heldGet s.core 1 = 0 → heldGet s.core 9 = 0 → heldGet s.core 0 = 0 →
    let c := (finish s h p).core
    let first := s.core.ctl.took.isNone
    c.ctl.pc = p ∧ c.ctl.took = (if s.core.ctl.priv = 0 then none else s.core.ctl.took) ∧
    halGet c 8 = halGet s.core 8 - (if h.getLsbD 3 && first then 1 else 0) ∧
    halGet c 1 = halGet s.core 1 - (if h.getLsbD 2 && first then 1 else 0) ∧
    (∀ k b, (k = 9 ∧ b = h.getLsbD 1) ∨ (k = 0 ∧ b = h.getLsbD 0) →
      if b = false then halGet c k = halGet s.core k ∧ heldGet c k = 0
      else if halGet s.core k < 63 then halGet c k = halGet s.core k + 1 ∧ heldGet c k = 0
      else halGet c k = halGet s.core k ∧ heldGet c k = 1) ∧
    ∀ k, k ≠ 8 → k ≠ 1 → k ≠ 9 → k ≠ 0 → halGet c k = halGet s.core k ∧ heldGet c k = heldGet s.core k

namespace Sys2Proof.Tables

/-- The nibble of a C-stream instruction (R174, R186 to R190). -/
def nibble : Instr → Hal
  | .add h .. | .sub h .. | .mul h .. | .mulh h .. | .mulhn h .. | .div h .. | .divn h .. | .rem h .. | .remn h .. | .and h ..
  | .or h .. | .xor h .. | .sll h .. | .srl h .. | .sra h .. | .slt h .. | .sltn h .. | .min h .. | .max h .. | .minn h ..
  | .maxn h .. | .clz h .. | .ctz h .. | .popc h .. | .adda h .. | .tagset h .. | .tagget h .. | .fadd h .. | .fmul h ..
  | .fmin h .. | .fmax h .. | .fcmpEq h .. | .fcmpLt h .. | .fcmpLe h .. | .barinit h .. | .barinitCad h .. | .bararr h ..
  | .barwait h .. | .pend h .. | .pendCad h .. | .tkwait h .. | .tkpoll h .. | .vstart h .. | .vpush h .. | .vpop h ..
  | .vsync h .. | .inpop h .. | .inpeek h .. | .aiset h .. | .aret h .. | .ecall h .. | .ebreak h .. | .pause h .. | .addi h ..
  | .andi h .. | .ori h .. | .xori h .. | .slli h .. | .srli h .. | .srai h .. | .slti h .. | .fcvt h .. | .ld h .. | .ldn h ..
  | .st h .. | .jalr h .. | .lpset h .. | .lpidx h .. | .fence h .. | .kget h .. | .kset h .. | .kbis h .. | .kbic h .. | .li h ..
  | .lis h .. | .jal h .. | .beq h .. | .bne h .. | .blt h .. | .bge h .. | .bltn h .. | .bgen h .. | .lpend h .. | .amo h ..
  | .amocas h .. | .waitge h .. | .ldOrdered h .. | .ldnOrdered h .. | .stOrdered h .. | .qbase h .. | .qdim h .. | .qfmt h ..
  | .qstart h .. | .qstop h .. | .qstat h .. | .qfill h .. | .qrow h .. | .qstore h .. | .gupd h .. | .gclr h .. | .gdone h ..
  | .glim h .. | .gchk h .. | .xcopy h .. | .xfill h .. | .xtag h .. | .xtagrd h .. | .xgath h .. | .xscat h .. | .xsadd h ..
  | .xbcast h .. | .xred h .. | .xenq h .. | .xpref h .. | .stbind h .. | .stflush h .. | .stread h .. | .streset h ..
  | .starm h .. | .eret h .. | .wfi h .. | .tlbinv h .. | .tlbflush h .. | .ctxsave h .. | .ctxload h .. | .ctxwait h ..
  | .halt h .. => h
  | _ => 0

/-- Whether an instruction makes its waits at the control core, here after the checks that decoding makes: a control-register
access that is allowed, and a system instruction above task privilege (R183, R185). Those posted to an engine wait there (R177). -/
def waitsHere (s : State) : Instr → Prop
  | .qbase .. | .qdim .. | .qfmt .. | .qstart .. | .qstop .. | .qstat .. | .qfill .. | .qrow .. | .qstore .. | .gupd .. | .gclr ..
  | .gdone .. | .glim .. | .gchk .. | .xcopy .. | .xfill .. | .xtag .. | .xtagrd .. | .xgath .. | .xscat .. | .xsadd ..
  | .xbcast .. | .xred .. | .xenq .. | .xpref .. => False
  | .kget _ _ k => kFault s.core.ctl.priv k.toNat .get = none
  | .kset _ _ k => kFault s.core.ctl.priv k.toNat .set = none
  | .kbis _ _ k => kFault s.core.ctl.priv k.toNat .bis = none
  | .kbic _ _ k => kFault s.core.ctl.priv k.toNat .bic = none
  | .eret .. | .wfi .. | .tlbinv .. | .tlbflush .. | .ctxsave .. | .ctxload .. | .ctxwait .. | .halt .. => s.core.ctl.priv ≠ 0
  | i => i.isC = true

end Sys2Proof.Tables

/-- Any C-stream instruction with a halyard mark above task privilege is illegal (R356). One that waits at the control core, with an
unsatisfied wait or behind a held signal of its engine, takes no effect: it is tried again (R51, R53). One that stalls with its
waits h satisfied has taken them, once, and a trap that leaves it gives them back (R51); a handler's has none (R356). -/
def Sys2Proof.Parts.WaitsAndMarks : Prop :=
  ∀ s : State,
    (∀ i : Instr, i.isC = true → s.core.ctl.priv ≠ 0 → Tables.nibble i ≠ 0 → exec i s = trapped s 0x01 (encWord i) s) ∧
    (∀ i : Instr, Tables.waitsHere s i →
      let h := Tables.nibble i
      (s.core.ctl.priv = 0 ∧ s.core.ctl.took = none) ∨ (s.core.ctl.priv ≠ 0 ∧ h = 0) →
        ((h.getLsbD 3 = true ∧ halGet s.core 8 = 0) ∨ (h.getLsbD 2 = true ∧ halGet s.core 1 = 0) ∨ 0 < heldGet s.core 9 ∨
          0 < heldGet s.core 0) → exec i s = .next (stall s)) ∧
    (s.core.ctl.priv ≠ 0 → ∀ h, stallTook s h = stall s) ∧
    ∀ h : Hal, s.core.ctl.priv = 0 → s.core.ctl.took = none → heldGet s.core 8 = 0 → heldGet s.core 1 = 0 →
      let c := (stallTook s h).core
      c.ctl.took = some h ∧ halGet c 8 = halGet s.core 8 - (if h.getLsbD 3 then 1 else 0) ∧
      halGet c 1 = halGet s.core 1 - (if h.getLsbD 2 then 1 else 0) ∧ stallTook (stallTook s h) h = stallTook s h ∧
      ((h.getLsbD 3 = true → 0 < halGet s.core 8 ∧ halGet s.core 8 ≤ 63) →
        (h.getLsbD 2 = true → 0 < halGet s.core 1 ∧ halGet s.core 1 ≤ 63) →
        ∀ k, halGet (giveBack c) k = halGet s.core k)

/-- What the completion of an instruction does to the halyard, and what its waits hold back (R49 to R54, R210, R356). -/
def Obligations.CompletionAndWaits : Prop := Parts.CompletionMovesHalyard ∧ Parts.WaitsAndMarks

/-! ### Integer and pointer arithmetic -/

namespace Sys2Proof.Tables

/-- The two-register instructions of R212, R213 and R216 with their results. -/
def intOps : List ((Hal → Reg → Reg → Reg → Instr) × (DWord → DWord → DWord)) := [
  (.add, fun a b => a + b), (.sub, fun a b => a - b), (.mul, fun a b => a * b),
  (.mulh, fun a b => (a.signExtend 128 * b.signExtend 128).extractLsb' 64 64),
  (.mulhn, fun a b => (a.setWidth 128 * b.setWidth 128).extractLsb' 64 64),
  (.div, fun a b => if b = 0 then BitVec.allOnes 64 else a.sdiv b), (.divn, fun a b => if b = 0 then BitVec.allOnes 64 else a / b),
  (.rem, fun a b => if b = 0 then a else a.srem b), (.remn, fun a b => if b = 0 then a else a % b),
  (.and, fun a b => a &&& b), (.or, fun a b => a ||| b), (.xor, fun a b => a ^^^ b),
  (.sll, fun a b => a <<< (b.toNat % 64)), (.srl, fun a b => a >>> (b.toNat % 64)), (.sra, fun a b => a.sshiftRight (b.toNat % 64)),
  (.slt, fun a b => if a.toInt < b.toInt then 1 else 0), (.sltn, fun a b => if a.toNat < b.toNat then 1 else 0),
  (.min, fun a b => BitVec.ofInt 64 (min a.toInt b.toInt)), (.max, fun a b => BitVec.ofInt 64 (max a.toInt b.toInt)),
  (.minn, fun a b => BitVec.ofNat 64 (min a.toNat b.toNat)), (.maxn, fun a b => BitVec.ofNat 64 (max a.toNat b.toNat)),
  (.adda, fun a b => a.extractLsb' 56 8 ++ (a + b).extractLsb' 0 56), (.tagset, fun a b => b.extractLsb' 0 4 ++ a.extractLsb' 0 60)]

/-- The immediate instructions of R214 with their results. -/
def immOps : List ((Hal → Reg → Reg → BitVec 10 → Instr) × (DWord → DWord → DWord)) := [
  (.addi, fun a m => a + m), (.andi, fun a m => a &&& m), (.ori, fun a m => a ||| m), (.xori, fun a m => a ^^^ m),
  (.slti, fun a m => if a.toInt < m.toInt then 1 else 0)]

/-- The immediate shifts of R214. -/
def shiftOps : List ((Hal → Reg → Reg → BitVec 6 → Instr) × (DWord → Nat → DWord)) := [
  (.slli, fun a k => a <<< k), (.srli, fun a k => a >>> k), (.srai, fun a k => a.sshiftRight k)]

end Sys2Proof.Tables

/-- The two-register integer and pointer instructions complete with the result of R212, R213 or R216 in d. -/
def Sys2Proof.Parts.IntegerResults : Prop :=
  ∀ p ∈ Tables.intOps, ∀ (h : Hal) (d a b : Reg) (s : State), Ready s h →
    exec (p.1 h d a b) s = done s h 4 (wrote s d (p.2 (reg s a) (reg s b)))

/-- Division truncates toward zero and never traps, with the corners of R213 (div, divn, rem, remn). -/
def Obligations.DivisionCorners : Prop :=
  ∀ (h : Hal) (d a b : Reg) (s : State), Ready s h →
    let x := reg s a
    let y := reg s b
    (y = 0 → exec (.div h d a b) s = done s h 4 (wrote s d (BitVec.allOnes 64)) ∧ exec (.rem h d a b) s = done s h 4 (wrote s d x) ∧
      exec (.divn h d a b) s = done s h 4 (wrote s d (BitVec.allOnes 64)) ∧ exec (.remn h d a b) s = done s h 4 (wrote s d x)) ∧
    (x = 0x8000000000000000 → y = BitVec.allOnes 64 →
      exec (.div h d a b) s = done s h 4 (wrote s d 0x8000000000000000) ∧ exec (.rem h d a b) s = done s h 4 (wrote s d 0)) ∧
    (y ≠ 0 → ¬ (x = 0x8000000000000000 ∧ y = BitVec.allOnes 64) →
      ∃ q r : Int, x.toInt = y.toInt * q + r ∧ r.natAbs < y.toInt.natAbs ∧ (r = 0 ∨ (r < 0 ↔ x.toInt < 0)) ∧
        exec (.div h d a b) s = done s h 4 (wrote s d (BitVec.ofInt 64 q)) ∧
        exec (.rem h d a b) s = done s h 4 (wrote s d (BitVec.ofInt 64 r))) ∧
    (y ≠ 0 → ∃ q r : Nat, x.toNat = y.toNat * q + r ∧ r < y.toNat ∧
        exec (.divn h d a b) s = done s h 4 (wrote s d (BitVec.ofNat 64 q)) ∧
        exec (.remn h d a b) s = done s h 4 (wrote s d (BitVec.ofNat 64 r)))

/-- `clz` counts the zero bits above the highest 1, `ctz` those below the lowest, `popc` the 1 bits; 64 for the first two when
a is 0 (R212). `tagget` gives bits [63:60] (R216). -/
def Sys2Proof.Parts.BitCounts : Prop :=
  ∀ (h : Hal) (d a : Reg) (s : State), Ready s h →
    let x := reg s a
    (∃ n, n ≤ 64 ∧ (∀ i, i < n → x.getLsbD (63 - i) = false) ∧ (n < 64 → x.getLsbD (63 - n) = true) ∧
      exec (.clz h d a) s = done s h 4 (wrote s d (BitVec.ofNat 64 n))) ∧
    (∃ n, n ≤ 64 ∧ (∀ i, i < n → x.getLsbD i = false) ∧ (n < 64 → x.getLsbD n = true) ∧
      exec (.ctz h d a) s = done s h 4 (wrote s d (BitVec.ofNat 64 n))) ∧
    exec (.popc h d a) s = done s h 4 (wrote s d (BitVec.ofNat 64 (Finset.univ.filter fun i : Fin 64 => x.getLsbD i = true).card)) ∧
    exec (.tagget h d a) s = done s h 4 (wrote s d (BitVec.ofNat 64 (x.toNat / 2 ^ 60)))

/-- The immediate forms, `li` and `lis` complete with their results (R214, R215). -/
def Sys2Proof.Parts.ImmediateResults : Prop :=
  (∀ p ∈ Tables.immOps, ∀ (h : Hal) (d a : Reg) (m : BitVec 10) (s : State), Ready s h →
    exec (p.1 h d a m) s = done s h 4 (wrote s d (p.2 (reg s a) (m.signExtend 64)))) ∧
  (∀ p ∈ Tables.shiftOps, ∀ (h : Hal) (d a : Reg) (k : BitVec 6) (s : State), Ready s h →
    exec (p.1 h d a k) s = done s h 4 (wrote s d (p.2 (reg s a) k.toNat))) ∧
  ∀ (h : Hal) (d : Reg) (m : BitVec 16) (s : State), Ready s h →
    exec (.li h d m) s = done s h 4 (wrote s d (m.signExtend 64)) ∧
    exec (.lis h d m) s = done s h 4 (wrote s d ((reg s d).extractLsb' 0 48 ++ m))

/-- The integer and pointer instructions complete with the results of R212 to R216. -/
def Obligations.IntegerInstructions : Prop := Parts.IntegerResults ∧ Parts.ImmediateResults ∧ Parts.BitCounts

/-! ### Scalar floating point -/

namespace Sys2Proof.Tables

/-- An F32 result with its flags. -/
def fWrote (s : State) (d : Reg) (r : Nat × Flags) : State := s.upd fun c => orFlags (regSet c d (BitVec.ofNat 64 r.1)) r.2

/-- A truth value as a result. -/
def fTruth (r : Bool × Flags) : Nat × Flags := (if r.1 then 1 else 0, r.2)

/-- The scalar float instructions of R217 with the operation on two F32 codes. -/
def floatOps : List ((Hal → Reg → Reg → Reg → Instr) × (Nat → Nat → Nat × Flags)) := [
  (.fadd, fAdd f32), (.fmul, fMul f32), (.fmin, fun x y => (fMinMax f32 false x y, 0)), (.fmax, fun x y => (fMinMax f32 true x y, 0)),
  (.fcmpEq, fun x y => fTruth (fCmp f32 0 x y)), (.fcmpLt, fun x y => fTruth (fCmp f32 1 x y)), (.fcmpLe, fun x y => fTruth (fCmp f32 2 x y))]

end Sys2Proof.Tables

/-- The scalar float instructions take bits [31:0] of their sources, write the F32 result zero-extended and OR their flags into
`%fflags`; `fcvt` likewise with its own result (R217, R218). -/
def Sys2Proof.Parts.FloatResults : Prop :=
  (∀ p ∈ Tables.floatOps, ∀ (h : Hal) (d a b : Reg) (s : State), Ready s h →
    exec (p.1 h d a b) s =
      done s h 4 (Tables.fWrote s d (p.2 ((reg s a).toNat % 2 ^ 32) ((reg s b).toNat % 2 ^ 32)))) ∧
  ∀ (h : Hal) (d a : Reg) (m dst src : BitVec 3) (s : State), Ready s h →
    exec (.fcvt h d a m dst src) s =
      done s h 4 (s.upd fun c => orFlags (regSet c d (fcvtRes m dst src (reg s a)).1) (fcvtRes m dst src (reg s a)).2)

namespace Sys2Proof.Tables

/-- The formats of `fcvt` by their codes, each with its largest finite code, its infinity where it has one, and what a NaN becomes
(R67, R79, R189). -/
def formats : List (BitVec 3 × FFmt × Nat × Option Nat × Nat) := [
  (0, f32, 0x7F7FFFFF, some 0x7F800000, 0x7FC00000), (1, bf16, 0x7F7F, some 0x7F80, 0x7FC0), (2, f16, 0x7BFF, some 0x7C00, 0x7E00),
  (3, e5m2, 0x7B, some 0x7C, 0x7E), (4, e4m3, 0x7E, none, 0x7F), (5, e2m1, 0x7, none, 0x0)]

/-- The magnitude of a code, and whether its sign bit is set. -/
def mag (f : FFmt) (x : Nat) : Nat := x % 2 ^ (f.eb + f.mb)
def negative (f : FFmt) (x : Nat) : Bool := x / 2 ^ (f.eb + f.mb) % 2 == 1
/-- A finite code as a number of units of 2^-149 (R68). -/
def units (f : FFmt) (x : Nat) : Int :=
  let e := x / 2 ^ f.mb % 2 ^ f.eb
  let k : Nat := if e = 0 then x % 2 ^ f.mb * 2 ^ (150 - f.bias - f.mb) else (2 ^ f.mb + x % 2 ^ f.mb) * 2 ^ (e + 149 - f.bias - f.mb)
  if x / 2 ^ (f.eb + f.mb) % 2 = 1 then -(k : Int) else (k : Int)

/-- A finite code `c` is the rounding of the exact value `S`, given in units 2^-149 / u, among the codes up to `top` under a mode
(R75). -/
def RoundsTo (f : FFmt) (top : Nat) (mode : Nat) (u S : Int) (c : Nat) : Prop :=
  let v (z : Nat) : Int := units f z * u
  mag f c ≤ top ∧ ∀ z, mag f z ≤ top →
    match mode with
    | 0 => |v c - S| ≤ |v z - S| ∧ (|v c - S| = |v z - S| → v z ≠ v c → c % 2 = 0)
    | 1 => |v c| ≤ |S| ∧ 0 ≤ v c * S ∧ (|v z| ≤ |S| → |v z| ≤ |v c|)
    | 2 => v c ≤ S ∧ (v z ≤ S → v z ≤ v c)
    | _ => S ≤ v c ∧ (S ≤ v z → v c ≤ v z)

/-- What R76 and R79 make of an exact value `S` ≠ 0 in units 2^-149 / u, under modes 0 RNE, 1 RZ, 2 RDN and 3 RUP: where its
rounding with an unbounded exponent lies above the largest, an infinity or the largest with `of` and `nx`; else its rounding with its
own sign, `nx` where that is not exact, and `uf` where also the rounding with an unbounded exponent lies below the smallest normal. -/
def Converts (f : FFmt) (top : Nat) (inf : Option Nat) (mode : Nat) (u S : Int) (r : Nat × Flags) : Prop :=
  let away : Prop := (mode = 2 ∧ S < 0) ∨ (mode = 3 ∧ 0 < S)
  let big := units f top * u
  let ulp := (units f top - units f (top - 1)) * u
  let normal : Int := 2 ^ (150 - f.bias) * u
  let overflows : Prop := if mode = 0 then (if top % 2 = 1 then 2 * big + ulp ≤ 2 * |S| else 2 * big + ulp < 2 * |S|)
    else if away then big < |S| else big + ulp ≤ |S|
  let tiny : Prop := if mode = 0 then 2 ^ (f.mb + 2) * |S| < (2 ^ (f.mb + 2) - 1) * normal
    else if away then 2 ^ (f.mb + 1) * |S| ≤ (2 ^ (f.mb + 1) - 1) * normal else |S| < normal
  let sign := if S < 0 then 2 ^ (f.eb + f.mb) else 0
  (overflows → r = (sign + (if mode = 0 ∨ away then inf.getD top else top), fOF ||| fNX)) ∧
  (¬ overflows → r.1 < 2 ^ f.width ∧ (negative f r.1 = true ↔ S < 0) ∧ RoundsTo f top mode u S r.1 ∧
    (units f r.1 * u = S → r.2 = 0) ∧ (units f r.1 * u ≠ S → (tiny → r.2 = fNX ||| fUF) ∧ (¬ tiny → r.2 = fNX)))

/-- An exact value in units of 2^-149 rounded to an integer under a mode (R75, R81). -/
def toInteger (mode : Nat) (S : Int) : Int :=
  let q := S / 2 ^ 149
  let r := S % 2 ^ 149
  match mode with
  | 0 => if 2 * r < 2 ^ 149 ∨ (2 * r = 2 ^ 149 ∧ q % 2 = 0) then q else q + 1
  | 1 => if S < 0 ∧ r ≠ 0 then q + 1 else q
  | 2 => q
  | _ => if r ≠ 0 then q + 1 else q

end Sys2Proof.Tables

/-- A compare of two finite F32 values is that of the numbers they stand for and sets no flag; a sum and a product, with their
flags, do not depend on the order of the operands, whatever these are (R68, R85). -/
def Sys2Proof.Parts.FloatExact : Prop :=
  (∀ x y : Nat, x / 2 ^ 23 % 256 ≠ 255 → y / 2 ^ 23 % 256 ≠ 255 →
    fCmp f32 0 x y = (decide (Tables.units f32 x = Tables.units f32 y), 0) ∧
    fCmp f32 1 x y = (decide (Tables.units f32 x < Tables.units f32 y), 0) ∧
    fCmp f32 2 x y = (decide (Tables.units f32 x ≤ Tables.units f32 y), 0)) ∧
  ∀ x y : Nat, fAdd f32 x y = fAdd f32 y x ∧ fMul f32 x y = fMul f32 y x

/-- A sum and a product of finite F32 values are their exact values rounded once under RNE; an exact zero sum is −0 only of two −0,
and a zero product carries the exclusive-or of the signs. A NaN operand gives the canonical NaN without a flag, ∞ − ∞ and 0 × ∞ give
it with `nv`, and any other infinite operand gives an infinity (R76, R79, R83, R85). -/
def Sys2Proof.Parts.FloatSums : Prop :=
  ∀ x y : Nat, x < 2 ^ 32 → y < 2 ^ 32 →
    let m := 2 ^ 31
    let inf := 0x7F800000
    let a := x % m
    let b := y % m
    let S := Tables.units f32 x + Tables.units f32 y
    let P := Tables.units f32 x * Tables.units f32 y
    let mixed : Prop := x / m ≠ y / m
    (a < inf → b < inf →
      (S ≠ 0 → Tables.Converts f32 0x7F7FFFFF (some inf) 0 1 S (fAdd f32 x y)) ∧
      (S = 0 → fAdd f32 x y = (if x = m ∧ y = m then m else 0, 0)) ∧
      (P ≠ 0 → Tables.Converts f32 0x7F7FFFFF (some inf) 0 (2 ^ 149) P (fMul f32 x y)) ∧
      (P = 0 → fMul f32 x y = (if mixed then m else 0, 0))) ∧
    (inf < a ∨ inf < b → fAdd f32 x y = (0x7FC00000, 0) ∧ fMul f32 x y = (0x7FC00000, 0)) ∧
    (a = inf → b = inf → fAdd f32 x y = (if mixed then (0x7FC00000, fNV) else (x, 0))) ∧
    (a = inf → b < inf → fAdd f32 x y = (x, 0)) ∧
    (a = inf → b ≤ inf → fMul f32 x y = if b = 0 then (0x7FC00000, fNV) else ((if mixed then m else 0) + inf, 0))

/-- The minimum and the maximum order values as their codes stand, −0 below +0; a NaN gives way to a number, and two give the
canonical NaN (R85). -/
def Sys2Proof.Parts.FloatMinMax : Prop :=
  ∀ x y : Nat, x < 2 ^ 32 → y < 2 ^ 32 →
    let nan (x : Nat) : Prop := 0x7F800000 < x % 2 ^ 31
    let key (x : Nat) : Int := if x < 2 ^ 31 then x else 2 ^ 31 - 1 - (x : Int)
    (¬ nan x → ¬ nan y → fMinMax f32 false x y = (if key y < key x then y else x) ∧
      fMinMax f32 true x y = (if key x < key y then y else x)) ∧
    ∀ mx, (nan x → ¬ nan y → fMinMax f32 mx x y = y) ∧ (¬ nan x → nan y → fMinMax f32 mx x y = x) ∧
      (nan x → nan y → fMinMax f32 mx x y = 0x7FC00000)

/-- `fcvt` (R218): between floats and from an integer the exact value is rounded once under the mode, a zero keeps its sign, a NaN
becomes the canonical one with `nv`, and an infinity the target's or, with `nv`, what R79 puts in its place; a float becomes the
integer nearest under the mode, saturated with `nv` (R81); integers saturate or widen. -/
def Sys2Proof.Parts.FloatConversions : Prop :=
  ∀ (x : DWord) (m : BitVec 3), m.toNat < 4 →
    (∀ p ∈ Tables.formats, ∀ q ∈ Tables.formats,
      let (dst, fd, top, inf, nan) := p
      let (src, fs, lim, _, _) := q
      let v := x.toNat % 2 ^ fs.width
      let sign := if Tables.negative fs v then 2 ^ (fd.eb + fd.mb) else 0
      let r := fcvtRes m dst src x
      let S := Tables.units fs v
      (Tables.mag fs v ≤ lim → S ≠ 0 → Tables.Converts fd top inf m.toNat 1 S (r.1.toNat, r.2)) ∧
      (Tables.mag fs v = 0 → r = (BitVec.ofNat 64 sign, 0)) ∧
      (lim < Tables.mag fs v → q.2.2.2.1 ≠ some (Tables.mag fs v) → r = (BitVec.ofNat 64 nan, fNV)) ∧
      (q.2.2.2.1 = some (Tables.mag fs v) →
        r = match inf with
          | some i => (BitVec.ofNat 64 (sign + i), 0)
          | none => (BitVec.ofNat 64 (if dst = 4 then 0x7F else sign + top), fNV))) ∧
    (∀ p ∈ Tables.formats, ∀ w, w = 32 ∨ w = 64 →
      let (c, f, top, inf, _) := p
      let k : BitVec 3 := if w = 32 then 7 else 6
      let i : Int := (x.setWidth w).toInt
      let lo : Int := -2 ^ (w - 1)
      let hi : Int := 2 ^ (w - 1) - 1
      let r := fcvtRes m c k x
      let t := fcvtRes m k c x
      let v := x.toNat % 2 ^ f.width
      let S := Tables.units f v
      let j := Tables.toInteger m.toNat S
      (i ≠ 0 → Tables.Converts f top inf m.toNat 1 (i * 2 ^ 149) (r.1.toNat, r.2)) ∧ (i = 0 → r = (0, 0)) ∧
      (Tables.mag f v ≤ top → t = if j < lo then (BitVec.ofInt 64 lo, fNV) else if hi < j then (BitVec.ofInt 64 hi, fNV)
        else (BitVec.ofInt 64 j, if S % 2 ^ 149 = 0 then 0 else fNX)) ∧
      (top < Tables.mag f v → inf ≠ some (Tables.mag f v) → t = (0, fNV)) ∧
      (inf = some (Tables.mag f v) → (Tables.negative f v = true → t = (BitVec.ofInt 64 lo, fNV)) ∧
        (Tables.negative f v = false → t = (BitVec.ofInt 64 hi, fNV)))) ∧
    fcvtRes m 6 6 x = (x, 0) ∧ fcvtRes m 6 7 x = ((x.setWidth 32).signExtend 64, 0) ∧
    fcvtRes m 7 7 x = ((x.setWidth 32).signExtend 64, 0) ∧
    fcvtRes m 7 6 x = if x.toInt < -2 ^ 31 then (BitVec.ofInt 64 (-2 ^ 31), fNV)
      else if 2 ^ 31 ≤ x.toInt then (BitVec.ofInt 64 (2 ^ 31 - 1), fNV) else (x, 0)

/-- The scalar float instructions complete with the results of R217 and R218, which are the exact results on the numbers that codes stand for, rounded once (R68, R75, R76, R79, R81, R82, R85). -/
def Obligations.ScalarFloat : Prop := Parts.FloatResults ∧ Parts.FloatExact ∧ Parts.FloatSums ∧ Parts.FloatMinMax ∧ Parts.FloatConversions

/-! ### Control transfer and loops -/

namespace Sys2Proof.Tables

/-- The branches of R219 with the condition each is taken on. -/
def branches : List ((Hal → Reg → Reg → BitVec 10 → Instr) × (DWord → DWord → Prop)) := [
  (.beq, fun a b => a = b), (.bne, fun a b => a ≠ b), (.blt, fun a b => a.toInt < b.toInt), (.bge, fun a b => b.toInt ≤ a.toInt),
  (.bltn, fun a b => a.toNat < b.toNat), (.bgen, fun a b => b.toNat ≤ a.toNat)]

end Sys2Proof.Tables

/-- A branch whose condition holds goes to PC + offset × 4, another goes on at PC + 4; neither has another effect (R219). -/
def Obligations.BranchResults : Prop :=
  ∀ p ∈ Tables.branches, ∀ (h : Hal) (a b : Reg) (off : BitVec 10) (s : State), Ready s h →
    (p.2 (reg s a) (reg s b) → exec (p.1 h a b off) s = jumped s h (s.core.ctl.pc + off.signExtend 56 * 4) s) ∧
    (¬ p.2 (reg s a) (reg s b) → exec (p.1 h a b off) s = done s h 4 s)

/-- `jal` and `jalr` write PC + 4 and jump; the target of `jalr` is formed from the old value of a, and one that is misaligned
or has bits above 56 traps with d unwritten (R220). -/
def Sys2Proof.Parts.JumpResults : Prop :=
  ∀ (h : Hal) (d a : Reg) (s : State), Ready s h →
    let link := wrote s d ((s.core.ctl.pc + 4).setWidth 64)
    (∀ off : BitVec 16, exec (.jal h d off) s = jumped s h (s.core.ctl.pc + off.signExtend 56 * 4) link) ∧
    ∀ imm : BitVec 10,
      let t := reg s a + imm.signExtend 64 * 4
      (t.toNat % 4 ≠ 0 → exec (.jalr h d a imm) s = trapped s 0x02 t s) ∧
      (t.toNat % 4 = 0 → 2 ^ 56 ≤ t.toNat → exec (.jalr h d a imm) s = trapped s 0x08 t s) ∧
      (t.toNat % 4 = 0 → t.toNat < 2 ^ 56 → exec (.jalr h d a imm) s = jumped s h (t.setWidth 56) link)

/-- `lpset` makes loop n active with max(trip, 1) iterations left, where trip is s[a] + imm saturated at 2^32 − 1, index 0, the
start after itself and no end; another loop keeps its state (R221, R223). -/
def Sys2Proof.Parts.LoopSetResults : Prop :=
  ∀ (h : Hal) (n : BitVec 3) (a : Reg) (imm : BitVec 10) (s : State), Ready s h →
    let trip := min ((reg s a).toNat + imm.toNat) (2 ^ 32 - 1)
    let l : Loop := { active := true, remaining := BitVec.ofNat 32 (max trip 1), index := 0, start := s.core.ctl.pc + 4, stop := none }
    let t := s.upd fun c => loopSet c n.toNat l
    exec (.lpset h n a imm) s = done s h 4 t ∧ loopGet t.core n.toNat = l ∧
    ∀ m, m ≠ n.toNat → loopGet t.core m = loopGet s.core m

/-- Jumps and the start of a loop (R220, R221, R223). -/
def Obligations.JumpsAndLoopSet : Prop := Parts.JumpResults ∧ Parts.LoopSetResults

/-- `lpend` (R222): no effect on an inactive loop; a target other than the start is illegal; else the end, the index and the
count move on, and the loop goes round while its count is not 0. `lpidx` reads the index. -/
def Obligations.LoopEndResults : Prop :=
  ∀ (h : Hal) (d : Reg) (n : BitVec 3) (off : BitVec 10) (s : State), Ready s h →
    let l := loopGet s.core n.toNat
    let pc := s.core.ctl.pc
    let l' : Loop := { l with stop := some pc, index := l.index + 1, remaining := l.remaining - 1 }
    (l.active = false → exec (.lpend h n off) s = done s h 4 s) ∧
    (l.active = true → pc + off.signExtend 56 * 4 ≠ l.start →
      exec (.lpend h n off) s = trapped s 0x01 (encWord (.lpend h n off)) s) ∧
    (l.active = true → pc + off.signExtend 56 * 4 = l.start → l.remaining ≠ 1 →
      exec (.lpend h n off) s = jumped s h l.start (s.upd fun c => loopSet c n.toNat l')) ∧
    (l.active = true → pc + off.signExtend 56 * 4 = l.start → l.remaining = 1 →
      exec (.lpend h n off) s = done s h 4 (s.upd fun c => loopSet c n.toNat { l' with active := false })) ∧
    exec (.lpidx h d n) s = done s h 4 (wrote s d (l.index.setWidth 64))

/-! ### Memory -/

namespace Sys2Proof.Tables

/-- The effective address of the CI form: the offset counts units of the size (R189, R224). -/
def ciEa (s : State) (a : Reg) (sp sz : BitVec 2) (off : BitVec 6) : DWord := effAddr sp (reg s a) (off.toInt * 2 ^ sz.toNat)
/-- The effective address of major 0x27 (R190). -/
def ordEa (s : State) (a : Reg) (m : MemOrd) : DWord := effAddr m.space (reg s a) m.off.toInt
/-- The C-stream's load of `n` bytes. -/
def cLoad (s : State) (sp : BitVec 2) (ea : DWord) (n : Nat) : State × Acc := loadAt s (cWho s) [] sp ea n .load
/-- The C-stream's store of the low `n` bytes of register `d`. -/
def cStore (s : State) (sp : BitVec 2) (ea : DWord) (n : Nat) (d : Reg) : State × Acc :=
  storeAt s (cWho s) [] sp ea n .store fun _ => (reg s d).toNat
/-- The report ring of a core: 64 entries of 64 bytes (R389). -/
def ringOf (s : State) (n : Nat) : Loc := .phys (smGet 0 s.ringBase (clusterOf n) + 4096 * (n % 24)) 0
/-- The access has been made: no request of the control core is held at a memory port (R62). -/
def unheld (t : State) : State := unhold t t.cur 0
/-- The loaded value in register `d`. -/
def loaded (t : State) (d : Reg) (v : DWord) : State := wrote (unheld t) d v
/-- `n` bytes sign-extended to 64 bits. -/
def sext (n v : Nat) : DWord := (BitVec.ofNat (8 * n) v).signExtend 64
/-- The state in which a release makes its write: at die scope or wider it has flushed the combining buffers (R141, R228). -/
def relState (m : MemOrd) (s : State) : State := if m.rl = true ∧ 2 ≤ m.scope.toNat then flushAll s s.cur else s
/-- The flush is complete: no byte budget holds an entry of the core's buffers (R62). -/
def relOpen (m : MemOrd) (s : State) : Prop :=
  m.rl = true → 2 ≤ m.scope.toNat → combEmpty ((flushAll s s.cur).coreN s.cur) = true
/-- What a load instruction does with the outcome of its access: the value, a tag mismatch after it, a fault, a held request. -/
def LoadOutcome (s : State) (i : Instr) (h : Hal) (len : VAddr) (d : Reg) (ea : DWord) (r : State × Acc) (f : Nat → DWord) : Prop :=
  match r with
  | (t, .val v none) => exec i s = Safety.done s h len (loaded t d (f v))
  | (t, .val v (some _)) => exec i s = trappedAfter s h len 0x05 ea (loaded t d (f v))
  | (t, .fault c x) => exec i s = trapped s c x t
  | (t, .held) => exec i s = waits h (holdAt t t.cur 0 ea)
  | (_, .done) => True

/-- What a store of the control core leaves in `t`, whose access from the state `r` gave `u`: the low `n` bytes of `v` where it
lands, or where it is dropped a report of its address and nothing stored (R132, R388); and no register and no flag changes. -/
def StoreLeaves (s r u t : State) (sp : BitVec 2) (ea : DWord) (n v : Nat) : Prop :=
  (∀ t0 l, resolve r (cWho r) [] sp ea n .store = (t0, .ok l) → u.core.inflight.length = r.core.inflight.length →
    OtherBytes r t l n ∧ valueAt t l n = v % 256 ^ n) ∧
  (u.core.inflight.length ≠ r.core.inflight.length → ∃ code, t.core.inflight = r.core.inflight ++ [⟨code, ea⟩] ∧
    ((code = 0x06 ∧ OtherBytes r t (ringOf r r.cur) 4096) ∨ (code = 0x08 ∧ AllBytes r t))) ∧
  (∀ x, reg t x = reg s x) ∧ t.core.ctl.fflags = s.core.ctl.fflags ∧
  ∀ k, k ≠ s.cur → ∀ x, regGet (t.coreN k) x = regGet (s.coreN k) x

end Sys2Proof.Tables

/-- What an access does to memory and registers. A load's value is that of the bytes at the location its address resolves to,
and where no tag mismatches no byte changes; a store that is not dropped writes its low `n` bytes there and nothing else; an
atomic reads the old value and writes the new one, or nothing; no register changes (R127, R146, R224, R227). A store that is dropped
leaves a report of its address with 0x06, or with 0x08 where no path leads there, and stores nothing (R132, R388, R455); an access
that faults or is held stores nothing (R62, R225). What a mismatch and a read of poison write is the entry in the core's report ring
(R389). -/
def Obligations.AccessEffects : Prop :=
  ∀ (s t : State) (w : Who) (pins : List TlbEntry) (sp : BitVec 2) (ea : DWord) (n : Nat) (k : Kind),
    let ringOnly : Prop := OtherBytes s t (Tables.ringOf s w.core) 4096
    (∀ v tag, loadAt s w pins sp ea n k = (t, .val v tag) →
      (∃ t0 l, resolve s w pins sp ea n k = (t0, .ok l) ∧ v = valueAt s l n) ∧ (tag = none → AllBytes s t) ∧ ringOnly ∧
        SameControl s t) ∧
    (∀ f, storeAt s w pins sp ea n k f = (t, .done) → (t.coreN w.core).inflight.length = (s.coreN w.core).inflight.length →
      ∃ t0 l, resolve s w pins sp ea n k = (t0, .ok l) ∧ valueAt t l n = f (valueAt s l n) % 256 ^ n ∧ OtherBytes s t l n ∧
        SameControl s t) ∧
    (∀ f, storeAt s w pins sp ea n k f = (t, .done) → (t.coreN w.core).inflight.length ≠ (s.coreN w.core).inflight.length →
      ∃ code, (t.coreN w.core).inflight = (s.coreN w.core).inflight ++ [⟨code, ea⟩] ∧
        ((code = 0x06 ∧ ringOnly) ∨ (code = 0x08 ∧ AllBytes s t)) ∧ SameControl s t) ∧
    (∀ f op e x, loadAt s w pins sp ea n k = (t, .fault e x) ∨ storeAt s w pins sp ea n k f = (t, .fault e x) ∨
        amoAt s w pins sp ea n op = (t, .fault e x) →
      ringOnly ∧ (e ≠ 0x05 → e ≠ 0x07 → AllBytes s t) ∧ SameControl s t) ∧
    (∀ f op, loadAt s w pins sp ea n k = (t, .held) ∨ storeAt s w pins sp ea n k f = (t, .held) ∨
        amoAt s w pins sp ea n op = (t, .held) → AllBytes s t ∧ SameControl s t) ∧
    ∀ op v tag, amoAt s w pins sp ea n op = (t, .val v tag) →
      ∃ t0 l, resolve s w pins sp ea n .amo = (t0, .ok l) ∧ v = valueAt s l n ∧ SameControl s t ∧
        match op v with
        | some x => valueAt t l n = x % 256 ^ n ∧ OtherBytes s t l n
        | none => AllBytes s t

/-- `ld` and `ldn` of both encodings write the loaded value, sign- or zero-extended; a tag mismatch traps after the register is
written, a fault before any effect (R224 to R226). An acquire needs nothing more in this model (log 30). -/
def Sys2Proof.Parts.LoadResults : Prop :=
  ∀ (h : Hal) (d a : Reg) (sp sz : BitVec 2) (off : BitVec 6) (m : MemOrd) (s : State), Ready s h →
    (let ea := Tables.ciEa s a sp sz off
     let n := 2 ^ sz.toNat
     Tables.LoadOutcome s (.ld h d a sp sz off) h 4 d ea (Tables.cLoad s sp ea n) (Tables.sext n) ∧
     Tables.LoadOutcome s (.ldn h d a sp sz off) h 4 d ea (Tables.cLoad s sp ea n) (BitVec.ofNat 64)) ∧
    (let ea := Tables.ordEa s a m
     let n := 2 ^ m.size.toNat
     Tables.LoadOutcome s (.ldOrdered h d a m) h 8 d ea (Tables.cLoad s m.space ea n) (Tables.sext n) ∧
     Tables.LoadOutcome s (.ldnOrdered h d a m) h 8 d ea (Tables.cLoad s m.space ea n) (BitVec.ofNat 64))

/-- `st` of both encodings stores the low bytes of d; a fault takes effect before anything is stored, and a request that a byte
budget holds waits. A release at die scope or wider stores once the combining buffers are flushed, and waits while a byte budget holds
an entry of them (R62, R141, R224 to R226, R228). -/
def Sys2Proof.Parts.StoreResults : Prop :=
  ∀ (h : Hal) (d a : Reg) (sp sz : BitVec 2) (off : BitVec 6) (m : MemOrd) (s t : State), Ready s h →
    (let ea := Tables.ciEa s a sp sz off
     let r := Tables.cStore s sp ea (2 ^ sz.toNat) d
     (r = (t, .done) → exec (.st h d a sp sz off) s = Safety.done s h 4 (Tables.unheld t)) ∧
     (∀ c x, r = (t, .fault c x) → exec (.st h d a sp sz off) s = trapped s c x t) ∧
     (r = (t, .held) → exec (.st h d a sp sz off) s = waits h (holdAt t t.cur 0 ea))) ∧
    (let ea := Tables.ordEa s a m
     let r := Tables.cStore s m.space ea (2 ^ m.size.toNat) d
     let s' := Tables.relState m s
     (∀ u, r = (t, .done) → Tables.relOpen m s → Tables.cStore s' m.space (Tables.ordEa s' a m) (2 ^ m.size.toNat) d = (u, .done) →
       exec (.stOrdered h d a m) s = Safety.done s h 8 (Tables.unheld u)) ∧
     (r = (t, .done) → ¬ Tables.relOpen m s → exec (.stOrdered h d a m) s = waits h s') ∧
     (∀ u, r = (t, .done) → Tables.relOpen m s → Tables.cStore s' m.space (Tables.ordEa s' a m) (2 ^ m.size.toNat) d = (u, .held) →
       exec (.stOrdered h d a m) s = waits h (holdAt u u.cur 0 (Tables.ordEa s' a m))) ∧
     (∀ c x, r = (t, .fault c x) → exec (.stOrdered h d a m) s = trapped s c x t) ∧
     (r = (t, .held) → exec (.stOrdered h d a m) s = waits h (holdAt t t.cur 0 ea)))

/-- Loads and stores of both encodings with each outcome of their access (R224 to R226, R228). -/
def Obligations.LoadsAndStores : Prop := Parts.LoadResults ∧ Parts.StoreResults

/-- The frame of the stores of both encodings: every byte but the stored ones reads as before, at the address the store computes; a
store that a tag mismatch or a missing path drops stores nothing and leaves its report, a mismatch also its entry in the report ring;
the registers of every core and the flags are as before (R132, R224, R226, R388, R389). A release is framed from the state in which it
makes its write, after its flush (R141, R228). -/
def Obligations.StoreFrame : Prop :=
  ∀ (h : Hal) (d a : Reg) (sp sz : BitVec 2) (off : BitVec 6) (m : MemOrd) (s t u : State), Ready s h →
    (let ea := Tables.ciEa s a sp sz off
     let n := 2 ^ sz.toNat
     exec (.st h d a sp sz off) s = .next t → Tables.cStore s sp ea n d = (u, .done) →
       Tables.StoreLeaves s s u t sp ea n (reg s d).toNat) ∧
    ∀ v, let r := Tables.relState m s
      let ea := Tables.ordEa r a m
      let n := 2 ^ m.size.toNat
      exec (.stOrdered h d a m) s = .next t → Tables.cStore s m.space (Tables.ordEa s a m) n d = (v, .done) → Tables.relOpen m s →
        Tables.cStore r m.space ea n d = (u, .done) → Tables.StoreLeaves s r u t m.space ea n (reg s d).toNat

/-- Loads and stores of the core's own TCM and of its gang's scratchpad, from R126, R128 and R41 alone: an aligned address
within the allotment, on storage without poison, completes; a misaligned one traps with cause 0x02, one outside with 0x08. -/
def Obligations.LocalLoadStore : Prop :=
  ∀ (h : Hal) (d a : Reg) (sz : BitVec 2) (off : BitVec 6) (s : State), Ready s h → ∀ sp : BitVec 2, sp = 1 ∨ sp = 2 →
    let ea := reg s a + BitVec.ofInt 64 (off.toInt * 2 ^ sz.toNat)
    let n := 2 ^ sz.toNat
    let g := s.gangOf s.cur
    let bound := if sp = 2 then g.tcmBlocks * 4096 else g.spUnits * 127 * 32
    let l : Loc := if sp = 2 then .tcm s.cur ea.toNat else .spad (clusterOf s.cur) (g.spBase * 4064 + ea.toNat)
    (ea.toNat % n ≠ 0 → exec (.ld h d a sp sz off) s = trapped s 0x02 ea s ∧ exec (.st h d a sp sz off) s = trapped s 0x02 ea s) ∧
    (ea.toNat % n = 0 → bound ≤ ea.toNat →
      let x : DWord := if sp = 2 then ea else BitVec.ofNat 64 (ea.toNat / 32)
      exec (.ld h d a sp sz off) s = trapped s 0x08 x s ∧ exec (.st h d a sp sz off) s = trapped s 0x08 x s) ∧
    (ea.toNat % n = 0 → ea.toNat < bound →
      (locPoison s s.cur l = false →
        exec (.ld h d a sp sz off) s = Safety.done s h 4 (Tables.loaded s d (Tables.sext n (valueAt s l n))) ∧
        exec (.ldn h d a sp sz off) s = Safety.done s h 4 (Tables.loaded s d (BitVec.ofNat 64 (valueAt s l n)))) ∧
      ∃ t, exec (.st h d a sp sz off) s = Safety.done s h 4 t ∧ valueAt t l n = (reg s d).toNat % 256 ^ n ∧ OtherBytes s t l n ∧
        SameControl s t)

namespace Sys2Proof.Tables

/-- The operations of R146 on values of `w` bits, by their code; 9 to 11 are F32. -/
def amoNew (w : Nat) (op : Nat) (old b : BitVec w) : BitVec w :=
  match op with
  | 0 => b
  | 1 => old + b
  | 2 => old &&& b
  | 3 => old ||| b
  | 4 => old ^^^ b
  | 5 => if old.toInt < b.toInt then old else b
  | 6 => if b.toInt < old.toInt then old else b
  | 7 => if old.toNat < b.toNat then old else b
  | 8 => if b.toNat < old.toNat then old else b
  | 9 => BitVec.ofNat w (fAdd f32 old.toNat b.toNat).1
  | 10 => BitVec.ofNat w (fMinMax f32 false old.toNat b.toNat)
  | _ => BitVec.ofNat w (fMinMax f32 true old.toNat b.toNat)

end Sys2Proof.Tables

/-- `amo` writes op(old, b), `amocas` the new value where the compare holds and nothing where it fails; both write the old value
to d, sign-extended, and an access that faults takes no effect (R146, R227). One that writes as a release at die scope or wider
does so once the combining buffers are flushed, and waits while a byte budget holds an entry of them (R62, R141, R228). -/
def Obligations.AtomicResults : Prop :=
  ∀ (h : Hal) (d a b c : Reg) (op : BitVec 4) (m : MemOrd) (s t : State), Ready s h → m.size = 2 ∨ m.size = 3 → op.toNat < 12 →
    (9 ≤ op.toNat → m.size = 2) →
    let n := 2 ^ m.size.toNat
    let ea := Tables.ordEa s a m
    let x : BitVec (8 * n) := (reg s b).setWidth (8 * n)
    let y : BitVec (8 * n) := (reg s c).setWidth (8 * n)
    let r (s : State) := amoAt s (cWho s) [] m.space ea n fun old => some (Tables.amoNew (8 * n) op.toNat (BitVec.ofNat (8 * n) old) x).toNat
    let q (s : State) := amoAt s (cWho s) [] m.space ea n fun old => if old = x.toNat then some y.toNat else none
    let s' := Tables.relState m s
    let i : Instr := .amo h d a b op m
    let j : Instr := .amocas h d a b c m
    (∀ v v' u, r s = (t, .val v none) → Tables.relOpen m s → r s' = (u, .val v' none) →
      exec i s = Safety.done s h 8 (Tables.loaded u d (Tables.sext n v'))) ∧
    (∀ v, r s = (t, .val v none) → ¬ Tables.relOpen m s → exec i s = waits h s') ∧
    (∀ e z, r s = (t, .fault e z) → exec i s = trapped s e z t) ∧
    (∀ v, q s = (t, .val v none) → v ≠ x.toNat → exec j s = Safety.done s h 8 (Tables.loaded t d (Tables.sext n v))) ∧
    (∀ v' u, q s = (t, .val x.toNat none) → Tables.relOpen m s → q s' = (u, .val v' none) →
      exec j s = Safety.done s h 8 (Tables.loaded u d (Tables.sext n v'))) ∧
    (q s = (t, .val x.toNat none) → ¬ Tables.relOpen m s → exec j s = waits h s') ∧
    (∀ e z, q s = (t, .fault e z) → exec j s = trapped s e z t)

/-- `waitge` completes where (c − t) mod 2^32 < 2^31 for the value read and waits where not; a mismatching read traps at the
`waitge` itself. `fence` waits for reports on their way, reports the oldest, else completes (R154, R225, R229, R230): that it waits
for nothing else is the model's choice, whose accesses perform in order (log 30). -/
def Obligations.WaitAndFence : Prop :=
  ∀ (h : Hal) (a b : Reg) (m : MemOrd) (sc : BitVec 3) (s t : State), Ready s h →
    (let ea := Tables.ordEa s a m
     let r := Tables.cLoad s m.space ea 4
     let i : Instr := .waitge h a b m
     (∀ v, r = (t, .val v none) →
       if (v + 2 ^ 32 - (reg s b).toNat % 2 ^ 32) % 2 ^ 32 < 2 ^ 31 then exec i s = Safety.done s h 8 (Tables.unheld t)
       else exec i s = waits h (Tables.unheld t)) ∧
     (∀ v x, r = (t, .val v (some x)) → exec i s = trapped s 0x05 ea (Tables.unheld t)) ∧
     (∀ c x, r = (t, .fault c x) → exec i s = trapped s c x t)) ∧
    (s.core.inflight ≠ [] → exec (.fence h sc) s = waits h s) ∧
    (∀ r rs, s.core.inflight = [] → s.core.reports = r :: rs →
      exec (.fence h sc) s = reported s r (s.upd fun c => { c with reports := c.reports.filter fun x => x.code ≠ r.code })) ∧
    (s.core.inflight = [] → s.core.reports = [] → exec (.fence h sc) s = Safety.done s h 4 (s.upd cFenced))

/-! ### Synchronisation -/

/-- `barinit` and `barinit.cad` set E and the mode (and L), clear the arrivals and take Sₚ from the clock; the phase stays. An E
outside 1 to G, an L outside 1 to 65,535 and a barrier at or above the launch's barriers trap (R41, R232), in this order, which is the
model's choice (log 52). -/
def Sys2Proof.Parts.BarrierInit : Prop :=
  ∀ (h : Hal) (d a : Reg) (b : BitVec 4) (s : State), Ready s h →
    let g := s.gangOf s.cur
    let e := reg s a
    let l := reg s d
    let okE := 1 ≤ e.toNat ∧ e.toNat ≤ g.g
    let okL := 1 ≤ l.toNat ∧ l.toNat ≤ 65535
    let inB := b.toNat < g.barriers
    let v := { barGet g b with expected := e.toNat, arrivals := 0, start := s.clock }
    (okE → inB → exec (.barinit h a b) s = done s h 4 (barPut s b { v with cadence := false })) ∧
    (okE → okL → inB → exec (.barinitCad h d a b) s = done s h 4 (barPut s b { v with cadence := true, len := l.toNat })) ∧
    (¬ okE → exec (.barinit h a b) s = trapped s 0x01 e s ∧ exec (.barinitCad h d a b) s = trapped s 0x01 e s) ∧
    (okE → ¬ okL → exec (.barinitCad h d a b) s = trapped s 0x01 l s) ∧
    (okE → ¬ inB → exec (.barinit h a b) s = trapped s 0x08 (b.setWidth 64) s) ∧
    (okE → okL → ¬ inB → exec (.barinitCad h d a b) s = trapped s 0x08 (b.setWidth 64) s)

namespace Sys2Proof.Tables

/-- The state after the acting core's arrival at barrier `b` (R233): its wait point is the phase before; the arrival that brings
the count to E begins the next phase with no arrivals, and Sₚ is the clock (R153). -/
def arrived (s : State) (b : BitVec 4) : State :=
  let v := barGet (s.gangOf s.cur) b
  let t := s.upd fun c => wpPut c b (some v.phase)
  barPut t b (if v.expected ≤ v.arrivals + 1 then { v with arrivals := 0, phase := v.phase + 1, start := s.clock }
    else { v with arrivals := v.arrivals + 1 })
/-- Whether the acting core's wait at barrier `b` is over: no wait point, or a phase that differs from it (R233). -/
def waitOver (s : State) (b : BitVec 4) : Prop := wpGet s.core b ≠ some (barGet (s.gangOf s.cur) b).phase
/-- The state with the acting core's wait point at `b` cleared. -/
def waitCleared (s : State) (b : BitVec 4) : State :=
  match wpGet s.core b with
  | some _ => s.upd fun c => wpPut c b none
  | none => s
/-- Everything that step 1 of R152 waits for is there, and no deferred report is due (R388). -/
def quiet (s : State) : Prop := pendQuiet s.core = true ∧ s.core.reports = []

end Sys2Proof.Tables

/-- `bararr` is one arrival; `barwait` completes when its wait is over, clearing the wait point, and waits until then; a barrier
number beyond the launch's barriers traps (R41, R233). -/
def Sys2Proof.Parts.BarrierArrival : Prop :=
  ∀ (h : Hal) (b : BitVec 4) (s : State), Ready s h →
    let inB := b.toNat < (s.gangOf s.cur).barriers
    (inB → exec (.bararr h b) s = done s h 4 (Tables.arrived s b)) ∧
    (inB → Tables.waitOver s b → exec (.barwait h b) s = done s h 4 (Tables.waitCleared s b)) ∧
    (inB → ¬ Tables.waitOver s b → exec (.barwait h b) s = waits h s) ∧
    (¬ inB → exec (.bararr h b) s = trapped s 0x08 (b.setWidth 64) s ∧ exec (.barwait h b) s = trapped s 0x08 (b.setWidth 64) s)

/-- A `pend` on a counted barrier, and a `pend.cad` whose cadence has elapsed, complete at once on a core that has nothing in
flight, no report and nothing to flush, where its arrival is the last of the phase: the next phase begins with no arrivals, Sₚ is
the clock, the core has no wait point and counts no miss, and no register and no byte changes (R151 to R153, R233, R234). -/
def Sys2Proof.Parts.PendCompletes : Prop :=
  ∀ (h : Hal) (b : BitVec 4) (s : State), Ready s h → s.core.ctl.pendArrived = false →
    let v := barGet (s.gangOf s.cur) b
    b.toNat < (s.gangOf s.cur).barriers → v.expected ≤ v.arrivals + 1 → Tables.quiet s → (∀ e ∈ s.recs, e.core ≠ s.cur) →
      let after (t : State) : Prop := barGet (t.gangOf s.cur) b = { v with arrivals := 0, phase := v.phase + 1, start := s.clock } ∧
        wpGet t.core b = none ∧ t.core.ctl.cadTested = false ∧ t.core.ctl.pendArrived = false ∧ t.core.cadMiss = s.core.cadMiss ∧
        (∀ r, reg t r = reg s r) ∧ AllBytes s t
      (v.cadence = false → ∃ t, exec (.pend h b) s = done s h 4 t ∧ after t) ∧
      (v.cadence = true → v.start.toNat + v.len ≤ s.clock.toNat → ∃ t, exec (.pendCad h b) s = done s h 4 t ∧ after t)

/-- Barriers are set up, arrived at and waited for, and phases end at them (R41, R151 to R153, R232 to R234; the order of the checks of `barinit` is the model's choice, log 52). -/
def Obligations.GangBarriers : Prop := Parts.BarrierInit ∧ Parts.BarrierArrival ∧ Parts.PendCompletes

/-- `pend` on a counted barrier flushes, waits until its core is quiet, reports, arrives, and completes with the phase; after
its arrival it only waits. The other mode of barrier is illegal (R151, R152, R234). -/
def Sys2Proof.Parts.PendResults : Prop :=
  ∀ (h : Hal) (b : BitVec 4) (s : State), Ready s h →
    let f := flushAll s s.cur
    let inB := b.toNat < (s.gangOf s.cur).barriers
    let v := barGet (s.gangOf s.cur) b
    let w := barGet (f.gangOf s.cur) b
    (s.core.ctl.pendArrived = false → inB → v.cadence = false → Tables.quiet f → w.expected ≤ w.arrivals + 1 →
      exec (.pend h b) s = done s h 4 (withCtl (Tables.waitCleared (Tables.arrived f b) b) fun k => { k with cadTested := false })) ∧
    (s.core.ctl.pendArrived = false → inB → v.cadence = false → Tables.quiet f → w.arrivals + 1 < w.expected →
      exec (.pend h b) s = waits h (withCtl (Tables.arrived f b) fun k => { k with pendArrived := true, cadTested := false })) ∧
    (s.core.ctl.pendArrived = false → inB → v.cadence = false → pendQuiet f.core = false → exec (.pend h b) s = waits h f) ∧
    (∀ r rs, s.core.ctl.pendArrived = false → inB → v.cadence = false → pendQuiet f.core = true → f.core.reports = r :: rs →
      exec (.pend h b) s = reported s r (f.upd fun c => { c with reports := c.reports.filter fun x => x.code ≠ r.code })) ∧
    (s.core.ctl.pendArrived = false → inB → v.cadence = true → exec (.pend h b) s = trapped s 0x01 (b.setWidth 64) s) ∧
    (s.core.ctl.pendArrived = true → Tables.waitOver s b →
      exec (.pend h b) s = done s h 4 (withCtl (Tables.waitCleared s b) fun k => { k with pendArrived := false })) ∧
    (s.core.ctl.pendArrived = true → ¬ Tables.waitOver s b → exec (.pend h b) s = waits h s)

/-- `pend.cad` waits until `%clock` ≥ Sₚ + L, makes its one test, counting a miss where its core is not quiet, and then goes on
as `pend`, before its arrival and after it; a counted barrier is illegal (R151, R153, R234). That its buffers are flushed before the
wait already is the model's choice (log 53). -/
def Sys2Proof.Parts.PendCadResults : Prop :=
  ∀ (h : Hal) (b : BitVec 4) (s : State), Ready s h →
    let f := flushAll s s.cur
    let v := barGet (s.gangOf s.cur) b
    let w := barGet (f.gangOf s.cur) b
    let inB := b.toNat < (s.gangOf s.cur).barriers
    (s.core.ctl.pendArrived = true → Tables.waitOver s b →
      exec (.pendCad h b) s = done s h 4 (withCtl (Tables.waitCleared s b) fun k => { k with pendArrived := false })) ∧
    (s.core.ctl.pendArrived = true → ¬ Tables.waitOver s b → exec (.pendCad h b) s = waits h s) ∧
    (s.core.ctl.pendArrived = false → ¬ inB → exec (.pendCad h b) s = trapped s 0x08 (b.setWidth 64) s ∧
      exec (.pend h b) s = trapped s 0x08 (b.setWidth 64) s) ∧
    (s.core.ctl.pendArrived = false → inB →
    (v.cadence = false → exec (.pendCad h b) s = trapped s 0x01 (b.setWidth 64) s) ∧
    (v.cadence = true → s.clock.toNat < v.start.toNat + v.len → exec (.pendCad h b) s = waits h f) ∧
    (v.cadence = true → v.start.toNat + v.len ≤ s.clock.toNat → s.core.ctl.cadTested = true → Tables.quiet f →
      w.expected ≤ w.arrivals + 1 →
      exec (.pendCad h b) s = done s h 4 (withCtl (Tables.waitCleared (Tables.arrived f b) b) fun k => { k with cadTested := false })) ∧
    (v.cadence = true → v.start.toNat + v.len ≤ s.clock.toNat → s.core.ctl.cadTested = true → Tables.quiet f →
      w.arrivals + 1 < w.expected →
      exec (.pendCad h b) s = waits h (withCtl (Tables.arrived f b) fun k => { k with pendArrived := true, cadTested := false })) ∧
    (v.cadence = true → v.start.toNat + v.len ≤ s.clock.toNat → s.core.ctl.cadTested = true → pendQuiet f.core = false →
      exec (.pendCad h b) s = waits h f) ∧
    (∀ r rs, v.cadence = true → v.start.toNat + v.len ≤ s.clock.toNat → s.core.ctl.cadTested = true → pendQuiet f.core = true →
      f.core.reports = r :: rs →
      exec (.pendCad h b) s = reported s r (f.upd fun c => { c with reports := c.reports.filter fun x => x.code ≠ r.code })) ∧
    (v.cadence = true → v.start.toNat + v.len ≤ s.clock.toNat → s.core.ctl.cadTested = false → pendQuiet f.core = false →
      ∃ t, exec (.pendCad h b) s = waits h t ∧ t.core.cadMiss = s.core.cadMiss + 1 ∧ t.core.ctl.cadTested = true) ∧
    (v.cadence = true → v.start.toNat + v.len ≤ s.clock.toNat → s.core.ctl.cadTested = false → Tables.quiet f →
      ∃ t, t.core.cadMiss = s.core.cadMiss ∧ t.core.ctl.cadTested = false ∧ (∀ r, reg t r = reg s r) ∧
        (w.expected ≤ w.arrivals + 1 → exec (.pendCad h b) s = done s h 4 t ∧ wpGet t.core b = none ∧
          t.core.ctl.pendArrived = false ∧
          barGet (t.gangOf s.cur) b = { w with arrivals := 0, phase := w.phase + 1, start := s.clock }) ∧
        (w.arrivals + 1 < w.expected → exec (.pendCad h b) s = waits h t ∧ wpGet t.core b = some w.phase ∧
          t.core.ctl.pendArrived = true ∧ barGet (t.gangOf s.cur) b = { w with arrivals := w.arrivals + 1 })) ∧
    (∀ r rs, v.cadence = true → v.start.toNat + v.len ≤ s.clock.toNat → s.core.ctl.cadTested = false → pendQuiet f.core = true →
      f.core.reports = r :: rs → ∃ t, exec (.pendCad h b) s = reported s r t ∧ t.core.cadMiss = s.core.cadMiss ∧
        t.core.reports = f.core.reports.filter fun x => x.code ≠ r.code))

/-- `pend` and `pend.cad` (R151 to R153, R234; the flush before the cadence wait is the model's choice, log 53). -/
def Obligations.PendInstructions : Prop := Parts.PendResults ∧ Parts.PendCadResults

/-- `tkwait` waits while the slot is busy, then takes a report or completes; `tkpoll` reads 1 for a busy slot and 0 for an idle
one; a slot at or above the launch's tokens traps (R57, R235). A slot counts as busy from its producer's commit (log 11). -/
def Obligations.TokenResults : Prop :=
  ∀ (h : Hal) (d : Reg) (t : BitVec 5) (s : State), Ready s h →
    let inT := t.toNat < (s.gangOf s.cur).tokens
    (¬ inT → exec (.tkwait h t) s = trapped s 0x08 (t.setWidth 64) s ∧ exec (.tkpoll h d t) s = trapped s 0x08 (t.setWidth 64) s) ∧
    (inT → exec (.tkpoll h d t) s = done s h 4 (wrote s d (if slotBusy s.core t = true then 1 else 0))) ∧
    (inT → slotBusy s.core t = true → exec (.tkwait h t) s = waits h s) ∧
    (inT → slotBusy s.core t = false → s.core.inflight = [] → s.core.reports = [] → exec (.tkwait h t) s = done s h 4 s) ∧
    (∀ r rs, inT → slotBusy s.core t = false → s.core.inflight = [] → s.core.reports = r :: rs →
      exec (.tkwait h t) s = reported s r (s.upd fun c => { c with reports := c.reports.filter fun x => x.code ≠ r.code }))

/-! ### Vector interface, inboxes, arrival interrupt, environment -/

/-- `vstart` starts a halted vector engine at s[a], its address checked first, and waits for one that runs (R236); `vsync` waits
until the engine is halted and has no other effect (R238). -/
def Sys2Proof.Parts.VectorStart : Prop :=
  ∀ (h : Hal) (a : Reg) (s : State), Ready s h →
    let t := reg s a
    let halted := s.core.vec.halted = true ∧ s.core.vec.cv = none
    (t.toNat % 8 ≠ 0 → exec (.vstart h a) s = trapped s 0x02 t s) ∧
    (t.toNat % 8 = 0 → 2 ^ 56 ≤ t.toNat → exec (.vstart h a) s = trapped s 0x08 t s) ∧
    (t.toNat % 8 = 0 → t.toNat < 2 ^ 56 → halted → exec (.vstart h a) s = done s h 4
      (s.upd fun c => c.updVec fun v => { v with pc := t.setWidth 56, halted := false, paid := [], img := some s.mem, imgFenced := none })) ∧
    (t.toNat % 8 = 0 → t.toNat < 2 ^ 56 → ¬ halted → exec (.vstart h a) s = waits h s) ∧
    (halted → exec (.vsync h) s = done s h 4 s) ∧ (¬ halted → exec (.vsync h) s = waits h s)

/-- `vpush` appends s[a] to the C-to-V queue, `vpop` removes the oldest entry of the V-to-C queue into d; a full and an empty
queue stall (R48, R237). -/
def Sys2Proof.Parts.CrossQueues : Prop :=
  ∀ (h : Hal) (d a : Reg) (s : State), Ready s h →
    (s.core.c2v.length < 8 → exec (.vpush h a) s = done s h 4 (s.upd fun c => { c with c2v := c.c2v ++ [reg s a] })) ∧
    (8 ≤ s.core.c2v.length → exec (.vpush h a) s = waits h s) ∧
    (∀ x xs, s.core.v2c = x :: xs → exec (.vpop h d) s = done s h 4 (wrote (s.upd fun c => { c with v2c := xs }) d x)) ∧
    (s.core.v2c = [] → exec (.vpop h d) s = waits h s)

/-- `inpop` removes the oldest entry of its inbox and writes bytes 8k to 8k + 7 of it into s[d + k]; an empty inbox makes it
wait. `inpeek` reads the number of entries (R239). -/
def Sys2Proof.Parts.InboxResults : Prop :=
  ∀ (h : Hal) (d : Reg) (b : BitVec 4) (s : State), Ready s h →
    (∀ x xs, inboxGet s.core b.toNat = x :: xs → 4 ≤ d.toNat → d.toNat % 4 = 0 →
      ∃ t, exec (.inpop h d b) s = done s h 4 t ∧ inboxGet t.core b.toNat = xs ∧
        (∀ k, k < 4 → reg t (d + BitVec.ofNat 6 k) = x.extractLsb' (64 * k) 64) ∧
        (∀ r, (∀ k, k < 4 → r ≠ d + BitVec.ofNat 6 k) → reg t r = reg s r) ∧
        ∀ j, j ≠ b.toNat → inboxGet t.core j = inboxGet s.core j) ∧
    (inboxGet s.core b.toNat = [] → exec (.inpop h d b) s = waits h s) ∧
    exec (.inpeek h d b) s = done s h 4 (wrote s d (BitVec.ofNat 64 (inboxGet s.core b.toNat).length))

/-- The control core starts and waits for its vector engine, and moves entries through the cross queues and the inboxes (R236 to R239). -/
def Obligations.EngineInterface : Prop := Parts.VectorStart ∧ Parts.CrossQueues ∧ Parts.InboxResults

/-- `aiset` arms the handler and the mask after the checks of R240 in their order, and clears the pending bits it disarms. -/
def Sys2Proof.Parts.ArrivalSet : Prop :=
  ∀ (h : Hal) (a b : Reg) (s : State), Ready s h →
    let t := reg s a
    let m := reg s b
    let i : Instr := .aiset h a b
    let ok1 := t.toNat % 4 = 0
    let ok2 := t.toNat < 2 ^ 56
    let ok3 := m.toNat < 2 ^ 48
    let bad (k : Nat) : Prop := k < 32 ∧ m.getLsbD (16 + k) = true ∧ (s.gangOf s.cur).tokens ≤ k
    (¬ ok1 → exec i s = trapped s 0x02 t s) ∧ (ok1 → ¬ ok2 → exec i s = trapped s 0x08 t s) ∧
    (ok1 → ok2 → ¬ ok3 → exec i s = trapped s 0x01 m s) ∧
    (∀ k, ok1 → ok2 → ok3 → bad k → (∀ j, j < k → ¬ bad j) → exec i s = trapped s 0x08 (BitVec.ofNat 64 k) s) ∧
    (ok1 → ok2 → ok3 → (∀ k, ¬ bad k) → exec i s = done s h 4 (withCtl s fun k =>
      { k with arrHandler := t.setWidth 56, arrMask := m.setWidth 48, arrPend := if t = 0 then 0 else k.arrPend &&& m.setWidth 48 }))

/-- `aret` leaves the handler: the PC is the arrival return address and `s56` to `s63` are the main registers again; outside the
handler it is illegal (R242). That it counts as a taken control transfer for fetch, after which fenced stores are seen, and leaves no
transfer record in a trace are the model's choices (logs 82, 49). -/
def Sys2Proof.Parts.ArrivalReturn : Prop :=
  ∀ (h : Hal) (s : State), Ready s h →
    (s.core.ctl.inHandler = false → exec (.aret h) s = trapped s 0x01 (encWord (.aret h)) s) ∧
    (s.core.ctl.inHandler = true →
      exec (.aret h) s = .next (finish (withCtl s fun k => { k with inHandler := false, staleFenced := [] }) h s.core.ctl.arrRet))

/-- `ecall` with `s63` = 0 begins the exit of the rank; any other service traps to the runtime with cause 0x0E after it (R243).
Service 0x2 also writes its message (log 13), so it has its own clause. That a core without a task begins its exit too is the model's
choice (log 57). -/
def Sys2Proof.Parts.EcallResults : Prop :=
  ∀ (h : Hal) (s : State), Ready s h →
    let v := reg s 63
    (v = 0 → exec (.ecall h) s = .next (s.upd fun c => (takeOnce c h).updCtl fun k => { k with exiting := true, took := some h })) ∧
    (v ≠ 0 → v ≠ 2 → exec (.ecall h) s = trappedAfter s h 4 0x0E v s) ∧
    (v = 2 → ∃ t, exec (.ecall h) s = trappedAfter s h 4 0x0E v t ∧ t.cores = s.cores)

/-- `ebreak` traps with cause 0x0F, `%tval` 0, at itself; claimed by the debugger it first freezes the cluster (R244, R447).
`pause` waits 64 aclk, or until the aclk after an event that ends it: an arrival (of an inbox's entry among them, O53), a token slot
that becomes idle, an increment of counter 1 or 8 (R245). -/
def Sys2Proof.Parts.BreakAndPause : Prop :=
  ∀ (h : Hal) (s : State), Ready s h →
    let claimed := (s.dbgOf (clusterOf s.cur)).claim.getLsbD (s.cur % 24) = true
    ((¬ claimed ∨ s.core.ebrkAt = some s.core.ctl.pc) →
      exec (.ebreak h) s = trapped s 0x0F 0 (s.upd fun c => c.setEbrk none)) ∧
    (claimed → s.core.ebrkAt ≠ some s.core.ctl.pc → (s.dbgOf (clusterOf s.cur)).frozen = false →
      (s.dbgOf (clusterOf s.cur)).pending = false → ∃ t, exec (.ebreak h) s = waits h t ∧
        (t.dbgOf (clusterOf s.cur)).pending = true ∧ (t.dbgOf (clusterOf s.cur)).reason = 4 ∧ t.core.ctl = s.core.ctl) ∧
    (s.core.ctl.pauseEnd = none → exec (.pause h) s = waits h (withCtl s fun k => { k with pauseEnd := some (s.clock + 64) })) ∧
    (∀ e, s.core.ctl.pauseEnd = some e → e.toNat ≤ s.clock.toNat →
      exec (.pause h) s = done s h 4 (withCtl s fun k => { k with pauseEnd := none })) ∧
    (∀ e, s.core.ctl.pauseEnd = some e → s.clock.toNat < e.toNat → exec (.pause h) s = waits h s) ∧
    ∀ (clk e : DWord) (c : Core) (n : Nat), c.ctl.pauseEnd = some e → clk + 1 < e →
      (arrive clk c n).ctl.pauseEnd = some (clk + 1) ∧ (tokIdle clk c n).ctl.pauseEnd = some (clk + 1) ∧
      (n = 1 ∨ n = 8 → halGet c n < 63 → (signalOne clk c n).ctl.pauseEnd = some (clk + 1))

/-- The arrival interrupt is armed and left (R240, R242; the transfer that `aret` is and has no record of is the model's choice, logs
82 and 49); environment calls, breakpoints and pauses (R243 to R245; the exit of a core without a task is the model's choice, log 57). -/
def Obligations.ArrivalAndEnvironment : Prop := Parts.ArrivalSet ∧ Parts.ArrivalReturn ∧ Parts.EcallResults ∧ Parts.BreakAndPause

/-! ### Control registers -/

/-- An access that the table of R117 or R357 refuses traps: cause 0x08 for a register above the privilege, else 0x01; one to a
register of the vector engine waits until the engine is quiescent; else `kget` reads, and `kset`, `kbis` and `kbic` write the
value, the OR and the AND-NOT (R117, R118, R246). -/
def Obligations.ControlAccess : Prop :=
  ∀ (h : Hal) (d : Reg) (k : BitVec 10) (s : State), Ready s h →
    let n := k.toNat
    let v := kRead s s.cur n
    let w := fun x => kWrite s s.cur n x
    ∀ (i : Instr) (f : KForm) (t : State),
      (i, f, t) ∈ [((.kget h d k : Instr), KForm.get, wrote s d v), (.kset h d k, .set, w (reg s d)),
        (.kbis h d k, .bis, w (v ||| reg s d)), (.kbic h d k, .bic, w (v &&& ~~~(reg s d)))] →
      let priv := s.core.ctl.priv
      let low := (0x200 ≤ n ∧ priv = 0) ∨ (0x300 ≤ n ∧ priv ≠ 2)
      (low → exec i s = trapped s 0x08 (encWord i) s) ∧
      (¬ low → f ∉ kForms n → exec i s = trapped s 0x01 (encWord i) s) ∧
      (¬ low → f ∈ kForms n → 0x010 ≤ n → n ≤ 0x016 → vecQuiet s.core = false → exec i s = waits h s) ∧
      (¬ low → f ∈ kForms n → ¬ (0x010 ≤ n ∧ n ≤ 0x016) ∨ vecQuiet s.core = true → exec i s = done s h 4 t)

namespace Sys2Proof.Tables

/-- The control registers whose writable fields read back, with those fields (R83, R119 to R125, R357 to R360, R476). -/
def readBack : List (Nat × DWord) := [
  (0x000, 0x3F), (0x012, 0x3FFF), (0x014, BitVec.allOnes 64), (0x015, BitVec.allOnes 64), (0x016, 0x1FFFFF),
  (0x202, 0x00FFFFFFFFFFFFFF), (0x203, BitVec.allOnes 64), (0x204, 0x00FFFFFFFFFFFFFC), (0x205, BitVec.allOnes 64),
  (0x206, BitVec.allOnes 64), (0x207, 0x03FFFFFFFFFFFFFF), (0x208, 0x00FFFFFFFFFFFFFF), (0x210, 0x0007FFFF000FFFFF),
  (0x211, 0x0007FFFF000FFFFF), (0x212, 0x0007FFFF000FFFFF), (0x213, 0x0007FFFF000FFFFF), (0x303, 0x000FFFFFFFFFF000),
  (0x304, BitVec.allOnes 64)]

end Sys2Proof.Tables

/-- A control register reads the writable fields last written and zero in its reserved bits; a write changes no other register
of the table, no memory and no scalar register (R117, R357). -/
def Sys2Proof.Parts.PlainRegisters : Prop :=
  ∀ p ∈ Tables.readBack, ∀ (s : State) (v : DWord),
    let t := kWrite s s.cur p.1 v
    kRead t s.cur p.1 = v &&& p.2 ∧ (∀ q ∈ Tables.readBack, q.1 ≠ p.1 → kRead t s.cur q.1 = kRead s s.cur q.1) ∧
    (∀ r, reg t r = reg s r) ∧ AllBytes s t

/-- `%status` takes nest, and ppriv but for the value 3, and keeps the privilege (R358); `%cause` takes the code, and src but for the
values 6 and 7 (R359); a write of `%event` clears the bits written as 1 (R360); bit 0 of `%lctl` makes the mark that bit 1 reads (R45).
No other register of the table changes. -/
def Sys2Proof.Parts.PartialRegisters : Prop :=
  ∀ (s : State) (v : DWord),
    let old (k : Nat) := kRead s s.cur k
    let new (k : Nat) := kRead (kWrite s s.cur k v) s.cur k
    new 0x200 = (old 0x200 &&& 3) ||| (v &&& 0x10) ||| ((if v &&& 0xC = 0xC then old 0x200 else v) &&& 0xC) ∧
    new 0x201 = ((if v &&& 0xC000 = 0xC000 then old 0x201 else v) &&& 0xE000) ||| (v &&& 0xFF) ∧
    new 0x209 = old 0x209 &&& ~~~v ∧
    new 0x002 = (if v.getLsbD 0 = true then 2 else old 0x002) ∧
    ∀ k, k = 0x200 ∨ k = 0x201 ∨ k = 0x209 ∨ k = 0x002 →
      (∀ j, j = 0x200 ∨ j = 0x201 ∨ j = 0x209 ∨ j = 0x002 → j ≠ k → kRead (kWrite s s.cur k v) s.cur j = old j) ∧
      (∀ q ∈ Tables.readBack, kRead (kWrite s s.cur k v) s.cur q.1 = old q.1) ∧
      (∀ r, reg (kWrite s s.cur k v) r = reg s r) ∧ AllBytes s (kWrite s s.cur k v)

/-- What the control registers read after a write (R45, R117, R357 to R360, R476). -/
def Obligations.ControlReadBack : Prop := Parts.PlainRegisters ∧ Parts.PartialRegisters

/-! ### Posted instructions -/

namespace Sys2Proof.Tables

/-- A posted instruction may be posted to engine `e` (R20, R53, R356): no mark above task privilege, no held increment of the
control core, room in the queue (64 entries for the grid engine, 16 for the others). -/
def MayPost (s : State) (h : Hal) (e : Nat) : Prop :=
  (s.core.ctl.priv = 0 ∨ h = 0) ∧ heldGet s.core 9 = 0 ∧ heldGet s.core 0 = 0 ∧
    (queueOf s.core e).length < if e = 2 then 64 else 16

/-- Posting `i` with its registers: where every commit check passes it stands at the tail of the queue of engine `e`, the PC
moves on by 8, and nothing else changes; where one fails, the first in the order of R250 traps with no effect. -/
def Posting (s : State) (i : Instr) (h : Hal) (e : Nat) (d a b : Reg) (checks : List Check250) : Prop :=
  (s.core.ctl.priv = 0 ∨ h = 0) →
    (∀ c v, firstFail checks = some (c, v) → exec i s = trapped s c v s) ∧
    (firstFail checks = none → MayPost s h e → exec i s = .next (posted s i e d a b)) ∧
    (firstFail checks = none → ¬ MayPost s h e → exec i s = .next (stall s))

/-- The engine `e` can take up an instruction that is posted now: it has none before it, it is not stopped or held, and the waits of
the nibble `h` are there for it (R49 to R53, R177). -/
def MayWork (s : State) (h : Hal) (e : Nat) : Prop :=
  MayPost s h e ∧ engOk s.core = true ∧ queueOf s.core e = [] ∧ heldBack s.core e = false ∧ waitsOk s.core e h = true
/-- `n` bytes at an address of the core's own TCM, in whole units of `z` bytes; an allotment has at most 256 blocks (R34, R41, R126). -/
def inTcm (s : State) (ea n z : Nat) : Prop :=
  ea % z = 0 ∧ 1 ≤ n ∧ ea + n ≤ (s.gangOf s.cur).tcmBlocks * 4096 ∧ (s.gangOf s.cur).tcmBlocks ≤ 256
/-- The next `k` positions of a walk, in bytes or larger elements that have no scale, all lie in the core's own TCM (R254). -/
def walksTcm (s : State) (r : StreamReg) (k : Nat) : Prop :=
  r.sp = 2 ∧ fmtScaled r.fmt = false ∧ 8 ≤ fmtBits r.fmt ∧ r.pos < r.total ∧ s.core.tcmPoison = [] ∧
    ∀ i, i < k → inTcm s (r.addr ((r.pos + i) % r.total)).1.toNat (fmtBytes r.fmt) (fmtBytes r.fmt)
/-- The value at the `i`th of those positions. -/
def walkVal (s : State) (r : StreamReg) (i : Nat) : Nat :=
  valueAt s (.tcm s.cur (r.addr ((r.pos + i) % r.total)).1.toNat) (fmtBytes r.fmt)

/-- The value `v` must have only the bits of a mask. -/
def onlyBits (v : DWord) (m : DWord) : Check250 := chk (v &&& ~~~m != 0) 0x01 v

end Sys2Proof.Tables

/-- The stream group is posted to the stream engine once its operands pass: addresses of the right form, counts 1 to 65,535,
strides of 48 signed bits, a mask without reserved bits and within the gang, a walk position below 2^48, a `qstat` destination
aligned to 16 bytes and in range, views within the grid, and slots within the launch's (R250, R256 to R261). The order of the
operands inside a check is the model's choice (log 21). -/
def Sys2Proof.Parts.StreamPosting : Prop :=
  ∀ (h : Hal) (d a b : Reg) (n fmt : BitVec 4) (sp ssp j tgt : BitVec 2) (k : Bool) (t : BitVec 5) (s : State),
    let x := reg s d
    let y := reg s a
    let z := reg s b
    Tables.Posting s (.qbase h a b n sp ssp) h 1 0 a b [formOnly s sp y, if b = 0 then none else formOnly s ssp z] ∧
    Tables.Posting s (.qdim h d a b n j k) h 1 d a b
      [chk (y.toNat == 0 || decide (65535 < y.toNat)) 0x01 y,
       chk ((z.setWidth 48).signExtend 64 != z) 0x01 z, chk ((x.setWidth 48).signExtend 64 != x) 0x01 x] ∧
    Tables.Posting s (.qstart h a n) h 1 0 a 0 [Tables.onlyBits y 0x0000FFFFFFFFFFFF] ∧
    Tables.Posting s (.qstop h n) h 1 0 0 0 [] ∧
    Tables.Posting s (.qstat h a n sp t) h 1 0 a 0 [chk (y.toNat % 16 != 0) 0x02 y, rangeCheck s sp y 16, slotCheck s t] ∧
    Tables.Posting s (.qfmt h a n fmt tgt) h 1 0 a 0
      [Tables.onlyBits y 0xFFFFFF, chk (tgt != 0 && y != 0) 0x01 y,
       ((List.range 24).find? fun r => y.getLsbD r && decide ((s.gangOf s.cur).g ≤ r)).map fun r => (0x08, BitVec.ofNat 64 r)] ∧
    (∀ (sa sb : QSrc) (na nb : BitVec 3),
      Tables.Posting s (.qfill h a sa sb na nb) h 1 0 a 0 [Tables.onlyBits y 0xFFFFFFFF, rankCheck s sa, rankCheck s sb]) ∧
    (∀ v : BitVec 8, Tables.Posting s (.qrow h a n v) h 1 0 a 0 [chk (y.toNat == 0 || decide (256 < v.toNat + y.toNat)) 0x01 y]) ∧
    ∀ (col cvt tke : Bool) (idx : BitVec 9) (mode : BitVec 2) (sc : BitVec 3),
      Tables.Posting s (.qstore h a n col idx cvt mode t sc tke) h 1 0 a 0
        [chk (y.toNat == 0 || decide ((if col then 384 else 256) < idx.toNat + y.toNat)) 0x01 y, if tke then slotCheck s t else none]

/-- The grid group is posted to the grid engine; the count of a `gupd` is below 2^32 (R250, R263 to R267). -/
def Sys2Proof.Parts.GridPosting : Prop :=
  ∀ (h : Hal) (a : Reg) (s : State),
    (∀ (fa fb : BitVec 4) (half : BitVec 2),
      Tables.Posting s (.gupd h a fa fb half) h 2 0 a 0 [Tables.onlyBits (reg s a) 0xFFFFFFFF]) ∧
    (∀ v n : BitVec 8, Tables.Posting s (.gclr h v n) h 2 0 0 0 [] ∧ Tables.Posting s (.gdone h v n) h 2 0 0 0 []) ∧
    (∀ (c : BitVec 9) (r : BitVec 7), Tables.Posting s (.glim h c r) h 2 0 0 0 []) ∧ Tables.Posting s (.gchk h) h 2 0 0 0 []

namespace Sys2Proof.Tables

/-- The copy group with its functions (R271). -/
def copies : List ((Hal → Reg → Reg → Reg → CopyF → Instr) × XOp) := [
  (.xcopy, .copy), (.xfill, .fill), (.xtag, .tag), (.xtagrd, .tagrd), (.xgath, .gath), (.xscat, .scat), (.xsadd, .sadd),
  (.xbcast, .bcast), (.xred, .red), (.xenq, .enq)]

end Sys2Proof.Tables

/-- The copy group is posted to the copy engine once the checks of R250 pass; `xpref` has no destination (R268, R271 to R276).
The order within check 1 is the model's choice (log 21). -/
def Sys2Proof.Parts.CopyPosting : Prop :=
  ∀ (h : Hal) (d a b : Reg) (f : CopyF) (s : State),
    let checks (op : XOp) (x : DWord) : List Check250 := [xCheck op f s x (reg s a) (reg s b) (reg s (a + 1))]
    (∀ p ∈ Tables.copies, Tables.Posting s (p.1 h d a b f) h 4 d a b (checks p.2 (reg s d))) ∧
    Tables.Posting s (.xpref h a b f) h 4 0 a b (checks .pref 0)

/-- The first check of an `xcopy` that fails decides its trap: bits of the count register that mean nothing without a record, a
scaled format with one, elements that do not fill the count, and a count that is no multiple of 8, with cause 0x01; then
destination and source alignment with 0x02; then ranges and slots with 0x08 (R250, R269, R271). The order inside a check is the
model's choice (log 21). -/
def Sys2Proof.Parts.CopyChecks : Prop :=
  ∀ (f : CopyF) (s : State) (d a b a1 : DWord),
    let n := (b.extractLsb' 0 40).toNat
    let ctl := b.extractLsb' 40 24
    let fmt := b.extractLsb' 40 4
    let tokens := (s.gangOf s.cur).tokens
    let answer := xCheck .copy f s d a b a1
    let fills : Prop := if f.rb = true then fmtScaled fmt = false ∧ 8 * n % fmtBits fmt = 0 else ctl = 0
    (f.rb = false → ctl ≠ 0 → answer = some (0x01, b)) ∧
    (f.rb = true → fmtScaled fmt = true → answer = some (0x01, b)) ∧
    (f.rb = true → fmtScaled fmt = false → 8 * n % fmtBits fmt ≠ 0 → answer = some (0x01, b)) ∧
    (fills → n % 8 ≠ 0 → answer = some (0x01, b)) ∧
    (fills → n % 8 = 0 → d.toNat % 8 ≠ 0 → answer = some (0x02, d)) ∧
    (fills → n % 8 = 0 → d.toNat % 8 = 0 → a.toNat % 8 ≠ 0 → answer = some (0x02, a)) ∧
    (fills → n % 8 = 0 → d.toNat % 8 = 0 → a.toNat % 8 = 0 →
      (∀ e, rangeCheck s f.dsp d n = some e → answer = some e) ∧
      (∀ e, rangeCheck s f.dsp d n = none → rangeCheck s f.ssp a n = some e → answer = some e) ∧
      (rangeCheck s f.dsp d n = none → rangeCheck s f.ssp a n = none →
        answer = (([f.pt, f.c1, f.c2, f.c3].find? fun t => decide (tokens ≤ t.toNat)).map fun t => (0x08, BitVec.ofNat 64 t.toNat))))

/-! ### Statistics -/

/-- `stbind` is placed in the stream queue and its nibble acts at the control core; `stflush` sends and applies the core's
entries, all or those of one record, and waits while a byte budget holds one of them (R62); `starm` writes bits [25:20], [17:16]
and [8:0] of the config word (R169, R278 to R282). That a `starm` is dropped and reported with 0x08, as a write, where no route leads to
the record (R455) is the model's choice (log 75), and so is that entries apply as they are sent (log 30). -/
def Sys2Proof.Parts.StatisticsResults : Prop :=
  ∀ (h : Hal) (a b : Reg) (n : BitVec 4) (s : State), Ready s h →
    let v := reg s a
    (v.toNat < 2 ^ 21 → s.core.str.queue.length < 16 → exec (.stbind h a n) s = done s h 8
      (s.upd fun c => pushQueue c 1 { instr := .stbind h a n, a := v, pc := s.core.ctl.pc, waited := true })) ∧
    (2 ^ 21 ≤ v.toNat → exec (.stbind h a n) s = trapped s 0x01 v s) ∧
    (let f := flushAll s s.cur
     (combEmpty f.core = true → exec (.stflush h a true) s = done s h 8 f) ∧
     (combEmpty f.core = false → exec (.stflush h a true) s = waits h f)) ∧
    (∀ pa, v.toNat < 2 ^ 20 → recAddr s.core (v.setWidth 20) = some pa →
      (let own (_ : Nat) (e : Comb) : Bool := e.id == v.setWidth 20
       let f := flushComb s s.cur own
       (combClear f.core own = true → exec (.stflush h a false) s = done s h 8 f) ∧
       (combClear f.core own = false → exec (.stflush h a false) s = waits h f)) ∧
      (armOk (reg s b) = true →
        (usable s (dieOf s.cur) pa = true → counted s s.cur = false → ∃ t, exec (.starm h a b) s = done s h 8 t ∧
          recConfig t pa = (recConfig s pa &&& ~~~(0x03F301FF : BitVec 32)) ||| ((reg s b).setWidth 32 &&& 0x03F301FF) ∧
          OtherBytes s t (.phys pa 0) 128 ∧ SameControl s t) ∧
        (usable s (dieOf s.cur) pa = false → exec (.starm h a b) s = done s h 8 (report s s.cur 0x08 v)))) ∧
    (v.toNat < 2 ^ 20 → recAddr s.core (v.setWidth 20) = none → exec (.stflush h a false) s = trapped s 0x08 v s)

/-- `stread` copies the 128 bytes of a record to memory, the record as it stood; `streset` then clears it: the values to zero,
the generation one on, bit 31 of the config word cleared (R168, R281). Here the destination is the core's own TCM, the record can be
read, and no byte budget counts. -/
def Sys2Proof.Parts.RecordReads : Prop :=
  ∀ (h : Hal) (a b : Reg) (s : State) (pa : Nat), Ready s h →
    let ea := reg s a
    let v := reg s b
    v.toNat < 2 ^ 20 → recAddr s.core (v.setWidth 20) = some pa → ea.toNat % 8 = 0 →
    ea.toNat + 128 ≤ (s.gangOf s.cur).tcmBlocks * 4096 → ea.toNat + 128 ≤ 2 ^ 64 → recBad s s.cur pa = false →
    counted s s.cur = false →
      (∃ t, exec (.stread h a b 2) s = done s h 8 t ∧ (∀ i, i < 128 → memGet t.core.tcm (ea.toNat + i) = memGet s.mem (pa + i)) ∧
        t.mem = s.mem ∧ SameControl s t) ∧
      ∃ t, exec (.streset h a b 2) s = done s h 8 t ∧ (∀ i, i < 128 → memGet t.core.tcm (ea.toNat + i) = memGet s.mem (pa + i)) ∧
        (∀ i, i < 16 ∨ (32 ≤ i ∧ i < 128) → memGet t.mem (pa + i) = 0) ∧
        memRd t.mem (pa + 16) 4 = (memRd s.mem (pa + 16) 4 + 1) % 2 ^ 32 ∧
        recConfig t pa = recConfig s pa &&& 0x7FFFFFFF ∧ SameControl s t

/-- The statistics instructions (R168, R169, R278 to R282; a `starm` without a route is the model's choice, log 75). -/
def Obligations.Statistics : Prop := Parts.StatisticsResults ∧ Parts.RecordReads

/-! ### Traps, returns and system instructions -/

namespace Sys2Proof.Tables

/-- The system instructions (R367). -/
def system (h : Hal) (a b : Reg) (sc : BitVec 2) : List Instr :=
  [.eret h, .wfi h, .tlbinv h sc a b, .tlbflush h sc a, .ctxsave h a b, .ctxload h a, .ctxwait h a, .halt h a b]

end Sys2Proof.Tables

/-- At task privilege every instruction of major 0x3F traps with cause 0x08 and its encoding, and has no other effect (R367). -/
def Sys2Proof.Parts.SystemTraps : Prop :=
  ∀ (h : Hal) (a b : Reg) (sc : BitVec 2) (s : State), s.core.ctl.priv = 0 →
    ∀ i ∈ Tables.system h a b sc, exec i s = trapped s 0x08 (encWord i) s

/-- Above task privilege each has its effect (R367): `wfi` completes with an event pending (R369); `tlbinv` and `tlbflush` complete
where nothing in flight holds a pin and no trace a page (R374, R386), and leave no translation they name in the core's structures;
`ctxsave` of a task's own slot begins its save, `ctxload` of a good slot gives a core without a task its rank, `ctxwait` reads the
status of an idle context engine (R371). `wfi`, `tlbinv` and `tlbflush` change no register and no byte, and `ctxsave` no register. That
the slot of a `ctxload` names its own task is the model's choice (log 14). -/
def Sys2Proof.Parts.SystemCompletes : Prop :=
  ∀ (h : Hal) (a b d : Reg) (sc : BitVec 2) (s : State), Ready s h → s.core.ctl.priv ≠ 0 →
    let n := s.cur
    let x := reg s a
    let w := reg s b
    let noPins : Prop := n < 192 ∧ (∀ m, (s.coreN m).cpy.flight = [] ∧ (s.coreN m).vec.cv = none) ∧ ∀ k, (s.dbgOf k).trcPins = []
    (s.core.ctl.event ≠ 0 → exec (.wfi h) s = done s h 4 s) ∧
    (w.toNat < 2 ^ 10 → noPins → ∃ t, exec (.tlbinv h sc a b) s = done s h 4 t ∧
      (∀ y ∈ t.core.tlb, y ∈ s.core.tlb ∧ y.covers (w.setWidth 10) (x.extractLsb' 0 56).toNat = false) ∧
      (∀ r, reg t r = reg s r) ∧ AllBytes s t) ∧
    (x.toNat < 2 ^ 10 → noPins → ∃ t, exec (.tlbflush h sc a) s = done s h 4 t ∧
      (∀ y ∈ t.core.tlb, y ∈ s.core.tlb ∧ y.asid ≠ x.setWidth 10) ∧ (∀ r, reg t r = reg s r) ∧ AllBytes s t) ∧
    (∀ g r, x.toNat % 4096 = 0 → slotOwner s x.toNat = some (g, r) →
      (w.toNat < 2 → (s.gangN g).asid = s.core.asid → s.core.hasTask = true → s.core.ctxOp = none →
        ∃ t, exec (.ctxsave h a b) s = done s h 4 t ∧ t.core.ctxOp = some (x.toNat, true, decide (w.toNat = 1)) ∧
          (∀ r, reg t r = reg s r) ∧ denRd t (x.toNat + 7) 1 = 1) ∧
      (s.core.hasTask = false → s.core.ctxOp = none → slotOk s x.toNat (s.gangN g).asid (s.gangN g).tcmBlocks = true →
        ∃ t, exec (.ctxload h a) s = done s h 4 t ∧ t.core.gang = g ∧ t.core.ctl.priv = s.core.ctl.priv ∧
          t.core.ctl.sup = s.core.ctl.sup ∧ t.core.ctl.event.getLsbD 3 = true ∧ t.core.ctxStat.getLsbD 0 = true ∧
          t.core.ctxStat.getLsbD 1 = false)) ∧
    (s.core.ctxOp = none → exec (.ctxwait h d) s = done s h 4 (wrote s d s.core.ctxStat))

/-- The system instructions trap at task privilege and have their effects above it (R367, R369, R371, R374). -/
def Obligations.SystemPrivilege : Prop := Parts.SystemTraps ∧ Parts.SystemCompletes

namespace Sys2Proof.Tables

/-- The reason, the state and the latches of a gang whose stop has just been requested (R410). -/
def Stopping (s t : State) (g : Nat) (why : StopWhy) : Prop :=
  (t.gangN g).life = .stopping ∧ (t.gangN g).why = some why ∧ (t.gangN g).reqClock = s.clock ∧
    ∀ n ∈ (s.gangN g).cores, (t.coreN n).latched = true ∧ (t.coreN n).ctl.event.getLsbD (if why = .cancel then 2 else 1) = true

end Sys2Proof.Tables

/-- Taking a trap at task privilege, or at supervisor privilege with nest set, saves the PC given, the value and the cause, puts
the privilege in ppriv, enters supervisor privilege with nest clear at `%tvec`, and leaves every register as it is; a V-stream
trap also saves the C-stream's PC (R364). -/
def Sys2Proof.Parts.TrapEntrySaves : Prop :=
  ∀ (s : State) (n : Nat) (src : BitVec 3) (code : BitVec 8) (epc : VAddr) (tval : DWord) (pf : Option DWord),
    let k := (s.coreN n).ctl
    (k.priv = 0 ∨ (k.priv = 1 ∧ k.nest = true)) →
      let t := (takeTrap s n src code epc tval pf)
      let j := (t.coreN n).ctl
      j.epc = epc ∧ j.tval = tval ∧ j.csrc = src ∧ j.ccode = code ∧ j.ppriv = k.priv ∧ j.priv = 1 ∧ j.nest = false ∧
      j.pc = k.tvec ++ (0 : BitVec 2) ∧ j.vtrec = (if src = 1 then k.pc else k.vtrec) ∧ j.pfrec = pf.getD k.pfrec ∧
      j.s = k.s ∧ j.sup = k.sup ∧ j.shadow = k.shadow ∧ j.fflags = k.fflags ∧ j.loops = k.loops ∧ j.inHandler = k.inHandler ∧
      ∀ m, m ≠ n → t.coreN m = s.coreN m

/-- A trap at supervisor privilege with nest clear, and one at firmware privilege, is not delivered: the trap registers keep
their values, and a core without a task stops until core reset; a core with one stops and its gang's stop latches, for the end of a
faulted task (R365). Here no freeze holds the request back, and no other has latched before it. -/
def Sys2Proof.Parts.DoubleTrap : Prop :=
  ∀ (s : State) (n : Nat) (src : BitVec 3) (code : BitVec 8) (epc : VAddr) (tval : DWord) (pf : Option DWord),
    let k := (s.coreN n).ctl
    ((k.priv = 1 ∧ k.nest = false) ∨ k.priv = 2) →
      let t := takeTrap s n src code epc tval pf
      let j := (t.coreN n).ctl
      j.epc = k.epc ∧ j.tval = k.tval ∧ j.csrc = k.csrc ∧ j.ccode = k.ccode ∧ j.ppriv = k.ppriv ∧ j.priv = k.priv ∧
      (k.priv = 2 ∨ (s.coreN n).hasTask = false → j.waitReset = true) ∧
      (k.priv = 1 → (s.coreN n).hasTask = true → (t.coreN n).run = .stopped ∧
        ((s.gangOf n).life = .resident → (s.gangOf n).why = none → gangHeld s (s.gangOf n) = false →
          Tables.Stopping s t (s.gid n) .faulted) ∧
        ∀ l, smFind s.launches (s.gangOf n).launch = some l → ∃ u, smFind t.launches (s.gangOf n).launch = some u ∧ u.faulted = true)

/-- Taking a trap, and the trap that cannot be taken (R364, R365). -/
def Obligations.TrapEntry : Prop := Parts.TrapEntrySaves ∧ Parts.DoubleTrap

/-- `eret` returns to the privilege in ppriv at `%epc`; for a V-stream trap of a task it gives the vector engine `%epc` and the
C-stream `%vtrec`; for a posted fault of a task the engine that `%pfrec` names goes on, at the index there; ppriv becomes 0 and no
register changes. A misaligned address traps before any effect (R368). What the index counts is read from the engines' own records
(DEDUCED, log 55), and that `eret` leaves no transfer record in a trace is the model's choice (log 49). Where a request of the gang has
latched, a return to task privilege is followed by the stop (R366, R411); while a `ctxsave` of the handler is being written it waits
first, the model's choice (log 58). -/
def Obligations.EretRestores : Prop :=
  ∀ (h : Hal) (s : State), Ready s h → s.core.ctl.priv ≠ 0 →
    let k := s.core.ctl
    let c := s.core
    let vs := k.ppriv = 0 ∧ k.csrc = 1
    let bad (p : VAddr) (n : Nat) : Prop := p.toNat % n ≠ 0
    let fine : Prop := (vs → ¬ bad k.vtrec 4 ∧ ¬ bad k.epc 8) ∧ (¬ vs → ¬ bad k.epc 4)
    let idx := (k.pfrec.extractLsb' 0 48).toNat
    let posted (e : Nat) : Prop := k.ppriv = 0 ∧ 2 ≤ k.csrc.toNat ∧ k.csrc.toNat ≤ 4 ∧ (k.pfrec.extractLsb' 55 3).toNat = e
    (vs → bad k.vtrec 4 → exec (.eret h) s = trapped s 0x02 (k.vtrec.setWidth 64) s) ∧
    (vs → ¬ bad k.vtrec 4 → bad k.epc 8 → exec (.eret h) s = trapped s 0x02 (k.epc.setWidth 64) s) ∧
    (¬ vs → bad k.epc 4 → exec (.eret h) s = trapped s 0x02 (k.epc.setWidth 64) s) ∧
    ((c.hasTask = false ∨ k.ppriv ≠ 0 ∨ c.latched = false) → fine →
      ∃ t, exec (.eret h) s = .next t ∧ t.core.ctl.priv = k.ppriv ∧ t.core.ctl.ppriv = 0 ∧
        t.core.ctl.pc = (if k.ppriv = 0 ∧ k.csrc = 1 then k.vtrec else k.epc) ∧
        (vs → t.core.vec.pc = k.epc ∧ t.core.vec.trapped = false) ∧ (¬ vs → t.core.vec = c.vec) ∧
        t.core.ctl.s = k.s ∧ t.core.ctl.sup = k.sup ∧ t.core.ctl.fflags = k.fflags ∧ t.core.ctl.nest = k.nest ∧ AllBytes s t ∧
        (posted 2 → t.core.str.stopped = false ∧ ∀ p l q, c.str.queue = p :: l → p.fault = some q →
          (∀ h a n sp tk, p.instr = .qstat h a n sp tk → t.core.str.queue = { p with fault := none, prog := idx } :: l) ∧
          ((∀ h a n sp tk, p.instr ≠ .qstat h a n sp tk) → (smGet {} t.core.str.q q).pos = idx)) ∧
        (posted 3 → t.core.grd.stopped = false ∧ ∀ p l q h a fa fb half, c.grd.queue = p :: l → p.fault = some q →
          p.instr = .gupd h a fa fb half → t.core.grd.queue = { p with fault := none, prog := idx } :: l) ∧
        (posted 4 → t.core.cpy.stopped = false ∧ t.core.cpy.flight = c.cpy.flight.map fun f =>
          if f.stopped = true then { f with stopped := false, k := idx, chunk := idx, noted := none } else f) ∧
        (¬ posted 2 → t.core.str = c.str) ∧ (¬ posted 3 → t.core.grd = c.grd) ∧ (¬ posted 4 → t.core.cpy = c.cpy)) ∧
    (c.hasTask = true → k.ppriv = 0 → c.latched = true → fine →
      ((s.gangOf s.cur).why ≠ some .ctxsave → ∃ t, exec (.eret h) s = .next t ∧ t.core.run = .stopped ∧ t.core.ctl.priv = 0 ∧
        t.core.ctl.ppriv = 0 ∧ t.core.ctl.pc = (if k.csrc = 1 then k.vtrec else k.epc) ∧ t.core.ctl.s = k.s ∧ t.core.ctl.sup = k.sup ∧
        AllBytes s t) ∧
      ((s.gangOf s.cur).why = some .ctxsave → c.ctxOp ≠ none → exec (.eret h) s = waits h s))

/-- `wfi` completes while a bit of `%event` is set and waits until then; `tlbinv` and `tlbflush` complete once no cached
translation they name is left in the scope, no pin and no trace page of one held (R369, R374, R386). -/
def Sys2Proof.Parts.WaitAndDiscard : Prop :=
  ∀ (h : Hal) (sc : BitVec 2) (a b : Reg) (s : State), Ready s h → s.core.ctl.priv ≠ 0 →
    (s.core.ctl.event ≠ 0 → exec (.wfi h) s = done s h 4 s) ∧ (s.core.ctl.event = 0 → exec (.wfi h) s = waits h s) ∧
    (let w := reg s b
     let names (t : TlbEntry) : Bool := t.covers (w.setWidth 10) ((reg s a).extractLsb' 0 56).toNat
     (2 ^ 10 ≤ w.toNat → exec (.tlbinv h sc a b) s = trapped s 0x01 w s) ∧
     (w.toNat < 2 ^ 10 → (∀ n, pinHeld (s.coreN n) names = false) → (∀ k, (s.dbgOf k).trcPins.any names = false) →
       ∃ t, exec (.tlbinv h sc a b) s = done s h 4 t ∧ (∀ n ∈ scopeCores s.cur sc, (t.coreN n).tlb.any names = false) ∧
         SameControl s t ∧ AllBytes s t)) ∧
    (let w := reg s a
     let names (t : TlbEntry) : Bool := w.getLsbD 10 || t.asid == w.setWidth 10
     (w.toNat < 2 ^ 10 ∨ w.toNat = 2 ^ 10 → (∀ n, pinHeld (s.coreN n) names = false) → (∀ k, (s.dbgOf k).trcPins.any names = false) →
       ∃ t, exec (.tlbflush h sc a) s = done s h 4 t ∧ (∀ n ∈ scopeCores s.cur sc, (t.coreN n).tlb.any names = false) ∧
         SameControl s t ∧ AllBytes s t) ∧
     (2 ^ 10 < w.toNat → exec (.tlbflush h sc a) s = trapped s 0x01 w s))

/-- `ctxsave` begins the save of its core into the slot named and stops the gang as for a pre-emption (R410; that a `ctxsave` latches
the stop, and when, is the model's choice, log 58), `ctxload` loads a good slot into a core
without a task, `ctxwait` waits for the engine and reads its status; misaligned, foreign and wrong slots trap (R371). The owner
of the slot of a `ctxload` is the slot's own (log 14). -/
def Sys2Proof.Parts.ContextInstructions : Prop :=
  ∀ (h : Hal) (a b d : Reg) (s : State), Ready s h → s.core.ctl.priv ≠ 0 →
    let x := reg s a
    let w := reg s b
    (2 ≤ w.toNat → exec (.ctxsave h a b) s = trapped s 0x01 w s) ∧
    (w.toNat < 2 → x.toNat % 4096 ≠ 0 → exec (.ctxsave h a b) s = trapped s 0x02 x s) ∧
    (x.toNat % 4096 ≠ 0 → exec (.ctxload h a) s = trapped s 0x02 x s) ∧
    (x.toNat % 4096 = 0 → slotOwner s x.toNat = none →
      exec (.ctxload h a) s = trapped s 0x08 x s ∧ (w.toNat < 2 → exec (.ctxsave h a b) s = trapped s 0x08 x s)) ∧
    (∀ g r, w.toNat < 2 → x.toNat % 4096 = 0 → slotOwner s x.toNat = some (g, r) →
      ((s.gangN g).asid ≠ s.core.asid ∨ s.core.hasTask = false → exec (.ctxsave h a b) s = trapped s 0x08 x s) ∧
      ((s.gangN g).asid = s.core.asid → s.core.hasTask = true → s.core.ctxOp ≠ none → exec (.ctxsave h a b) s = waits h s) ∧
      ((s.gangN g).asid = s.core.asid → s.core.hasTask = true → s.core.ctxOp = none →
        exec (.ctxsave h a b) s =
          done s h 4 (saveBegin (latchGang s (s.gid s.cur) .ctxsave) s.cur x.toNat (decide (w.toNat = 1)))) ∧
      (s.core.hasTask = true → exec (.ctxload h a) s = trapped s 0x08 x s)) ∧
    (∀ g r, x.toNat % 4096 = 0 → slotOwner s x.toNat = some (g, r) → s.core.hasTask = false → s.core.ctxOp = none →
      ∃ t, exec (.ctxload h a) s = done s h 4 t ∧ t.core.ctl.event.getLsbD 3 = true ∧
        (slotOk s x.toNat (s.gangN g).asid (s.gangN g).tcmBlocks = false → t.core.ctxStat = 3 ∧ t.gangs = s.gangs ∧ t.mem = s.mem) ∧
        (slotOk s x.toNat (s.gangN g).asid (s.gangN g).tcmBlocks = true → t.core.gang = g ∧ t.core.asid = BitVec.ofNat 10 (memRd s.mem (x.toNat + 0x1000 + 0x3A8) 8))) ∧
    (s.core.ctxOp = none → exec (.ctxwait h d) s = done s h 4 (wrote s d s.core.ctxStat)) ∧
    (s.core.ctxOp ≠ none → exec (.ctxwait h d) s = waits h s)

/-- Waiting for an event, discarding translations, and saving and loading a context (R369, R371, R374, R410; the stop of the gang by `ctxsave` and the owner of a slot are the model's choices, logs 58 and 14). -/
def Obligations.SystemInstructions : Prop := Parts.WaitAndDiscard ∧ Parts.ContextInstructions

/-- `halt` at firmware privilege stops the core until core reset where both fields name `s0`, and is illegal else; at supervisor
privilege the value 0 frees a core without a task and ends the rank of one with a task once its engines are done (an exit that a
stop puts off is owed), 1 ends a task as faulted, 2 a saved one as saved, and another value is illegal (R370). That the exit completes
even while a stop is latched, where the engines are done, is the model's choice (log 56). -/
def Obligations.HaltResults : Prop :=
  ∀ (h : Hal) (a b : Reg) (s : State), Ready s h →
    let x := reg s a
    let k := s.core.ctl
    (k.priv = 2 → exec (.halt h 0 0) s = .next (withCtl s fun k => { k with waitReset := true })) ∧
    (k.priv = 2 → a ≠ 0 ∨ b ≠ 0 → exec (.halt h a b) s = trapped s 0x01 (reg s (if a = 0 then b else a)) s) ∧
    (k.priv = 1 → x = 0 → k.ppriv = 0 → s.core.hasTask = false → exec (.halt h a b) s = .next (freeCore s s.cur)) ∧
    (k.priv = 1 → x = 0 → k.ppriv = 0 → s.core.hasTask = true →
      (exitReady s.core = true → (∀ e ∈ s.recs, e.core ≠ s.cur) → exec (.halt h a b) s = .next (completeExit s s.cur)) ∧
      (exitIdle s.core = false → s.core.latched = false → exec (.halt h a b) s = waits h s) ∧
      (exitIdle s.core = false → s.core.latched = true → exec (.halt h a b) s =
        .next (stopCore (s.upd fun c => (returned c).updCtl fun t => { t with exitOwed := true }) s.cur))) ∧
    (k.priv = 1 → x = 0 → k.ppriv ≠ 0 → exec (.halt h a b) s = trapped s 0x08 x s) ∧
    (k.priv = 1 → x = 1 → s.core.hasTask = true → exec (.halt h a b) s =
      .next (faultTask (faultRecord s s.cur k.ccode k.csrc false k.epc k.tval k.pfrec (reg s b)) s.cur)) ∧
    (k.priv = 1 → x = 1 ∨ x = 2 → s.core.hasTask = false → exec (.halt h a b) s = trapped s 0x08 x s) ∧
    (k.priv = 1 → x = 2 → s.core.hasTask = true → s.core.savedAt = some (reg s b).toNat →
      exec (.halt h a b) s = .next (settleSaved (stopCore (s.updGang (s.gid s.cur) (yieldPeriod k)) s.cur) (s.gid s.cur))) ∧
    (k.priv = 1 → 2 < x.toNat → exec (.halt h a b) s = trapped s 0x01 x s)

/-- A turn of the copy engine writes the fill value to each unit of its chunk, up to 512 bytes, and to no other byte (R270, R271,
R384). Here the destination is the core's own TCM and nothing is noted for a record. -/
def Sys2Proof.Parts.CopyFill : Prop :=
  ∀ (n : Nat) (s : State) (fl : Flight) (h : Hal) (d a b : Reg) (f : CopyF),
    fl.p.instr = .xfill h d a b f → f.dsp = 2 → f.rb = false → fl.got = none → fl.k < fl.chunk → fl.chunk ≤ fl.k + 64 → fl.p.d.toNat % 8 = 0 →
    fl.p.d.toNat + 8 * fl.chunk ≤ (s.gangOf n).tcmBlocks * 4096 → fl.p.d.toNat + 8 * fl.chunk < 2 ^ 64 →
      let t := flWork s n fl
      (∀ e, fl.k ≤ e → e < fl.chunk → valueAt t (.tcm n (fl.p.d.toNat + 8 * e)) 8 = fl.p.a.toNat) ∧
      OtherBytes s t (.tcm n (fl.p.d.toNat + 8 * fl.k)) (8 * (fl.chunk - fl.k)) ∧ SameControl s t

/-- The posted instructions of the stream, the grid and the copy engine are checked at commit and posted (R250, R256 to R276; the order inside one check is the model's choice, log 21); a fill is carried out (R271). -/
def Obligations.PostedInstructions : Prop := Parts.StreamPosting ∧ Parts.GridPosting ∧ Parts.CopyPosting ∧ Parts.CopyChecks ∧ Parts.CopyFill

/-! ### The V-stream: arithmetic -/

namespace Sys2Proof.Tables

/-- An operation on float formats for the types 0 and 1, and on integers for 2 and 3 (R191). -/
def byType (t : BitVec 2) (w : Nat) (fl : FFmt → Nat × Flags) (int : Nat) : Nat × Flags :=
  if t = 0 ∨ t = 1 then fl (vFmt t w) else (int, 0)
/-- A compare under a type, as 0 or 1 with its flags (R304). -/
def cmpBy (t : BitVec 2) (rel : Nat) (holds : Int → Int → Bool) (w a b : Nat) : Nat × Flags :=
  if t = 0 ∨ t = 1 then ((if (fCmp (vFmt t w) rel a b).1 then 1 else 0), (fCmp (vFmt t w) rel a b).2)
  else (if holds (if t = 2 then toS w a else (a : Int)) (if t = 2 then toS w b else (b : Int)) then 1 else 0, 0)

/-- The element-wise instructions with a type, and what each makes of elements a and b of its sources and d of its destination
at width w (R299 to R301, R304). -/
def typedOps : List ((BitVec 2 → VF → Instr) × (BitVec 2 → Nat → Nat → Nat → Nat → Nat × Flags)) := [
  (.vadd, fun t w a b _ => byType t w (fun g => fAdd g a b) ((a + b) % 2 ^ w)),
  (.vsub, fun t w a b _ => byType t w (fun g => fSub g a b) ((a + 2 ^ w - b) % 2 ^ w)),
  (.vmul, fun t w a b _ => byType t w (fun g => fMul g a b) (a * b % 2 ^ w)),
  (.vfma, fun t w a b d => fFma (vFmt t w) a b d),
  (.vmin, fun t w a b _ => byType t w (fun g => (fMinMax g false a b, 0))
    (if t = 2 then (if toS w b < toS w a then b else a) else min a b)),
  (.vmax, fun t w a b _ => byType t w (fun g => (fMinMax g true a b, 0))
    (if t = 2 then (if toS w a < toS w b then b else a) else max a b)),
  (.vabs, fun t w a _ _ => byType t w (fun g => (vSign g false a, 0)) ((toS w a).natAbs % 2 ^ w)),
  (.vneg, fun t w a _ _ => byType t w (fun g => (vSign g (!g.neg a) a, 0)) ((2 ^ w - a) % 2 ^ w)),
  (.vrcp, fun t w a _ _ => transc .rcp (vFmt t w) a), (.vrsqrt, fun t w a _ _ => transc .rsqrt (vFmt t w) a),
  (.vsqrt, fun t w a _ _ => transc .sqrt (vFmt t w) a), (.vexp2, fun t w a _ _ => transc .exp2 (vFmt t w) a),
  (.vlog2, fun t w a _ _ => transc .log2 (vFmt t w) a), (.vsig, fun t w a _ _ => transc .sig (vFmt t w) a),
  (.vtanh, fun t w a _ _ => transc .tanh (vFmt t w) a), (.vsilu, fun t w a _ _ => transc .silu (vFmt t w) a),
  (.vcmpEq, fun t w a b _ => cmpBy t 0 (fun x y => x == y) w a b),
  (.vcmpLt, fun t w a b _ => cmpBy t 1 (fun x y => decide (x < y)) w a b),
  (.vcmpLe, fun t w a b _ => cmpBy t 2 (fun x y => decide (x ≤ y)) w a b),
  (.vcmpNe, fun t w a b _ => cmpBy t 3 (fun x y => x != y) w a b)]

/-- The element-wise instructions without a type: logic, shifts by b mod w, mask logic on bit 0, and the move (R303, R306,
R314). -/
def plainOps : List ((VF → Instr) × (Nat → Nat → Nat → Nat)) := [
  (.vand, fun _ a b => a &&& b), (.vor, fun _ a b => a ||| b), (.vxor, fun _ a b => a ^^^ b),
  (.vshl, fun w a b => a * 2 ^ (b % w) % 2 ^ w), (.vshr, fun w a b => a / 2 ^ (b % w)),
  (.vsra, fun w a b => ofS w (toS w a / (2 ^ (b % w) : Nat))),
  (.vmlogAnd, fun _ a b => a % 2 * (b % 2)), (.vmlogOr, fun _ a b => max (a % 2) (b % 2)), (.vmlogXor, fun _ a b => (a + b) % 2),
  (.vmlogAndn, fun _ a b => a % 2 * (1 - b % 2)), (.vmove, fun _ a _ => a)]

/-- Element `k` of the old destination. -/
def oldD (c : Core) (f : VF) (k : Nat) : Nat := match f.d with | .view v => elemGet c.grd v (vSew c) k | _ => 0
/-- An element-wise member: each active element of the run takes what `op` makes of its sources (R293). -/
def lanes (i : Instr) (f : VF) (op : Nat → Nat → Nat → Nat → Nat × Flags) (c : Core) (cv : Convoy) : Core × Convoy :=
  mapMember i f (fun c cv k => op (vSew c) (srcElem c cv (vSew c) f.a k) (srcElem c cv (vSew c) f.b k) (oldD c f k)) c cv
/-- The member answers a core and a convoy. -/
def Gives (s : State) (i : Instr) (r : Core × Convoy) : Prop := exec i s = ran s r.1 r.2
/-- The convoy after a drawing member (R78). -/
def drewIf (b : Prop) [Decidable b] (c : Core) (cv : Convoy) : Convoy :=
  if b then { cv with rngctr := cv.rngctr + BitVec.ofNat 64 c.vec.vl } else cv

end Sys2Proof.Tables

/-- The element-wise arithmetic, compares, logic, mask logic and move complete as members of the convoy in flight, each active
element of the run taking the result of R299 to R306 or R314. That `vexp2`, `vlog2`, `vsig`, `vtanh` and `vsilu` round a value
computed to 256 fraction bits, in place of the exact one, is the model's choice (R301, log 12). -/
def Obligations.VectorArithmetic : Prop :=
  (∀ p ∈ Tables.typedOps, ∀ (t : BitVec 2) (f : VF) (s : State) (cv : Convoy), Running s (p.1 t f) cv →
    Tables.Gives s (p.1 t f) (Tables.lanes (p.1 t f) f (p.2 t) s.core cv)) ∧
  ∀ p ∈ Tables.plainOps, ∀ (f : VF) (s : State) (cv : Convoy), Running s (p.1 f) cv →
    Tables.Gives s (p.1 f) (Tables.lanes (p.1 f) f (fun w a b _ => (p.2 w a b, 0)) s.core cv)

/-- What an element-wise member leaves: each element of the run in the fragment holds its result where the mask selects it, all
ones where it does not and the mask policy is agnostic, and keeps its bits else; the tail positions from the run's first element
on, in its range or past it for the last run, are all ones under an agnostic tail policy (those below a `%vstart` that software sets
past the count stay: the model's choice, log 78); every other element keeps its bits; the flags gain those of the active elements; nothing else of the core
changes (R95, R102 to R104, R293). -/
def Sys2Proof.Parts.VectorElements : Prop :=
  ∀ (i : Instr) (f : VF) (op : Core → Convoy → Nat → Nat × Flags) (c : Core) (cv : Convoy) (v : View), f.d = .view v →
    let bits := (vWidths (vSew c) i).1
    let n := vCount c i f
    let m := vMax c bits v
    let r := mapMember i f op c cv
    let old := elemGet c.grd v bits
    let run (k : Nat) : Prop := cv.lo ≤ k ∧ k < cv.hi ∧ k < n
    n ≤ m →
      (∀ k, run k → inFrag c k = true → maskSel c i f k = true → elemGet r.1.grd v bits k = (op c cv k).1 % 2 ^ bits) ∧
      (∀ k, run k → inFrag c k = true → maskSel c i f k = false →
        elemGet r.1.grd v bits k = if f.maskAgn then 2 ^ bits - 1 else old k) ∧
      (∀ k, run k → inFrag c k = false → elemGet r.1.grd v bits k = old k) ∧
      (∀ k, n ≤ k → k < m → elemGet r.1.grd v bits k =
        if f.tailAgn = true ∧ cv.lo ≤ k ∧ (cv.last = true ∨ k < cv.hi) then 2 ^ bits - 1 else old k) ∧
      (∀ k, k < n → ¬ run k → elemGet r.1.grd v bits k = old k) ∧
      (∀ x y, y < 384 → (∀ k, k < m → (x, y) ≠ ((elemPlace v bits k).1, (elemPlace v bits k).2.1)) → cellGet r.1.grd x y = cellGet c.grd x y) ∧
      (∀ b, r.2.flags.getLsbD b = true ↔ cv.flags.getLsbD b = true ∨
        ∃ k, run k ∧ isActive c i f k = true ∧ (op c cv k).2.getLsbD b = true) ∧
      r.1 = { c with grd := r.1.grd } ∧ r.2 = { cv with flags := r.2.flags }

/-- A source that is an e-register gives every element its low bits, one that is an immediate its value sign-extended to the
width (R292). -/
def Sys2Proof.Parts.SourceOperands : Prop :=
  ∀ (c : Core) (cv : Convoy) (w k : Nat), w = 8 ∨ w = 16 ∨ w = 32 →
    (∀ v, srcElem c cv w (.view v) k = elemGet c.grd v w k) ∧
    (∀ n, srcElem c cv w (.ereg n) k = ((eregGet cv.e n).setWidth w).toNat) ∧
    ∀ m : BitVec 8, srcElem c cv w (.imm m) k = (m.signExtend w).toNat

/-- What an element-wise member writes and leaves, and the forms of its sources (R95, R102 to R104, R292, R293). -/
def Obligations.VectorElementWise : Prop := Parts.VectorElements ∧ Parts.SourceOperands

/-- `vsel` writes every element in the fragment, from A where the mask selects and from B else (R302); `vid` writes element
numbers (R314); `vrand` and `vdrop` draw once for each element, the draw deciding the value or the survival, and move the
counter on by VL (R78, R318). -/
def Sys2Proof.Parts.VectorSelectDraw : Prop :=
  ∀ (f : VF) (v : View) (s : State) (cv : Convoy), f.d = .view v →
    let c := s.core
    let w := vSew c
    (Running s (.vsel f) cv → Tables.Gives s (.vsel f)
      (writeRun c cv f v w (vCount c (.vsel f) f) (fun k =>
        if inFrag c k = true then some (srcElem c cv w (if maskSel c (.vsel f) f k = true then f.a else f.b) k) else none), cv)) ∧
    (Running s (.vid f) cv → Tables.Gives s (.vid f) (mapMember (.vid f) f (fun _ _ k => (k % 2 ^ w, 0)) c cv)) ∧
    (Running s (.vrand f) cv →
      let r := mapMember (.vrand f) f (fun _ _ k => ((rng c.vec.rngkey (cv.rngctr + BitVec.ofNat 64 k)).toNat % 2 ^ w, 0)) c cv
      Tables.Gives s (.vrand f) (r.1, Tables.drewIf True c r.2)) ∧
    (Running s (.vdrop f) cv →
      let q := dropQ cv f.a
      let r := mapMember (.vdrop f) f
        (fun _ _ k => (if (rng c.vec.rngkey (cv.rngctr + BitVec.ofNat 64 k)).toNat / 65536 < q then 1 else 0, 0)) c cv
      Tables.Gives s (.vdrop f) (r.1, Tables.drewIf True c r.2))

/-- `vmpop` writes the number of active elements of A whose bit 0 is 1, `vmfirst` the lowest such element or all ones (R305). -/
def Sys2Proof.Parts.MaskCounts : Prop :=
  ∀ (f : VF) (n : BitVec 4) (s : State) (cv : Convoy), f.d = .ereg n → cv.lo = 0 →
    let c := s.core
    (Running s (.vmpop f) cv →
      let cnt := vCount c (.vmpop f) f
      let hit (k : Nat) : Prop := k < cnt ∧ isActive c (.vmpop f) f k = true ∧ srcElem c cv (vSew c) f.a k % 2 = 1
      cnt ≤ cv.hi → ∃ e, Tables.Gives s (.vmpop f) (c, { cv with e := e }) ∧
        (∃ l : List Nat, l.Nodup ∧ (∀ k, k ∈ l ↔ hit k) ∧ eregGet e n = BitVec.ofNat 64 l.length) ∧
        ∀ m, m ≠ n → eregGet e m = eregGet cv.e m) ∧
    (Running s (.vmfirst f) cv →
      let cnt := vCount c (.vmfirst f) f
      let hit (k : Nat) : Prop := k < cnt ∧ isActive c (.vmfirst f) f k = true ∧ srcElem c cv (vSew c) f.a k % 2 = 1
      cnt ≤ cv.hi → ∃ e, Tables.Gives s (.vmfirst f) (c, { cv with e := e }) ∧
        (∀ k, hit k → (∀ j, j < k → ¬ hit j) → eregGet e n = BitVec.ofNat 64 k) ∧
        ((∀ k, ¬ hit k) → eregGet e n = BitVec.allOnes 64) ∧ ∀ m, m ≠ n → eregGet e m = eregGet cv.e m)

/-- Select, element numbers, draws and mask counts (R302, R305, R314, R318). -/
def Obligations.VectorSelectAndCount : Prop := Parts.VectorSelectDraw ∧ Parts.MaskCounts

/-! ### The V-stream: conversion, reduction, movement -/

/-- `vcvt` and `vcvt.sat` convert each element between the formats of their pair; `vdequant` scales by its block's byte, 255
giving a NaN; `vunpack` widens a nibble; the stochastic mode draws and moves the counter on (R78, R307, R310, R311). What a
widening `vcvt` makes of a NaN and of an infinity (log 24) and that the mask's group bounds the count of `vunpack` (logs 23 and 78)
are the model's choices. -/
def Obligations.ConversionResults : Prop :=
  ∀ (f : VF) (s : State) (cv : Convoy),
    let c := s.core
    let b := immOf f.b
    let m := (b.extractLsb' 5 3).toNat
    let p := cvtPair (b.extractLsb' 0 5).toNat
    let draw (k : Nat) : Nat := if m = 4 then (rng c.vec.rngkey (cv.rngctr + BitVec.ofNat 64 k)).toNat else 0
    (∀ q ∈ [((.vcvt f : Instr), false), (.vcvtSat f, true)], Running s q.1 cv →
      let r := mapMember q.1 f (fun c cv k => vConvert p.1 p.2 q.2 m (draw k) (srcElem c cv (fmtBits p.1) f.a k)) c cv
      Tables.Gives s q.1 (r.1, Tables.drewIf (m = 4) c r.2)) ∧
    (∀ v, f.a = .view v → Running s (.vdequant f) cv →
      Tables.Gives s (.vdequant f) (mapMember (.vdequant f) f (fun c cv k =>
        let S := elemGet c.grd (viewAdd v (2 ^ vGrp c)) 8 (k / 128)
        if S = 255 then fconv f32 false 0 0 .nan
        else match fmtFloat (b.extractLsb' 0 4) with
          | some g => fconv f32 false 0 0 (fvScale (g.val (srcElem c cv 8 f.a k % 2 ^ g.width)) ((S : Int) - 127))
          | none => (0, 0)) c cv)) ∧
    (Running s (.vunpack f) cv →
      Tables.Gives s (.vunpack f) (mapMember (.vunpack f) f (fun c cv k =>
        let x := if k % 2 = 0 then srcElem c cv 8 f.a (k / 2) % 16 else srcElem c cv 8 f.a (k / 2) / 16 % 16
        if b.extractLsb' 0 4 = 5 then
          ((fconv (if vSew c = 32 then f32 else if vSew c = 16 then f16 else e4m3) false 0 0 (e2m1.val x)).1, 0)
        else (ofS (vSew c) (toS 4 x), 0)) c cv))

/-- `vquant` derives its scale from the sample of its record, quantises each active element, and leaves the scale in bits
[31:24] of its control register; a clamped scale sets the scale flag (R170 to R172, R308). For a record of a listed format: one
of another gives free codes (log 5). -/
def Sys2Proof.Parts.QuantResults : Prop :=
  ∀ (f : VF) (n : BitVec 4) (s : State) (cv : Convoy), f.b = .ereg n → Running s (.vquant f) cv →
    let c := s.core
    let ctl := eregGet cv.e n
    let smp := smGet [] cv.sample (ctl.extractLsb' 0 20).toNat
    let fmt := cfgFmt (BitVec.ofNat 32 (recWord smp 5))
    let mode := (ctl.extractLsb' 21 3).toNat
    let S := (deriveScale smp).1
    let q (k : Nat) : Nat × Flags × Bool :=
      quantElem fmt mode (if mode = 4 then (rng c.vec.rngkey (cv.rngctr + BitVec.ofNat 64 k)).toNat else 0)
        (fvScale (f32.val (srcElem c cv 32 f.a k)) (127 - (S : Int)))
    fmt = 3 ∨ fmt = 4 ∨ fmt = 5 ∨ fmt = 9 →
      let r := mapMember (.vquant f) f (fun _ _ k => ((q k).1, (q k).2.1)) c cv
      ∃ cv', Tables.Gives s (.vquant f) (r.1, cv') ∧ (∀ m, eregGet cv'.e m =
          if m = n then ctl.extractLsb' 32 32 ++ BitVec.ofNat 8 S ++ ctl.extractLsb' 0 24 else eregGet cv.e m) ∧
        cv'.flags = r.2.flags ||| (if (deriveScale smp).2 then fSC else 0) ∧
        cv'.rngctr = cv.rngctr + (if mode = 4 then BitVec.ofNat 64 c.vec.vl else 0)

/-- `vbquant` gives each block of 128 elements one scale byte, beside the destination, and each active element its code under
that scale; `vpack` packs two nibbles in a byte, leaving a neighbour that is not written as it is, and under an agnostic tail policy
fills the rest of its group with ones (R309, R311). That `vpack` draws in mode STO for every format, and that its mask's group bounds
its count, are the model's choices (logs 23 and 78). -/
def Sys2Proof.Parts.BlockResults : Prop :=
  ∀ (f : VF) (v : View) (s : State) (cv : Convoy), f.d = .view v →
    let c := s.core
    let b := immOf f.b
    let fmt : BitVec 4 := b.extractLsb' 0 4
    let mode := (b.extractLsb' 4 3).toNat
    let draw (k : Nat) : Nat := if mode = 4 then (rng c.vec.rngkey (cv.rngctr + BitVec.ofNat 64 k)).toNat else 0
    (∀ g, fmtFloat fmt = some g → Running s (.vbquant f) cv →
      let i : Instr := .vbquant f
      let n := vCount c i f
      let x (k : Nat) : FVal := f32.val (srcElem c cv 32 f.a k)
      let block (j : Nat) : List Nat := nats (128 * j) (min 128 (n - 128 * j))
      let scale (j : Nat) : Nat × Flags := blockScale fmt (((block j).filter (isActive c i f)).map x)
      let r := mapMember i f (fun _ _ k =>
        let S := (scale (k / 128)).1
        if S = 255 then fconv g true mode (draw k) .nan else fconv g true mode (draw k) (fvScale (x k) (127 - (S : Int)))) c cv
      ∃ l cv', Tables.Gives s i (r.1.updGrd fun e => putElems e (viewAdd v (2 ^ vGrp c)) 8 l, cv') ∧
        (∀ j, j < (n + 127) / 128 → ((block j).filter (isActive c i f)) ≠ [] → (j, (scale j).1) ∈ l) ∧
        (∀ p ∈ l, (∃ j, p = (j, (scale j).1)) ∨ p.2 = 255) ∧ (l.map (·.1)).Nodup ∧
        cv'.rngctr = cv.rngctr + (if mode = 4 then BitVec.ofNat 64 c.vec.vl else 0) ∧ cv'.e = cv.e) ∧
    (Running s (.vpack f) cv →
      let i : Instr := .vpack f
      let n := vCount c i f
      let sto := mode = 4
      let nib (k : Nat) : Option Nat :=
        if n ≤ k then (if f.tailAgn then some 15 else none)
        else if inFrag c k = false then none
        else if maskSel c i f k = true then
          some (packVal fmt (vSew c) mode (if sto then (rng c.vec.rngkey (cv.rngctr + BitVec.ofNat 64 k)).toNat else 0)
            (srcElem c cv (vSew c) f.a k)).1
        else if f.maskAgn then some 15 else none
      let old (j : Nat) : Nat := elemGet c.grd v 8 j
      let byte (j : Nat) : Nat := (nib (2 * j)).getD (old j % 16) + 16 * (nib (2 * j + 1)).getD (old j / 16)
      let tail : List (Nat × Nat) :=
        if f.tailAgn then (nats ((n + 1) / 2) (vMax c 8 v - (n + 1) / 2)).map fun j => (j, 255) else []
      ∃ cv', Tables.Gives s i (c.updGrd fun g => putElems g v 8 ((((nats 0 ((n + 1) / 2)).filter fun j =>
          (nib (2 * j)).isSome || (nib (2 * j + 1)).isSome).map fun j => (j, byte j)) ++ tail), cv') ∧
        cv'.rngctr = cv.rngctr + (if sto then BitVec.ofNat 64 c.vec.vl else 0) ∧ cv'.e = cv.e)

/-- Quantisation by a record and by blocks, and packing (R308, R309, R311). -/
def Obligations.VectorQuantise : Prop := Parts.QuantResults ∧ Parts.BlockResults

namespace Sys2Proof.Tables

/-- The reductions and scans with a group of the element type, and those without one (R312, R313). -/
def redOps : List ((BitVec 2 → VF → Instr) × (BitVec 2 → VF → Instr) × RedOp) := [
  (.vredAdd, .vscanAdd, .add), (.vredMax, .vscanMax, .max), (.vredMin, .vscanMin, .min)]
def redPlain : List ((VF → Instr) × (VF → Instr) × RedOp) := [
  (.vredMaxn, .vscanMaxn, .maxn), (.vredMinn, .vscanMinn, .minn), (.vredAnd, .vscanAnd, .and), (.vredOr, .vscanOr, .or),
  (.vredXor, .vscanXor, .xor)]

/-- The active elements of A below a count, an inactive one empty. -/
def actives (i : Instr) (f : VF) (c : Core) (cv : Convoy) (n : Nat) : List (Option Nat) :=
  (nats 0 n).map fun k => if isActive c i f k then some (srcElem c cv (vSew c) f.a k) else none

/-- The elements from `lo` to `hi` − 1 of a group set to all ones: an agnostic tail (R104). -/
def onesFrom (g : Grd) (v : View) (w lo hi : Nat) : Grd := (nats lo (hi - lo)).foldl (fun g k => elemSet g v w k (2 ^ w - 1)) g

/-- A reduction combines the initial value of B with the tree over the active elements, and goes to an e-register or to element
0 of a group, whose other elements are tail: kept, or all ones where the tail is agnostic; a scan gives each active element the reduction of the elements up to it. -/
def RedResult (s : State) (cv : Convoy) (red scan : Instr) (op : RedOp) (g : BitVec 2) (f : VF) : Prop :=
  let c := s.core
  let w := vSew c
  (Running s red cv →
    let tree := redTree op g w (actives red f c cv (vCount c red f))
    let r : Nat × Flags :=
      if f.b = .absent then tree.getD (redId op g w, 0)
      else match tree with
        | some x => ((redComb op g w (srcElem c cv w f.b 0) x.1).1, x.2 ||| (redComb op g w (srcElem c cv w f.b 0) x.1).2)
        | none => (srcElem c cv w f.b 0, 0)
    let cv1 := { cv with flags := cv.flags ||| r.2 }
    let res : DWord := if g = 2 ∧ (op = .add ∨ op = .max ∨ op = .min) then BitVec.ofInt 64 (toS w r.1) else BitVec.ofNat 64 r.1
    (∀ n, f.d = .ereg n → Gives s red (c, { cv1 with e := eregSet cv.e n res })) ∧
    (∀ v, f.d = .view v → Gives s red (c.updGrd fun e =>
      let e := elemSet e v w 0 r.1
      if f.tailAgn = true then onesFrom e v w 1 (vMax c w v) else e, cv1))) ∧
  (Running s scan cv →
    Gives s scan (mapMember scan f (fun _ _ k =>
      (redTree op g w ((actives scan f c cv (vCount c scan f)).take (k + 1))).getD (redId op g w, 0)) c cv))

end Sys2Proof.Tables

/-- Reductions and scans complete with the tree of R90 over the active elements; a reduction into a view group leaves elements 1 to
VLMAX − 1 as its tail policy says (R90, R91, R104, R312, R313). -/
def Obligations.ReductionResults : Prop :=
  ∀ (f : VF) (s : State) (cv : Convoy),
    (∀ p ∈ Tables.redOps, ∀ g : BitVec 2, Tables.RedResult s cv (p.1 g f) (p.2.1 g f) p.2.2 g f) ∧
    ∀ p ∈ Tables.redPlain, Tables.RedResult s cv (p.1 f) (p.2.1 f) p.2.2 3 f

/-- The tree over integers below 2^w is the plain combination of the values that are there, whatever is empty between them, and
sets no flag; over none it is none (R90, R312). A vector has at most 12,288 elements, and the tree serves 16,384. -/
def Obligations.IntegerTree : Prop :=
  ∀ (op : RedOp) (w : Nat) (l : List (Option Nat)), 0 < w → l.length ≤ 16384 → (∀ x ∈ l, ∀ v, x = some v → v < 2 ^ w) →
    ∀ i, i ∈ [(RedOp.max, (2 : BitVec 2)), (.min, 2), (.add, 2), (.maxn, 3), (.minn, 3), (.and, 3), (.or, 3), (.xor, 3)] → i.1 = op →
      redTree op i.2 w l = match l.filterMap id with
        | [] => none
        | x :: xs => some (xs.foldl (fun a b => (redComb op i.2 w a b).1) x, 0)

/-- The slides, the permutation, the broadcast and the expansion write each active element from the element of A that they name,
`vslide.down` and `vperm` 0 where there is none, `vslide.up` nothing below its offset (R314 to R317). -/
def Sys2Proof.Parts.MovementResults : Prop :=
  ∀ (f : VF) (v : View) (s : State) (cv : Convoy), f.d = .view v →
    let c := s.core
    let w := vSew c
    let A := srcElem c cv w f.a
    let off := (match f.b with | .ereg n => (eregGet cv.e n).toNat | .imm m => m.toNat | _ => 0)
    ∀ (i : Instr) (val : Nat → Option Nat),
      (i, val) ∈ [((.vslideUp f : Instr), fun k => if k < off then none else some (A (k - off))),
        (.vslideDown f, fun k => some (if k + off < vCount c (.vslideDown f) f then A (k + off) else 0)),
        (.vperm f, fun k => some (if srcElem c cv w f.b k < vCount c (.vperm f) f then A (srcElem c cv w f.b k) else 0)),
        (.vbcst f, fun _ => some (A 0)),
        (.vexpand f, fun k => some (A ((nats 0 k).filter (isActive c (.vexpand f) f)).length))] →
      Running s i cv →
        Tables.Gives s i (writeRun c cv f v w (vCount c i f) (fun k =>
          if inFrag c k = false then none else if maskSel c i f k = true then val k
          else if f.maskAgn then some (2 ^ w - 1) else none), cv)

/-- `vcompress` packs the active elements of A from element 0 of D on, in order, and the elements of D from there on are tail, kept
or all ones; `vstat` notes the active elements of A for its
record and format, and writes nothing (R317, R319). -/
def Sys2Proof.Parts.CompressAndStat : Prop :=
  ∀ (f : VF) (s : State) (cv : Convoy),
    let c := s.core
    let w := vSew c
    (∀ v, f.d = .view v → Running s (.vcompress f) cv →
      let l := ((nats 0 (vCount c (.vcompress f) f)).filter (isActive c (.vcompress f) f)).map (srcElem c cv w f.a)
      Tables.Gives s (.vcompress f) (c.updGrd fun g =>
        let g := putElems g v w ((List.range l.length).zip l)
        if f.tailAgn = true then Tables.onesFrom g v w l.length (vMax c w v) else g, cv)) ∧
    (∀ n, f.b = .ereg n → Running s (.vstat f) cv →
      let ctl := eregGet cv.e n
      let l := ((runElems cv (vCount c (.vstat f) f)).filter (isActive c (.vstat f) f)).map (srcElem c cv w f.a)
      Tables.Gives s (.vstat f) (c, { cv with contrib := cv.contrib ++ l.map fun x => (ctl.setWidth 20, ctl.extractLsb' 20 4, x) }))

/-- Movement of elements, compression and statistics of active elements (R314 to R317, R319). -/
def Obligations.VectorMovement : Prop := Parts.MovementResults ∧ Parts.CompressAndStat

/-! ### The V-stream: memory, scalars, control -/

namespace Sys2Proof.Tables

/-- The elements a memory member still has to make: active, in the run, and not performed before a stop (R290), nor below those
that a whole convoy has made already (log 78). -/
def memTodo (i : Instr) (f : VF) (c : Core) (cv : Convoy) : List Nat :=
  (((runElems cv (vCount c i f)).filter (isActive c i f)).filter fun k => !cv.cmask.getLsbD k).filter fun k => decide (cv.mlo ≤ k)

/-- The memory members with what they do and the argument of each element (R321, R322). -/
def vectorMem : List ((BitVec 2 → VF → Instr) × VMem × (BitVec 2 → VF → State → Convoy → Nat → XArg)) := [
  (.vld, .load, fun sp f => strideArg sp f .load), (.vst, .store, fun sp f => strideArg sp f .store),
  (.vgath, .load, fun sp f => indexArg sp f .load), (.vscat, .store, fun sp f => indexArg sp f .store),
  (.vsaddI, .addI, fun sp f => indexArg sp f .amo), (.vsaddF, .addF, fun sp f => indexArg sp f .amo)]

/-- The elements read in order: the state after the accesses, and what each gave. -/
def loadRun (s : State) (cv : Convoy) (x : Nat → XArg) (todo : List Nat) : State × List (Nat × Nat) :=
  todo.foldl (fun q k => let a := loadElem q.1 s.cur cv (x k) k; (a.1, smPut q.2 k a.2)) (s, cv.mbuf)
/-- The format in which a direct store contributes to its record (R320). -/
def storeFmt (op : VMem) (w : Nat) : BitVec 4 :=
  match op with
  | .addI => 11
  | .addF => 0
  | _ => if w = 32 then 0 else if w = 16 then 1 else 4

/-- What a run of the memory member `i` does, with the access `x k` of its element k; `go` is what follows a run that acts. One that only
looks for faults changes no grid and no e-register. A load makes its accesses in element order and writes what they gave to D, an
inactive element as the mask policy says; before a whole convoy acts it keeps what they gave. A store or an atomic makes its accesses in
element order, atomics `vsadd.f` that meet in some order, then those beyond a stop that may have performed; its active elements contribute
to the record of `%strec` where that is enabled (R286, R290, R320 to R323, R325, R326). -/
def MemberRuns (s : State) (cv : Convoy) (i : Instr) (f : VF) (v : View) (op : VMem) (x : Nat → XArg) (go : Out → Out) : Prop :=
  let c := s.core
  let w := vSew c
  let todo := memTodo i f c cv
  let elem (k : Nat) : Nat := elemGet c.grd v w k
  (cv.probe = true → ∃ (t : State) (cv' : Convoy),
    exec i s = .next (t.upd fun c => c.updVec fun w => { w with cv := some { cv' with todo := cv.todo.tail } }) ∧
    (∀ n, (t.coreN n).grd = (s.coreN n).grd) ∧ cv'.e = cv.e) ∧
  (cv.probe = false → op = .load →
    let r := loadRun s cv x todo
    (cv.mem = true → exec i s = ran r.1 r.1.core { cv with mbuf := r.2 }) ∧
    (cv.mem = false → exec i s = go (ran r.1 (writeRun r.1.core cv f v w (vCount c i f) (fun k =>
      if inFrag c k = false then none else if maskSel c i f k = true then smFind r.2 k
      else if f.maskAgn then some (2 ^ w - 1) else none)) cv))) ∧
  (cv.probe = false → op ≠ .load → ∃ (l : List Nat) (u : State) (m : List (Nat × Nat)),
    l.Perm todo ∧ { u with free := s.free } = s ∧ ((op = .addF → (todo.map fun k => (x k).ea).Nodup) → l = todo ∧ u = s) ∧
    (cv.part = none → cv.mem = false → m = cv.mbuf) ∧
    let t := l.foldl (fun t k => storeElem t s.cur cv op (x k) k (elem k)) u
    let t := cv.beyond.foldl (fun t p => storeElem t s.cur cv op { x p.1 with ea := p.2.2 } p.1 p.2.1) t
    let cv' := { cv with mbuf := m }
    (cv.mem = true → exec i s = ran t t.core cv') ∧
    (cv.mem = false → exec i s = go (ran t t.core (if c.vec.strec.getLsbD 20 = true
      then { cv' with contrib := cv.contrib ++ ((runElems cv (vCount c i f)).filter (isActive c i f)).map fun k =>
        (c.vec.strec.setWidth 20, storeFmt op w, elem k) }
      else cv'))))

/-- The walk of stream register `q` stands at position `p` after the run. -/
def walkTo (q : BitVec 4) (p : Nat) : Out → Out
  | .next t => .next (t.upd fun c => strPut c q { strGet c q with pos := p })
  | r => r

end Sys2Proof.Tables

/-- The address of an element: base and stride, the element size where B is absent; or base and index, sign-extended at the
width and scaled by the element size (R321, R322). -/
def Sys2Proof.Parts.VectorAddresses : Prop :=
  ∀ (sp : BitVec 2) (f : VF) (k : Kind) (s : State) (cv : Convoy) (n : BitVec 4) (e : Nat), f.a = .ereg n →
    let z := vSew s.core / 8
    let base := eregGet cv.e n
    (f.b = .absent → strideArg sp f k s cv e = ⟨sp, effAddr sp base (e * (z : Int)), z, k⟩) ∧
    (∀ m, f.b = .ereg m → strideArg sp f k s cv e = ⟨sp, effAddr sp base (e * (eregGet cv.e m).toInt), z, k⟩) ∧
    (∀ v, f.b = .imm v → strideArg sp f k s cv e = ⟨sp, effAddr sp base (e * v.toInt), z, k⟩) ∧
    ∀ v, f.b = .view v → indexArg sp f k s cv e =
      ⟨sp, effAddr sp base (toS (vSew s.core) (elemGet s.core.grd v (vSew s.core) e) * (z : Int)), z, k⟩

/-- A run of a memory member looks for faults, or makes its accesses in element order at the addresses of its elements and moves their
values, and the other members are left to run (R286, R290, R320 to R322, R325, R326). That the accesses of one run are made in one step,
and which of those beyond a stop have performed, is the model's choice (log 45), and so are the accesses of a whole convoy, made before
its members run, with what they read kept (log 78), the order of added elements that meet (log 31), and what a mismatch does to an
element of `vsadd` (log 84). -/
def Sys2Proof.Parts.VectorMemoryResults : Prop :=
  ∀ p ∈ Tables.vectorMem, ∀ (sp : BitVec 2) (f : VF) (v : View) (s : State) (cv : Convoy), f.d = .view v →
    Running s (p.1 sp f) cv → Tables.MemberRuns s cv (p.1 sp f) f v p.2.1 (p.2.2 sp f s cv) id

/-- A load of the core's own TCM by elements at the element stride: every active element of the run holds the bytes at its
address, which are aligned, within the allotment and without poison, and no memory changes (R126, R321). -/
def Obligations.VectorTcmLoad : Prop :=
  ∀ (f : VF) (v : View) (n : BitVec 4) (s : State) (cv : Convoy), f.d = .view v → f.a = .ereg n → f.b = .absent →
    let i : Instr := .vld 2 f
    let c := s.core
    let z := vSew c / 8
    let base := (eregGet cv.e n).toNat
    let cnt := vCount c i f
    let run (k : Nat) : Prop := cv.lo ≤ k ∧ k < cv.hi ∧ k < cnt ∧ isActive c i f k = true
    Running s i cv → cv.probe = false → cv.mem = false → cv.mlo ≤ cv.lo → cv.cmask = 0 → c.vec.strip = [] → cnt ≤ vMax c (vSew c) v → base % z = 0 →
    base + z * cv.hi ≤ (s.gangOf s.cur).tcmBlocks * 4096 → base + z * cv.hi < 2 ^ 64 →
    (∀ k, run k → (base + z * k) / 8 ∉ c.tcmPoison) →
      ∃ t, exec i s = .next t ∧ (∀ k, run k → elemGet t.core.grd v (vSew c) k = valueAt s (.tcm s.cur (base + z * k)) z) ∧
        AllBytes s t ∧ SameControl s t

/-- The members that go through a stream port: with q the walk's position and v `%vstart` at issue, element k is loaded into D or stored
from D at the address of walk position (q + k − v) mod N, in the register's space and with its element size, and after the run the
walk stands past its last element (R254, R323). The accesses of one run are made in one step: the model's choice (log 45). -/
def Sys2Proof.Parts.PortResults : Prop :=
  ∀ (f : VF) (v : View) (q : BitVec 4) (s : State) (cv : Convoy), f.d = .view v → f.a = .port q →
    let r := strGet s.core q
    let start := match cv.qpos with | some p => p.2 | none => 0
    let pos (k : Nat) : Nat := (start + (k - cv.v0)) % r.total
    ∀ (i : Instr) (op : VMem) (kd : Kind), (i, op, kd) ∈ [((.vldq f : Instr), VMem.load, Kind.walkLoad), (.vstq f, .store, .walkStore)] →
      Running s i cv → Tables.MemberRuns s cv i f v op (fun k => ⟨r.sp, (r.addr (pos k)).1, fmtBytes r.fmt, kd⟩)
        (Tables.walkTo q (pos (min cv.hi (vCount s.core i f))))

/-- Elements in the core's own TCM, from R126 and R321 to R323 alone: every active element of the run lies at its address, base and
stride, base and scaled index, or the walk's, aligned and within the allotment. A load gives D the bytes there and changes no memory;
a store writes the low bytes of its element, `vsadd` adds it to what is there, and every other byte reads as before. No element lies
where another of the store does, and no load or add meets poison. -/
def Sys2Proof.Parts.TcmElements : Prop :=
  ∀ (f : VF) (v : View) (s : State) (cv : Convoy), f.d = .view v → cv.probe = false → cv.mem = false → cv.beyond = [] →
    cv.mlo ≤ cv.lo → cv.cmask = 0 → s.core.vec.strip = [] →
    let c := s.core
    let w := vSew c
    let z := w / 8
    let at' (t : State) (a : Nat) : Nat := valueAt t (.tcm s.cur a) z
    let run (i : Instr) (k : Nat) : Prop := cv.lo ≤ k ∧ k < cv.hi ∧ k < vCount c i f ∧ isActive c i f k = true
    -- the addresses of the elements: aligned, and within the allotment
    let lies (i : Instr) (addr : Nat → Int) (p : Nat → Nat) : Prop :=
      ∀ k, run i k → (p k : Int) = addr k ∧ p k % z = 0 ∧ p k < (s.gangOf s.cur).tcmBlocks * 4096 ∧ p k < 2 ^ 64
    let clean (i : Instr) (p : Nat → Nat) : Prop := ∀ k, run i k → p k / 8 ∉ c.tcmPoison
    let loads (i : Instr) (addr : Nat → Int) : Prop := ∀ p, Running s i cv → lies i addr p →
      clean i p → ∃ t, exec i s = .next t ∧ (∀ k, run i k → elemGet t.core.grd v w k = at' s (p k)) ∧ AllBytes s t ∧ SameControl s t
    let stores (i : Instr) (addr : Nat → Int) (new : Nat → Nat → Nat) : Prop := ∀ p, Running s i cv → lies i addr p →
      (i = .vsaddI 2 f ∨ i = .vsaddF 2 f → clean i p) → (∀ k k', run i k → run i k' → k ≠ k' → p k ≠ p k') →
        ∃ t, exec i s = .next t ∧ (∀ k, run i k → at' t (p k) = new (at' s (p k)) (elemGet c.grd v w k)) ∧
          (∀ y, (∀ k j, run i k → j < z → ¬ sameByte y (.tcm s.cur (p k + j))) → byteAt t y = byteAt s y) ∧ SameControl s t
    (∀ n, f.a = .ereg n →
      let base : Int := (eregGet cv.e n).toNat
      (∀ st : Int, (f.b = .absent ∧ st = z) ∨ (∃ m, f.b = .ereg m ∧ st = (eregGet cv.e m).toInt) ∨ (∃ m, f.b = .imm m ∧ st = m.toInt) →
        loads (.vld 2 f) (fun k => base + k * st) ∧ stores (.vst 2 f) (fun k => base + k * st) (fun _ x => x)) ∧
      ∀ b, f.b = .view b →
        let addr (k : Nat) : Int := base + toS w (elemGet c.grd b w k) * z
        loads (.vgath 2 f) addr ∧ stores (.vscat 2 f) addr (fun _ x => x) ∧
        (w = 32 → stores (.vsaddI 2 f) addr (fun old x => (old + x) % 2 ^ 32) ∧
          stores (.vsaddF 2 f) addr (fun old x => (fAdd f32 old x).1 % 2 ^ 32))) ∧
    ∀ q, f.a = .port q →
      let r := strGet c q
      let addr (k : Nat) : Int := (r.addr (((match cv.qpos with | some p => p.2 | none => 0) + (k - cv.v0)) % r.total)).1.toNat
      r.sp = 2 → fmtBytes r.fmt = z → loads (.vldq f) addr ∧ stores (.vstq f) addr (fun _ x => x)

/-- Addresses and accesses of the memory members and of the stream ports (R126, R254, R320 to R323, R325, R326; that the accesses of one
run are made in one step is the model's choice, log 45). -/
def Obligations.VectorMemory : Prop :=
  Parts.VectorAddresses ∧ Parts.VectorMemoryResults ∧ Parts.PortResults ∧ Parts.TcmElements

/-- The scalar members write their e-register and nothing else: sums, differences and products modulo 2^64, a signed immediate,
the oldest entries of the C-to-V queue in turn, a control register as the convoy issued; `epush` keeps its value for retirement
(R287, R329). -/
def Obligations.ScalarMembers : Prop :=
  ∀ (f : VF) (d a b : BitVec 4) (im : BitVec 8) (imm : BitVec 22) (num : BitVec 10) (s : State) (cv : Convoy),
    let x := eregGet cv.e a
    let y := eregGet cv.e b
    let put (i : Instr) (v : DWord) : Prop := Running s i cv → Tables.Gives s i (s.core, { cv with e := eregSet cv.e d v })
    (f.d = .ereg d → f.a = .ereg a → f.b = .ereg b → put (.eadd f) (x + y) ∧ put (.esub f) (x - y) ∧ put (.emul f) (x * y)) ∧
    (f.d = .ereg d → f.a = .ereg a → f.b = .imm im → put (.eaddi f) (x + im.signExtend 64)) ∧
    (f.d = .ereg d → put (.eli f imm) (imm.signExtend 64)) ∧
    (f.d = .ereg d → put (.eget f num) (smGet 0 cv.egets num.toNat)) ∧
    (f.d = .ereg d → Running s (.epop f) cv → Tables.Gives s (.epop f)
      (s.core, { cv with pops := cv.pops + 1, e := eregSet cv.e d (s.core.c2v.getD cv.pops 0) })) ∧
    (f.a = .ereg a → Running s (.epush f) cv → Tables.Gives s (.epush f) (s.core, { cv with pushes := cv.pushes ++ [x] }))

namespace Sys2Proof.Tables

/-- The address of the running member: 8 bytes for each member before it. -/
def memberPc (cv : Convoy) : VAddr := cv.pc + BitVec.ofNat 56 (8 * (cv.members.length - cv.todo.length))
/-- An element of the fragment below the count that the mask selects, or does not. -/
def selected (c : Core) (i : Instr) (f : VF) (yes : Bool) (k : Nat) : Prop :=
  k < vCount c i f ∧ inFrag c k = true ∧ maskSel c i f k = yes

end Sys2Proof.Tables

/-- `vbr` goes to its target where its e-register is not 0, `vbrm` where the mask selects an element of the fragment; `vjal`
pushes the next address with the vector state and goes to its target; `vret` pops both (R330, R333). -/
def Sys2Proof.Parts.VectorBranches : Prop :=
  ∀ (f : VF) (n : BitVec 4) (off : BitVec 22) (s : State) (cv : Convoy),
    let c := s.core
    let go : Convoy := { cv with target := some (Tables.memberPc cv + off.signExtend 56 * 8) }
    (Running s (.vbr f off) cv → f.d = .ereg n →
      (eregGet cv.e n ≠ 0 → Tables.Gives s (.vbr f off) (c, go)) ∧ (eregGet cv.e n = 0 → Tables.Gives s (.vbr f off) (c, cv))) ∧
    (Running s (.vbrm f off) cv →
      ((∃ k, Tables.selected c (.vbrm f off) f true k) → Tables.Gives s (.vbrm f off) (c, go)) ∧
      ((∀ k, ¬ Tables.selected c (.vbrm f off) f true k) → Tables.Gives s (.vbrm f off) (c, cv))) ∧
    (Running s (.vjal f off) cv → Tables.Gives s (.vjal f off) (c, { go with ret := some ((cv.next, stateWord c.vec) :: c.vec.ret) })) ∧
    (Running s (.vret f) cv → ∀ p w rest, c.vec.ret = (p, w) :: rest → Tables.Gives s (.vret f) (c, { cv with
      ret := some rest, target := some p, strip := true, cfg := some ((w.extractLsb' 0 14).toNat, w.extractLsb' 14 6) }))

/-- `vbrd` goes on with the fragment where no element is selected, goes to its target where all are, and where some are pushes
the others with the next address and goes to its target with those selected; a full sett is left to retirement. `vjoin` runs the
waiting side once, then restores the whole (R331, R332). -/
def Sys2Proof.Parts.DivergenceResults : Prop :=
  ∀ (f : VF) (off : BitVec 22) (s : State) (cv : Convoy),
    let c := s.core
    let i : Instr := .vbrd f off
    let tgt := Tables.memberPc cv + off.signExtend 56 * 8
    let some' (yes : Bool) : Prop := ∃ k, Tables.selected c i f yes k
    (Running s i cv →
      (¬ some' true → Tables.Gives s i (c, cv)) ∧
      (some' true → ¬ some' false → Tables.Gives s i (c, { cv with target := some tgt })) ∧
      (some' true → some' false → 8 ≤ c.vec.sett.length → Tables.Gives s i (c, { cv with brdFull := true })) ∧
      (some' true → some' false → c.vec.sett.length < 8 → ∃ tb : BitVec 12288,
        (∀ k, k < 12288 → (tb.getLsbD k = true ↔ Tables.selected c i f true k)) ∧
        Tables.Gives s i (c, { cv with target := some tgt
                                       sett := some ({ pc := cv.next, set := c.vec.frag &&& ~~~tb } :: c.vec.sett, tb) }))) ∧
    (Running s (.vjoin f) cv →
      (c.vec.sett = [] → Tables.Gives s (.vjoin f) (c, cv)) ∧
      ∀ e t, c.vec.sett = e :: t →
        (e.running = false → Tables.Gives s (.vjoin f)
          (c, { cv with sett := some ({ e with joined := c.vec.frag, running := true } :: t, e.set), target := some e.pc })) ∧
        (e.running = true → Tables.Gives s (.vjoin f) (c, { cv with sett := some (t, e.set ||| e.joined) })))

/-- `vsetvl` and `vsetvli` grant min(request, VLMAX of the configuration) and write it to their e-register, where they have one; `vhalt`, `vtrap`,
`vrel` and `vfence` note what retirement does (R298, R327, R328, R334). -/
def Sys2Proof.Parts.ConfigurationResults : Prop :=
  ∀ (f : VF) (n m : BitVec 4) (count : BitVec 14) (cfg : BitVec 6) (s : State) (cv : Convoy),
    let c := s.core
    let top (k : BitVec 6) : Nat :=
      (if k.extractLsb' 4 2 = 0 then 384 else 256) * 2 ^ (k.extractLsb' 2 2).toNat *
        (if k.extractLsb' 0 2 = 0 then 4 else if k.extractLsb' 0 2 = 1 then 2 else 1)
    let granted (k : BitVec 6) (req : Nat) : Convoy :=
      { cv with cfg := some (min req (top k), k), strip := true, e := eregSet cv.e n (BitVec.ofNat 64 (min req (top k))) }
    (Running s (.vsetvli f count cfg) cv → f.d = .ereg n → Tables.Gives s (.vsetvli f count cfg) (c, granted cfg count.toNat)) ∧
    (∀ b : BitVec 8, Running s (.vsetvl f) cv → f.d = .ereg n → f.a = .ereg m → f.b = .imm b →
      Tables.Gives s (.vsetvl f) (c, granted (b.setWidth 6) (eregGet cv.e m).toNat)) ∧
    (Running s (.vsetvli f count cfg) cv → f.d = .absent →
      Tables.Gives s (.vsetvli f count cfg) (c, { granted cfg count.toNat with e := cv.e })) ∧
    (∀ b : BitVec 8, Running s (.vsetvl f) cv → f.d = .absent → f.a = .ereg m → f.b = .imm b →
      Tables.Gives s (.vsetvl f) (c, { granted (b.setWidth 6) (eregGet cv.e m).toNat with e := cv.e })) ∧
    (Running s (.vhalt f) cv → Tables.Gives s (.vhalt f) (c, { cv with halt := true })) ∧
    (Running s (.vtrap f) cv → f.b = .ereg m → Tables.Gives s (.vtrap f) (c, { cv with vtrap := some (eregGet cv.e m) })) ∧
    (∀ b : BitVec 8, Running s (.vtrap f) cv → f.b = .imm b → Tables.Gives s (.vtrap f) (c, { cv with vtrap := some (b.setWidth 64) })) ∧
    (∀ r : BitVec 8, Running s (.vrel f) cv → f.d = .view (.row r) →
      Tables.Gives s (.vrel f) (c, { cv with rels := cv.rels ++ [(r.toNat, 2 ^ vGrp c)] })) ∧
    (Running s (.vrel f) cv → f.d = .ereg m → Tables.Gives s (.vrel f) (c, { cv with
      rels := cv.rels ++ [((eregGet cv.e m).toNat % 256, (eregGet cv.e m).toNat / 256 % 512 + 1)] })) ∧
    ∀ b : BitVec 8, Running s (.vfence f) cv → f.b = .imm b →
      Tables.Gives s (.vfence f) (c, { cv with fence := some (b.setWidth 3), strip := true })

/-- Branches, divergence and configuration of the V-stream (R298, R327, R328, R330 to R334). -/
def Obligations.VectorControl : Prop := Parts.VectorBranches ∧ Parts.DivergenceResults ∧ Parts.ConfigurationResults

/-- A convoy whose last elements are done retires: its e-registers, configuration, PC, queue entries, flags and random counter
are committed, `%vstart` is 0, the released rows go to the grid engine, and the signals of its members are made (R106, R287).
Here none of its traps is due, no check of its own has failed, it makes no contribution, fences nothing and hits no watchpoint. -/
def Obligations.RetirementCommits : Prop :=
  ∀ (n : Nat) (s : State) (cv : Convoy), (s.coreN n).vec.cv = some cv → cv.last = true → (s.coreN n).frozen = false →
    (s.coreN n).run ≠ .free → cv.ovf = none → cv.brdFull = false → cv.vtrap = none → cv.contrib = [] → cv.fence = none →
    cv.watch = none → cv.fails = [] → (s.coreN n).vec.brdMark = false →
      ∃ t, exec (.convoyRetire n [] []) s = .next t ∧
        let c := s.coreN n
        let d := t.coreN n
        d.vec.cv = none ∧ d.vec.e = cv.e ∧ d.vec.pc = (match cv.target with | some p => p | none => cv.next) ∧ d.vec.vstart = 0 ∧
        d.vec.rngctr = cv.rngctr ∧ d.ctl.fflags = c.ctl.fflags ||| cv.flags ∧ d.c2v = c.c2v.drop cv.pops ∧ d.v2c = c.v2c ++ cv.pushes ∧
        d.vec.halted = (c.vec.halted || cv.halt) ∧
        (∀ vl k, cv.cfg = some (vl, k) → d.vec.vl = vl ∧ d.vec.kind = k.extractLsb' 4 2 ∧ d.vec.grp = k.extractLsb' 2 2 ∧
          d.vec.sew = k.extractLsb' 0 2) ∧ (cv.cfg = none → d.vec.vl = c.vec.vl ∧ d.vec.sew = c.vec.sew) ∧
        (∀ r, rowGet d.grd r = if rowGet c.grd r = .v ∧ (∃ p ∈ cv.rels, p.1 ≤ r ∧ r < p.1 + p.2) then .g else rowGet c.grd r) ∧
        d.grd.cells = c.grd.cells ∧ (∀ r, regGet d r = regGet c r) ∧
        (∀ k b, (k = 5 ∧ b = 1) ∨ (k = 6 ∧ b = 0) →
          let m := (cv.members.filter fun i => (mNibble i).getLsbD b).length
          halGet c k + m ≤ 63 → halGet d k = halGet c k + m)

/-! ### Events of a core's engines -/

namespace Sys2Proof.Tables

/-- The vector engine of core `n` may issue a convoy (R284, R286, R331, R411). -/
def MayLook (s : State) (n : Nat) : Prop :=
  let c := s.coreN n
  engOk c = true ∧ heldBack c 3 = false ∧ c.vec.halted = false ∧ c.vec.trapped = false ∧ c.vec.cv = none ∧ c.vec.after = [] ∧
    bkptFind s n true 0 c.vec.pc = none

end Sys2Proof.Tables

/-- A convoy whose members fail a check traps at issue, with the cause and value of the first that fails and `%epc` at the
convoy, its engine stopped; one that passes every check and condition issues: its waits are taken and it is in flight from
`%vstart` on (R284, R286, R297). Which of two failures of R297's orders 3 or 4 is the first, and that four members with no end report
the fourth, are the model's choice (logs 42, 44). Here no member's control code comes from an e-register, and none pops. -/
def Obligations.ConvoyIssue : Prop :=
  ∀ (n : Nat) (s s1 : State) (encs : List DWord), Tables.MayLook s n →
    fetchConvoy n 4 s (s.coreN n).vec.pc [] = (s1, .encs encs) →
    let c := s.coreN n
    let d := s1.coreN n
    let ms := encs.filterMap decEnc
    let m2 := ms.zip encs
    let cv := mkConvoy s1 n encs ms
    let early := (order2 encs).or ((order3 c m2).or (order4 c m2))
    (∀ code tv, early = some (code, tv) → ∃ t, exec (.convoyIssue n) s = .next t ∧ (t.coreN n).vec.trapped = true ∧
      smGet none (t.coreN n).ptraps 1 = some ⟨1, code, c.vec.pc, tv, 0⟩ ∧ (t.coreN n).vec.cv = none ∧ t.mem = s1.mem) ∧
    (early = none → order6 d m2 = none → codes s1 n cv m2 = [] → ms.any eFromGrid = false → popsOf ms = 0 →
      c.vec.stop.waits = false → c.vec.brdMark = false → (∀ f, ms ≠ [.vfence f]) → mayIssue d ms cv false = true →
      cPorts d m2 = none → order6Sett d m2 = none → heldGet d 4 = 0 → heldGet d 7 = 0 →
      ∃ t, exec (.convoyIssue n) s = .next t ∧ (t.coreN n).vec.cv = some cv ∧ cv.pc = d.vec.pc ∧ cv.members = ms ∧
        cv.v0 = d.vec.vstart ∧ halGet (t.coreN n) 4 = halGet d 4 - (ms.filter fun i => (mNibble i).getLsbD 3).length ∧
        halGet (t.coreN n) 7 = halGet d 7 - (ms.filter fun i => (mNibble i).getLsbD 2).length ∧ t.mem = s1.mem)

/-- A held increment applies once its counter has room (R53); a slot whose producer has ended becomes idle, and those that
sampled it see it (R55, R57, R270); a due profile sample is written once (R452); an event that is not due changes nothing. -/
def Sys2Proof.Parts.SignalEvents : Prop :=
  ∀ (n i : Nat) (t : BitVec 5) (s : State),
    let c := s.coreN n
    (0 < heldGet c i → halGet c i < 63 → c.frozen = false → ∃ u, exec (.heldSignalApply n i) s = .next u ∧
      halGet (u.coreN n) i = halGet c i + 1 ∧ heldGet (u.coreN n) i = heldGet c i - 1 ∧
      ∀ j, j ≠ i → halGet (u.coreN n) j = halGet c j ∧ heldGet (u.coreN n) j = heldGet c j) ∧
    (heldGet c i = 0 ∨ 63 ≤ halGet c i → exec (.heldSignalApply n i) s = .next s) ∧
    (tokReady c t.toNat = true → c.frozen = false → ∃ u, exec (.tokenIdle n t) s = .next u ∧
      tokPending (u.coreN n) t.toNat = false ∧ (tokGet (u.coreN n) t.toNat).scope = (tokGet c t.toNat).scope ∧
      (∀ j, j ≠ t.toNat → tokGet (u.coreN n) j = tokGet c j) ∧ ∀ f ∈ (u.coreN n).cpy.flight, t.toNat ∉ f.waits) ∧
    (tokReady c t.toNat = false → exec (.tokenIdle n t) s = .next s) ∧
    (c.vec.prof = none → exec (.profileSample n) s = .next s) ∧
    (c.vec.prof ≠ none → ∃ u, exec (.profileSample n) s = .next u ∧ (u.coreN n).vec.prof = none ∧ (u.coreN n).grd = c.grd)

/-- One entry of a `qfill` side is gathered and pushed where the head of the stream queue is a `qfill` with entries of that side
left, its registers can be walked, and the queue has room: to the core's own queue, or with a multicast mask to every receiver
(R258, R259). A `qfill` whose side A names a register that cannot be walked, or the core's own rank, is a posted fault 0x01, whatever
the number of its entries (R257, R259); that side A is looked at first, and that the fault has index 0 for a side of ranks and the walk
position for one of a stream register, are the model's choices (logs 21, 77). A chunk is formed for an instruction in flight whose turn
it is (R383, R384). A watchpoint that their accesses hit is answered (R443). -/
def Sys2Proof.Parts.FillEvents : Prop :=
  ∀ (n slot : Nat) (sideB : Bool) (s : State) (p : Posted) (q : BitVec 4) (tot : Nat),
    let c := s.coreN n
    let r := strGet c q
    (strReady c = some p → sideOf p sideB = some (.stream q, tot) → sideDone p sideB < tot → fillBad c p = none →
      (r.mcast = 0 → (sideQueue c sideB).length < 16 → exec (.qfillEntryPush n sideB) s = .next (watchAnswer (localPush s n p q sideB) n)) ∧
      (r.mcast ≠ 0 → exec (.multicastEntryPush n sideB) s = .next (watchAnswer (mcastPush s n p q sideB) n)) ∧
      (r.mcast = 0 → exec (.multicastEntryPush n sideB) s = .next s) ∧ (r.mcast ≠ 0 → exec (.qfillEntryPush n sideB) s = .next s)) ∧
    (∀ h a rk sb na nb, na ≠ 0 →
      (p.instr = .qfill h a (.stream q) sb na nb → r.illegal 0 = true →
        strWork s n p = strFault s n q.toNat 0x01 (encWord p.instr) r.pos) ∧
      (p.instr = .qfill h a (.rank rk) sb na nb → rk.toNat = c.rank → strWork s n p = strFault s n 16 0x01 (encWord p.instr) 0)) ∧
    (strReady c = none → exec (.qfillEntryPush n sideB) s = .next s ∧ exec (.multicastEntryPush n sideB) s = .next s) ∧
    ∀ (fl : Flight) (op : XOp) (h : Hal) (f : CopyF), (flReady s n).find? (flSlot · == slot) = some fl →
      xView fl.p.instr = some (op, h, f) → cpyAlive c = true → flForms fl = true →
      exec (.chunkForm n slot) s = .next (watchAnswer (formChunk s n { fl with pins := [] } op f) n)

namespace Sys2Proof.Tables

/-- A copy instruction that is posted now can go through: the copy engine is free, no slot is pending, the slots of the instruction
are the launch's, and it makes no contribution (R268 to R270). -/
def MayCopy (s : State) (h : Hal) (f : CopyF) : Prop :=
  MayWork s h 4 ∧ s.core.cpy.stopped = false ∧ s.core.cpy.flight = [] ∧ f.rb = false ∧ (∀ t, tokPending s.core t = false) ∧
    (∀ t ∈ [f.pt, f.c1, f.c2, f.c3], t.toNat < (s.gangOf s.cur).tokens) ∧ s.core.tcmPoison = []
/-- The page of a `g:` address: nothing but the walk of the tables translates it, to a leaf for accesses of a kind, whose page holds
the `n` bytes from there on, in memory that can be reached, has no poison and counts no bytes (R376 to R381, R405, R453). -/
def pageOf (s : State) (ea : DWord) (n : Nat) (k : Kind) (e : DWord) (pa : Nat) : Prop :=
  let va := (ea.extractLsb' 0 56).toNat
  let w := walkPath s (dieOf s.cur) s.core.asid va
  ea.extractLsb' 56 4 = 0 ∧ (∀ p, oldXl s s.cur va p = []) ∧ permFault k e = none ∧ counted s s.cur = false ∧
    (∃ b z, w.2 = .ok e b z ∧ b ≤ va ∧ va + n ≤ b + z ∧ pa = pteFrame e + (va - b)) ∧
    ∀ i, i < n → mapOk s (pa + i) (pteLoc e) = true ∧ usable s (dieOf s.cur) (pa + i) = true ∧ poisoned s (pa + i) = false

end Sys2Proof.Tables

/-- Each copy instruction commits, and the copy engine's own turns then complete it (R20, R51, R177, R268 to R276, R384): one takes
its waits, one issues it, one forms its chunk, one moves up to 512 bytes. Here it has `m` elements, at most 64, the engine is free,
and memory but the pages of tags and of a prefetch is the core's own TCM, no element read being written by it and none written
twice. `xcopy` moves, `xfill` fills, `xgath` and `xscat` move by their index list, `xsadd` and `xred` add, `xbcast` writes each
member of its mask (R271 to R273); `xtag` sets the tag of a granule, `xtagrd` reads the tags of two (R274); `xenq` sends its entry
when the inbox grants it (R275, R464); `xpref` of a byte leaves its page's translation (R276). -/
def Sys2Proof.Parts.CopyCompletes : Prop :=
  ∀ (h : Hal) (d a b : Reg) (f : CopyF) (m : Nat) (s : State), Tables.MayCopy s h f → f.dsp = 2 → f.ssp = 2 → 1 ≤ m → m ≤ 64 →
    let n := s.cur
    let D := (reg s d).toNat
    let A := (reg s a).toNat
    let cnt := reg s b
    let turn (t : State) : State := cpyTurn t n
    let four (t : State) : State := turn (turn (turn (turn t)))
    let at' (t : State) (x w : Nat) : Nat := valueAt t (.tcm n x) w
    let does (i : Instr) (p : State → Prop) : Prop :=
      ∃ t, exec i s = .next t ∧ ((four t).coreN n).cpy.flight = [] ∧ ((four t).coreN n).cpy.queue = [] ∧ p (four t)
    let src := Tables.inTcm s A (8 * m) 8
    let dst := Tables.inTcm s D (8 * m) 8
    let apart (x y w : Nat) : Prop := x + w ≤ y ∨ y + w ≤ x
    (cnt = BitVec.ofNat 64 (8 * m) →
      (dst → does (.xfill h d a b f) fun t => ∀ e, e < m → at' t (D + 8 * e) 8 = A) ∧
      (dst → src → apart D A (8 * m) →
        does (.xcopy h d a b f) (fun t => ∀ e, e < m → at' t (D + 8 * e) 8 = at' s (A + 8 * e) 8) ∧
        ((reg s (a + 1)).toNat < 2 ^ 24 → (∀ r, (reg s (a + 1)).getLsbD r = true → r < (s.gangOf n).g) →
          does (.xbcast h d a b f) fun t => ∀ r k, (reg s (a + 1)).getLsbD r = true → (s.gangOf n).coreAt r = some k →
            ∀ e, e < m → valueAt t (.tcm k (D + 8 * e)) 8 = at' s (A + 8 * e) 8))) ∧
    (∀ fmt : BitVec 4, cnt = BitVec.ofNat 64 (fmt.toNat * 2 ^ 40 + m) →
      let z := fmtBits fmt / 8
      let L := (reg s (a + 1)).toNat
      let ix (e : Nat) : Int := toS 32 (at' s (L + 4 * e) 4)
      -- the place of the element that an index names
      let place (base : Nat) (p : Nat → Nat) : Prop :=
        base < (s.gangOf n).tcmBlocks * 4096 ∧ ∀ e, e < m → (p e : Int) = base + ix e * z ∧ Tables.inTcm s (p e) z z
      (∀ p : Nat → Nat, xFmtOk .gath fmt = true → Tables.inTcm s L (4 * m) 4 →
        (place A p → Tables.inTcm s D (z * m) z → (∀ e e', e < m → e' < m → p e ≠ D + z * e') →
          does (.xgath h d a b f) fun t => ∀ e, e < m → at' t (D + z * e) z = at' s (p e) z) ∧
        (place D p → Tables.inTcm s A (z * m) z → (∀ e e', e < m → e' < m → p e ≠ A + z * e' ∧ (e ≠ e' → p e ≠ p e')) →
          does (.xscat h d a b f) (fun t => ∀ e, e < m → at' t (p e) z = at' s (A + z * e) z) ∧
          (xFmtOk .sadd fmt = true → does (.xsadd h d a b f) fun t => ∀ e, e < m →
            at' t (p e) 4 = xAdd fmt (at' s (p e) 4) (at' s (A + 4 * e) 4) % 2 ^ 32))) ∧
      (xFmtOk .red fmt = true → Tables.inTcm s D (4 * m) 4 → Tables.inTcm s A (4 * m) 4 → apart D A (4 * m) →
        does (.xred h d a b f) fun t => ∀ e, e < m → at' t (D + 4 * e) 4 = xAdd fmt (at' s (D + 4 * e) 4) (at' s (A + 4 * e) 4) % 2 ^ 32)) ∧
    (∀ e pa, cnt = 32 → D % 32 = 0 → A < 16 → Tables.pageOf s (reg s d) 32 .tagSet e pa →
      does (.xtag h d a b f) fun t => (tagOf t pa).toNat = A ∧ AllBytes s t) ∧
    (∀ e pa, cnt = 64 → A % 32 = 0 → Tables.inTcm s D 1 1 → Tables.pageOf s (reg s a) 64 .load e pa →
      let tag (x : Nat) : Nat := if pteTg e then (tagOf s x).toNat else 0
      does (.xtagrd h d a b f) fun t => at' t D 1 = tag (pa + 32) * 16 + tag pa) ∧
    (let x := reg s d
     let k := enqCore x
     let b4 := (x.extractLsb' 0 4).toNat
     let c := s.coreN k
     cnt = 1 → x.toNat < 2 ^ 24 → x.extractLsb' 4 4 = 0 → (x.extractLsb' 8 5).toNat < 24 → enqLocal s x = true → Tables.inTcm s A 32 32 → f.scope = 0 →
      c.hasTask = true → c.asid = s.core.asid → c.latched = false → dieOf k = dieOf n → enqRoom c b4 = true →
      (∀ j, enqWants k b4 s j = false) → (∀ e ∈ s.mail, e.granted = false → e.dst = k → e.inbox ≠ b4) → counted s n = false →
      ∃ t u w, exec (.xenq h d a b f) s = .next t ∧ exec (.inboxReservationGrant n f.pt.toNat) (four t) = .next u ∧
        (u.coreN n).cpy.flight = [] ∧ u.mail = s.mail ++ [w] ∧ w.dst = k ∧ w.inbox = b4 ∧ w.granted = true ∧ w.data.toNat = at' s A 32) ∧
    (cnt = 1 → (reg s a).extractLsb' 56 4 = 0 → does (.xpref h a b f) fun t => AllBytes s t ∧ ∀ e pa, Tables.pageOf s (reg s a) 1 .load e pa →
      (t.coreN n).tlb.any (fun y => y.covers s.core.asid ((reg s a).extractLsb' 0 56).toNat && y.pte == e) = true)

/-- Held signals, tokens, profile samples, the entries that fill the operand queues, and the copies from their posting to their last element,
with the model's choices of logs 21 and 77 (R53, R55, R57, R258, R259, R268 to R276, R384, R452). -/
def Obligations.SignalAndFillEvents : Prop := Parts.SignalEvents ∧ Parts.FillEvents ∧ Parts.CopyCompletes

/-- One update issues from the `gupd` at the head when its rows are in state G and its entries are there in its formats: they are
popped, with the parity errors found (R116, R263, R436). The oldest issued update retires: each cell within its rows and columns takes
its sum, every other keeps its value (R86 to R88, R264, R265). The lowest eligible row is handed over (R107), also while the engine is
stopped at a posted fault (log 77), and an update waits for those before it in its own `gupd` and for no earlier one (log 81): the
model's choices. -/
def Sys2Proof.Parts.GridEvents : Prop :=
  ∀ (n : Nat) (s : State),
    let c := s.coreN n
    (∀ p h a fa fb half na nb, grdReady c = some p → p.instr = .gupd h a fa fb half → p.prog < p.a.toNat →
      shapeOf fa half = (na, nb) → (∀ i ∈ halfRows half, rowGet c.grd i = .g) → na ≤ c.str.qa.length → nb ≤ c.str.qb.length →
      (∀ e ∈ c.str.qa.take na, e.fmt = fa) → (∀ e ∈ c.str.qb.take nb, e.fmt = fb) → (∀ x ∈ c.grd.issued, x.last = true) → ∀ ups,
      ∃ t u, exec (.gridUpdate ⟨n, ups⟩) s = .next t ∧ (t.coreN n).grd.issued = c.grd.issued ++ [u] ∧
        u.qa = markEntries ups false c.str.badA (c.str.qa.take na) ∧ u.qb = markEntries ups true c.str.badB (c.str.qb.take nb) ∧
        (t.coreN n).str.badA = keepBad ups false c.str.badA (c.str.qa.take na) ∧
        (t.coreN n).str.badB = keepBad ups true c.str.badB (c.str.qb.take nb) ∧ u.half = half ∧ u.cols = c.grd.cols ∧ u.rows = c.grd.lim ∧
        (t.coreN n).str.qa = c.str.qa.drop na ∧ (t.coreN n).str.qb = c.str.qb.drop nb ∧ (t.coreN n).grd.cells = c.grd.cells) ∧
    (∀ u us, c.grd.issued = u :: us → grdAlive c = true → u.cols ≤ 384 → u.half ≠ 3 → ∃ t, exec (.updateRetire n .ok) s = .next t ∧
      (t.coreN n).grd.issued = us ∧ ∀ i j, i < 256 → j < 384 → cellGet (t.coreN n).grd i j =
        if halfHas u.half i = true ∧ i % 128 < u.rows ∧ j < u.cols then (updCell u i j (cellGet c.grd i j)).1
        else cellGet c.grd i j) ∧
    (c.grd.issued = [] → ∀ k, exec (.updateRetire n k) s = .next s) ∧
    (∀ i, engOk c = true → i < 256 → rowGet c.grd i = .gr → (∀ u ∈ c.grd.issued, halfHas u.half i = false) →
      (∀ j, j < i → rowGet c.grd j ≠ .gr ∨ ∃ u ∈ c.grd.issued, halfHas u.half j = true) →
      ∃ t, exec (.rowHandover n) s = .next t ∧ ∀ j, rowGet (t.coreN n).grd j = if j = i then .v else rowGet c.grd j)

/-- What the two engines do with the instruction at their head, its waits taken: each sets the register or
the row states it names and leaves its queue with its signals made (R106, R256, R257, R265 to R267, R279). -/
def Sys2Proof.Parts.EngineResults : Prop :=
  ∀ (n : Nat) (s : State) (p : Posted) (h : Hal) (d a b : Reg) (q fmt : BitVec 4) (sp ssp j tgt : BitVec 2) (k : Bool),
    let c := s.coreN n
    let r := strGet c q
    let reset (r : StreamReg) : StreamReg := { r with active := false, pos := 0, ahead := [] }
    let after (r' : StreamReg) (h : Hal) : State := strDone (s.updN n fun c => strPut c q r') n p h
    (p.instr = .qbase h a b q sp ssp →
      strWork s n p = after (reset { r with base := p.a, sp := sp, sbase := if b = 0 then 0 else p.b, ssp := ssp }) h) ∧
    (p.instr = .qfmt h a q fmt tgt → strWork s n p = after (reset { r with fmt := fmt, target := tgt, mcast := p.a.setWidth 24 }) h) ∧
    (p.instr = .qdim h d a b q j k → ∃ r', strWork s n p = after r' h ∧ r'.cnt j.toNat = p.a.toNat ∧
      smGet 0 r'.stride j.toNat = p.b.toInt ∧ smGet 0 r'.sstride j.toNat = p.d.toInt ∧ r'.active = false ∧ r'.pos = 0 ∧
      ∀ m, m ≠ j.toNat → r'.cnt m = r.cnt m) ∧
    (p.instr = .qstart h a q → strWork s n p = after { r with pos := p.a.toNat % r.total, active := true } h) ∧
    (p.instr = .qstop h q → strWork s n p = after { r with active := false, ahead := [] } h) ∧
    (p.instr = .stbind h a q → strWork s n p = after { r with recEn := p.a.getLsbD 20, recId := p.a.setWidth 20 } 0) ∧
    (∀ (c1 : BitVec 9) (r1 : BitVec 7), p.instr = .glim h c1 r1 → grdWork s n p =
      grdSignal (grdPop (s.updN n fun c => c.updGrd fun g => { g with cols := c1.toNat + 1, lim := r1.toNat + 1 }) n) n h) ∧
    (∀ v m : BitVec 8, p.instr = .gdone h v m → v.toNat + m.toNat < 256 → ∀ i,
      rowGet ((grdWork s n p).coreN n).grd i =
        if v.toNat ≤ i ∧ i ≤ v.toNat + m.toNat ∧ rowGet c.grd i = .g then .gr else rowGet c.grd i) ∧
    (∀ v m : BitVec 8, p.instr = .gclr h v m → (∀ i, v.toNat ≤ i → i ≤ v.toNat + m.toNat → rowGet c.grd i = .g) → c.grd.issued = [] →
      ∀ i x, x < 384 → cellGet ((grdWork s n p).coreN n).grd i x =
        if v.toNat ≤ i ∧ i ≤ v.toNat + m.toNat then 0 else cellGet c.grd i x) ∧
    (p.instr = .gchk h → c.grd.issued = [] → grdWork s n p = grdSignal (grdPop s n) n h) ∧
    (p.instr = .gchk h → c.grd.issued ≠ [] → grdWork s n p = s)

/-- Each stream instruction commits, and the engine's own turns complete it: one takes its waits, one works, for `qstat` two more write
its words (R20, R51, R177, R255). `qbase`, `qdim` and `qfmt` set fields of their register and leave it inactive (R256); `qstart` and
`qstop` set its walk, `qstat` writes the position and the fields (R257); `qfill` pushes an entry (R258), `qrow` loads a row (R260),
`qstore` stores one (R261). Here the engine is free, memory is the core's own TCM, the `qfill` has one entry for `qa`, the `qrow` and
`qstore` one row, without convert or record. -/
def Sys2Proof.Parts.StreamCompletes : Prop :=
  ∀ (h : Hal) (d a b : Reg) (q q2 fmt : BitVec 4) (sp ssp j tgt m : BitVec 2) (k : Bool) (tk : BitVec 5) (sc : BitVec 3) (v : BitVec 8)
    (s : State), Tables.MayWork s h 1 → s.core.str.stopped = false → portHeld s.core = false →
    let n := s.cur
    let x := reg s a
    let y := reg s b
    let z := reg s d
    let r := strGet s.core q
    let two (t : State) : State := strTurn (strTurn t n) n
    -- the instruction commits, and after those turns its register is as told and the queue empty again
    let does (i : Instr) (turns : State → State) (p : State → StreamReg → Prop) : Prop :=
      ∃ t, exec i s = .next t ∧ ((turns t).coreN n).str.queue = [] ∧ p (turns t) (strGet ((turns t).coreN n) q)
    (formOnly s sp x = none → (b ≠ 0 → formOnly s ssp y = none) → does (.qbase h a b q sp ssp) two fun _ e =>
      e.base = x ∧ e.sp = sp ∧ e.sbase = (if b = 0 then 0 else y) ∧ e.ssp = ssp ∧ e.active = false ∧ e.pos = 0) ∧
    (1 ≤ x.toNat → x.toNat ≤ 65535 → (y.setWidth 48).signExtend 64 = y → (z.setWidth 48).signExtend 64 = z →
      does (.qdim h d a b q j k) two fun _ e => e.cnt j.toNat = x.toNat ∧ smGet 0 e.stride j.toNat = y.toInt ∧
        smGet 0 e.sstride j.toNat = z.toInt ∧ e.active = false ∧ e.pos = 0) ∧
    (x.toNat < 2 ^ 24 → (tgt ≠ 0 → x = 0) → (∀ i, x.getLsbD i = true → i < (s.gangOf n).g) →
      does (.qfmt h a q fmt tgt) two fun _ e => e.fmt = fmt ∧ e.target = tgt ∧ e.mcast = x.setWidth 24 ∧ e.active = false ∧ e.pos = 0) ∧
    (x.toNat < 2 ^ 48 → does (.qstart h a q) two fun _ e => e.pos = x.toNat % r.total ∧ e.active = true) ∧
    does (.qstop h q) two (fun _ e => e.active = false ∧ e.pos = r.pos) ∧
    (Tables.inTcm s x.toNat 16 16 → tk.toNat < (s.gangOf n).tokens → tokPending s.core tk.toNat = false → r.pos < 2 ^ 48 →
      does (.qstat h a q 2 tk) (two ∘ two) fun t _ => valueAt t (.tcm n x.toNat) 8 = r.pos ∧
        valueAt t (.tcm n (x.toNat + 8)) 8 = (if r.active then 1 else 0) + r.fmt.toNat * 2 ^ 8 + r.target.toNat * 2 ^ 16 +
          ((if r.recEn then 2 ^ 20 else 0) + r.recId.toNat) * 2 ^ 32) ∧
    (x = 1 → r.illegal 0 = false → r.mcast = 0 → s.core.str.qa.length < 16 → Tables.walksTcm s r 128 →
      does (.qfill h a (.stream q) (.stream q2) 1 0) two fun t e => e.pos = (r.pos + 128) % r.total ∧ ∃ w,
        (t.coreN n).str.qa = s.core.str.qa ++ [w] ∧ w.fmt = r.fmt ∧ w.elems = (nats 0 128).map (Tables.walkVal s r)) ∧
    (let bits := fmtBits r.fmt
     let per := 384 * (32 / bits)
     Tables.walksTcm s r per → x = 1 →
      (r.illegal 1 = false → rowGet s.core.grd v.toNat = .v → does (.qrow h a q v) two fun t e => e.pos = (r.pos + per) % r.total ∧
        ∀ i, i < per → elemGet (t.coreN n).grd (.row v) bits i = Tables.walkVal s r i) ∧
      (r.illegal 2 = false → r.recEn = false → rowGet s.core.grd v.toNat = .v →
        (∀ i i', i < per → i' < per → i ≠ i' → (r.addr ((r.pos + i) % r.total)).1 ≠ (r.addr ((r.pos + i') % r.total)).1) →
        does (.qstore h a q false (v.setWidth 9) false m tk sc false) two fun t e => e.pos = (r.pos + per) % r.total ∧
          ∀ i, i < per → Tables.walkVal t r i = elemGet s.core.grd (.row v) bits i))

/-- Each grid instruction commits, and the engine's own turns then complete it: a first that takes its waits, a second that works,
for `gupd` a third that retires its update (R20, R51, R177, R264). `glim` sets the limits (R265), `gclr` clears its rows once they are in
state G, `gdone` releases them (R266), `gchk` ends with no update in flight (R267); a `gupd` of one update gives each target cell its
sum (R86 to R88, R263 to R265). Here the engine is free and owes no fault, no row waits to be handed over, and no entry is poisoned. -/
def Sys2Proof.Parts.GridCompletes : Prop :=
  ∀ (h : Hal) (a : Reg) (fa fb : BitVec 4) (half : BitVec 2) (v m : BitVec 8) (c1 : BitVec 9) (r1 : BitVec 7) (s : State),
    Tables.MayWork s h 2 → s.core.grd.stopped = false → s.core.grd.issued = [] → s.core.grd.owed = [] → eligibleRow s.core = none →
    let n := s.cur
    let g := s.core.grd
    let q := s.core.str
    let two (t : State) : State := grdTurn (grdTurn t n) n
    let does (i : Instr) (turns : State → State) (p : Grd → Prop) : Prop :=
      ∃ t, exec i s = .next t ∧ ((turns t).coreN n).grd.queue = [] ∧ p ((turns t).coreN n).grd
    let hit (i : Nat) : Prop := v.toNat ≤ i ∧ i ≤ v.toNat + m.toNat
    does (.glim h c1 r1) two (fun e => e.cols = c1.toNat + 1 ∧ e.lim = r1.toNat + 1 ∧ e.cells = g.cells) ∧
    (v.toNat + m.toNat < 256 → does (.gdone h v m) two fun e => e.cells = g.cells ∧
      ∀ i, (hit i → rowGet g i = .g → rowGet e i = .gr) ∧ (¬ hit i → rowGet e i = rowGet g i)) ∧
    (v.toNat + m.toNat < 256 → (∀ i, hit i → rowGet g i = .g) → does (.gclr h v m) two fun e =>
      ∀ i j, j < 384 → (hit i → cellGet e i j = 0) ∧ (¬ hit i → cellGet e i j = cellGet g i j)) ∧
    does (.gchk h) two (fun e => e.cells = g.cells ∧ e.issued = []) ∧
    (∀ na nb, reg s a = 1 → half ≠ 3 → shapeOf fa half = (na, nb) → (∀ i ∈ halfRows half, rowGet g i = .g) → na ≤ q.qa.length →
      nb ≤ q.qb.length → (∀ w ∈ q.qa.take na, w.fmt = fa ∧ w.badElem = [] ∧ w.badScale = []) →
      (∀ w ∈ q.qb.take nb, w.fmt = fb ∧ w.badElem = [] ∧ w.badScale = []) → q.badA = [] → q.badB = [] → g.cols ≤ 384 →
      does (.gupd h a fa fb half) (fun t => grdTurn (two t) n) fun e => e.issued = [] ∧ ∃ u : Upd, u.qa = q.qa.take na ∧
        u.qb = q.qb.take nb ∧ u.half = half ∧ u.int = (gupdClass fa == some 3) ∧
        ∀ i j, i < 256 → j < 384 → cellGet e i j =
          if halfHas half i = true ∧ i % 128 < g.lim ∧ j < g.cols then (updCell u i j (cellGet g i j)).1 else cellGet g i j)

/-- The grid and the stream engine carry out what is posted to them (R106, R107, R256 to R258, R260, R261, R263 to R267). -/
def Obligations.GridAndStreamEngines : Prop := Parts.GridEvents ∧ Parts.EngineResults ∧ Parts.StreamCompletes ∧ Parts.GridCompletes

/-! ### Events of a core and of its gang -/

/-- A due trap is entered, the arrival interrupt enters its handler with its lowest source (R241, R363, R364); a `waitge`, a
`pause` and a `pend.cad` at the PC go on by their own meanings (R153, R229, R245); aged combining entries are sent and the oldest
one sent applies (R164 to R166); a granted inbox entry arrives (R464); acknowledgements and reports reach their core (R149,
R388). -/
def Sys2Proof.Parts.CoreEvents : Prop :=
  ∀ (n : Nat) (s : State),
    let c := s.coreN n
    (∀ t, dueTrap c = some t → exec (.trapEntry n) s = .next (takeDue s n t)) ∧
    (dueTrap c = none → exec (.trapEntry n) s = .next s) ∧
    (∀ k, arrivalNow s n = true → c.ctl.arrPend.getLsbD k = true → (∀ j, j < k → c.ctl.arrPend.getLsbD j = false) →
      ∃ t, exec (.arrivalInterruptEntry n) s = .next t ∧
        let d := (t.coreN n).ctl
        d.pc = c.ctl.arrHandler ∧ d.arrRet = c.ctl.pc ∧ d.inHandler = true ∧ smGet 0 d.shadow 56 = BitVec.ofNat 64 k ∧
        (∀ j, d.arrPend.getLsbD j = (c.ctl.arrPend.getLsbD j && j != k)) ∧ d.s = c.ctl.s ∧ d.fflags = c.ctl.fflags) ∧
    (∀ (e : Nat), exec (.combiningEntryAgeOut n e) s = .next (sendComb s n fun k x => k == e && decide (4096 ≤ x.age))) ∧
    (∀ e es, s.recs = e :: es → exec .recordEntryApply s = .next (applyEntry { s with recs := es } e)) ∧
    (s.recs = [] → exec .recordEntryApply s = .next s) ∧
    (∀ (b : BitVec 4) (m : Mail), s.mail.find? (fun m => m.dst == n && m.inbox == b.toNat && m.granted && !m.arrived) = some m → c.frozen = false → m.ack = false →
      ∃ t, exec (.inboxEntryArrive n b) s = .next t ∧ inboxGet (t.coreN n) b.toNat = inboxGet c b.toNat ++ [m.data] ∧
        t.mail = s.mail.erase m) ∧
    (∀ lane, (⟨n, lane⟩ : Ack) ∈ s.acks → c.frozen = false → ∃ t, exec (.scatterAcknowledgement n lane) s = .next t ∧
      t.acks = s.acks.erase ⟨n, lane⟩ ∧ smGet 0 (t.coreN n).vec.scat lane = smGet 0 c.vec.scat lane - 1) ∧
    (∀ r rs, c.inflight = r :: rs → c.frozen = false → ∃ t, exec (.storeMismatchReportArrival n) s = .next t ∧
      (t.coreN n).inflight = rs ∧ (t.coreN n).reports = c.reports ++ [r]) ∧
    (∀ slot fl h f, flGet c slot = some fl → xView fl.p.instr = some (.enq, h, f) → cpyAlive c = true → fl.p.partA.length = 4 →
      fl.stopped = false →
      exec (.inboxReservationGrant n slot) s = .next (enqRequest s n fl f))

/-- The waits that end by themselves make their instruction's own step: a read of the `waitge`, the end of the `pause`, the test
of the `pend.cad` at the PC of a core that can go on, each with its core acting; a watchpoint that the step hits is answered
(R153, R154, R245, R443). A core at another instruction answers no more than that. -/
def Sys2Proof.Parts.WaitEvents : Prop :=
  ∀ (n : Nat) (s : State) (i : Instr),
    let c := s.coreN n
    let at' := { s with cur := n }
    ctlAlive c = true → c.ctl.exiting = false → c.ctl.exitOwed = false → c.latched = false → instrAt s n = some i → dueTrap c = none →
      (∀ h a b m, i = .waitge h a b m → ∃ t, exec i at' = .next t ∧ exec (.waitgeRead n) s = .next (watchAnswer { t with cur := s.cur } n)) ∧
      (∀ h e, i = .pause h → c.ctl.pauseEnd = some e → e.toNat ≤ s.clock.toNat →
        ∃ t, exec i at' = .next t ∧ exec (.pauseEnd n) s = .next (watchAnswer { t with cur := s.cur } n)) ∧
      (∀ h b, i = .pendCad h b → c.ctl.pendArrived = false → c.ctl.cadTested = false → cadenceOver at' b = true →
        ∃ t, exec i at' = .next t ∧ exec (.cadenceElapsed n) s = .next (watchAnswer { t with cur := s.cur } n)) ∧
      ((∀ h a b m, i ≠ .waitge h a b m) → exec (.waitgeRead n) s = .next (watchAnswer s n))

/-- What happens at a boundary of the C-stream and in its combining buffers, inboxes and reports, and how waits end (R149, R153, R164 to R166, R229, R241, R245, R363, R388, R464). -/
def Obligations.CoreAndWaitEvents : Prop := Parts.CoreEvents ∧ Parts.WaitEvents

/-! ### Events of the command processors -/

namespace Sys2Proof.Tables

/-- The next entry of a queue that can be consumed: the queue stands, its die is ready, and the tail that its control block
holds is `n` entries on (R397). -/
def Posts (s : State) (k : Nat) (q : Queue) (n : Nat) : Prop :=
  smFind s.queues k = some q ∧ q.live = true ∧ q.qstatus = 0 ∧ readyBit s (38 + q.home) = true ∧
    ∃ tail, cpRead s q.home q.asid q.ctl.toNat 4 = some tail ∧ n = (BitVec.ofNat 32 tail - q.head).toNat

end Sys2Proof.Tables

/-- A queue's next descriptor is consumed: a tail too far on and an entry that cannot be read stop the queue, a descriptor that
breaks R34 and one that a cancelled token reaches become a launch that has ended, with the next number and no task to start; another
becomes a launch with its tasks (R34, R397 to R399, R409), held on a die of its tasks where it is guaranteed and finds no room
(R407). -/
def Sys2Proof.Parts.DescriptorConsumption : Prop :=
  ∀ (k n : Nat) (s : State) (q : Queue), Tables.Posts s k q n →
    let plain (l : Launch) : Launch := { l with held := [] }
    (n = 0 → exec (.descriptorConsume k) s = .next s) ∧
    (2 ^ q.ringLog < n → ∃ t, exec (.descriptorConsume k) s = .next t ∧ smFind t.queues k = some { q with qstatus := 1 } ∧
      t.launches = s.launches) ∧
    (0 < n → n ≤ 2 ^ q.ringLog → readEntry s q = none → ∃ t, exec (.descriptorConsume k) s = .next t ∧
      smFind t.queues k = some { q with qstatus := 2 } ∧ t.launches = s.launches) ∧
    ∀ d, 0 < n → n ≤ 2 ^ q.ringLog → readEntry s q = some d →
      (descOk d = true → ringCancelled q ((descWord (mkLaunch s k q d) 5).setWidth 32) = false →
        ∃ t, exec (.descriptorConsume k) s = .next t ∧ smFind t.queues k = some { q with head := q.head + 1 } ∧
          t.nextLaunch = s.nextLaunch + 1 ∧
          (∀ j, (smFind t.launches j).map plain =
            if j = s.nextLaunch + 1 then some (plain (mkLaunch s k q d)) else (smFind s.launches j).map plain) ∧
          ∀ die, die < 4 → guarWaits die (mkLaunch s k q d) = true → guarRoom s die (dF d 3 0 5) = false →
            ∃ l, smFind t.launches (s.nextLaunch + 1) = some l ∧ die ∈ l.held) ∧
      (descOk d = false ∨ ringCancelled q ((descWord (mkLaunch s k q d) 5).setWidth 32) = true →
        ∃ t, exec (.descriptorConsume k) s = .next t ∧ (smFind t.queues k).map (·.head) = some (q.head + 1) ∧
          t.nextLaunch = s.nextLaunch + 1 ∧
          t.launches = smPut s.launches (s.nextLaunch + 1) { mkLaunch s k q d with waiting := [], ended := true })

/-- A cancellation request is acknowledged and acts on every launch of the ASID with its token; token 0, which is none, acts on
none (R408, R409). -/
def Sys2Proof.Parts.CancellationRequest : Prop :=
  ∀ (k v : Nat) (s : State) (q : Queue), smFind s.queues k = some q → q.live = true → readyBit s (38 + q.home) = true →
    cpRead s q.home q.asid (q.ctl.toNat + 0x40) 4 = some v →
    let tok : BitVec 32 := BitVec.ofNat 32 v
    (tok = q.cancelAck → exec (.cancelRequest k) s = .next s) ∧
    (tok ≠ q.cancelAck → ∃ t, exec (.cancelRequest k) s = .next t ∧ (smFind t.queues k).map (·.cancelAck) = some tok ∧
      (tok = 0 → t.launches = s.launches ∧ t.gangs = s.gangs) ∧
      (tok ≠ 0 → ∀ j l, smFind t.launches j = some l → l.asid = q.asid → (descWord l 5).setWidth 32 = tok →
        l.ended = true ∨ l.cancelled = true))

/-- The dispatcher places the first task in its order that can be placed, and nothing where none can or its die is not ready
(R402). It marks first which guaranteed launches are held (R407); that no task of one that stands behind a held one is in the order is
the model's choice (log 64). -/
def Sys2Proof.Parts.Dispatching : Prop :=
  ∀ (die : Nat) (s : State),
    (readyBit s (38 + die) = false → exec (.dispatch die) s = .next s) ∧
    (readyBit s (38 + die) = true →
      let m := markHeld s die
      { m with launches := [] } = { s with launches := [] } ∧
      ((∀ c ∈ candidates m die, place m die c = none) → exec (.dispatch die) s = .next m) ∧
      (∀ pre c post t, candidates m die = pre ++ c :: post → (∀ x ∈ pre, place m die x = none) → place m die c = some t →
        exec (.dispatch die) s = .next t) ∧
      ∀ j k l c, smFind m.launches j = some l → guarWaits die l = true → die ∈ l.held → j < k →
        (∀ p ∈ m.launches, p.1 = k → dF p.2.desc 3 51 1 = 1) → Cand.fresh k die c ∉ candidates m die)

/-- A task starts on all its cores together with the registers of R42 and R43: the argument, its C and D index, the launch id
and the trips of the T levels in `s1` to `s10`, every other register zero, at its entry at task privilege, the vector engine at
its start or halted (R40, R42, R43). -/
def Sys2Proof.Parts.TaskStart : Prop :=
  ∀ (s : State) (k d c cl b : Nat) (l : Launch) (cores slots : List Nat), cores.Nodup → cores.length = dF l.desc 3 0 5 →
    let t := startGang s k l d c cl cores slots b
    (t.gangN s.nextGang).cores = cores ∧ (t.gangN s.nextGang).launch = k ∧
    ∀ r n, cores[r]? = some n →
      let x := t.coreN n
      x.gang = s.nextGang ∧ x.rank = r ∧ x.asid = l.asid ∧ x.run = .run ∧ x.ctl.priv = 0 ∧
      x.ctl.pc = (descWord l 0).setWidth 56 ∧ x.vec.pc = (descWord l 1).setWidth 56 ∧
      (x.vec.halted = true ↔ (descWord l 1).setWidth 56 = (0 : VAddr)) ∧ x.ctl.fflags = 0 ∧
      regGet x 1 = descWord l 2 ∧ regGet x 2 = BitVec.ofNat 64 c ∧ regGet x 3 = BitVec.ofNat 64 d ∧ regGet x 4 = l.id.setWidth 64 ∧
      (∀ i, i < 6 → regGet x (BitVec.ofNat 6 (5 + i)) = BitVec.ofNat 64 ((dTrips l.desc 1).getD i 0)) ∧
      ∀ i : Reg, 11 ≤ i.toNat → regGet x i = 0

/-- Launches are consumed, cancelled and dispatched (that no later guaranteed launch comes before a held one is the model's choice, log
64), and a task starts (R40 to R43, R397, R398, R402, R408, R409). -/
def Obligations.CommandProcessors : Prop := Parts.DescriptorConsumption ∧ Parts.CancellationRequest ∧ Parts.Dispatching ∧ Parts.TaskStart

namespace Sys2Proof.Tables

/-- The five management operations with their events. -/
def mgmtOps : List (Nat × Instr) :=
  [(1, .mgmtCreateAsid), (2, .mgmtRetireAsid), (3, .mgmtSetClass), (4, .mgmtRegisterQueue), (5, .mgmtDeregisterQueue)]
/-- The command processor of die 0 is ready, and the management block, with no poison, holds a request that has not been answered
(R392, R479). -/
def Asks (s : State) (op : Nat) : Prop :=
  readyBit s 38 = true ∧ memRd s.mem s.mgmtBase 4 = (memRd s.mem (s.mgmtBase + 8) 4 + 1) % 2 ^ 32 ∧
    runBad s s.mgmtBase 256 = false ∧ memRd s.mem (s.mgmtBase + 0x10) 8 = op
/-- The reserved fields of the block that no operation covers are zero (R479). -/
def reservedZero (s : State) : Prop :=
  memRd s.mem (s.mgmtBase + 4) 4 = 0 ∧ memRd s.mem (s.mgmtBase + 13) 3 = 0 ∧ memRd s.mem (s.mgmtBase + 0x80) 128 = 0
/-- Two ranges of bytes share none. -/
def apart (a n b m : Nat) : Prop := a + n ≤ b ∨ b + m ≤ a

end Sys2Proof.Tables

/-- A request in the management block is answered with its number and the result of its operation; a request of another
operation is left, and one with a reserved field that is not zero is answered 0x01 (R479). What each operation does where its result is 0: the ASID's table entry and segments, its removal with
every translation of it, the class fields set aside, the queue registered under its number, the queue deregistered. -/
def Obligations.ManagementBlock : Prop :=
  ∀ (s : State) (p : Nat × Instr), p ∈ Tables.mgmtOps →
    let b := s.mgmtBase
    let arg := mgmtArg s
    let e := asidEntry s (BitVec.ofNat 10 (arg 0))
    (∀ op, Tables.Asks s op → 1 ≤ op → op ≤ 5 → op ≠ p.1 → exec p.2 s = .next s) ∧
    (memRd s.mem b 4 = memRd s.mem (b + 8) 4 → exec p.2 s = .next s) ∧
    (Tables.Asks s p.1 → ¬ Tables.reservedZero s → ∃ t, exec p.2 s = .next t ∧ memRd t.mem (b + 8) 4 = memRd s.mem b 4 ∧
      memRd t.mem (b + 12) 1 = 1 ∧ t.segs = s.segs ∧ t.queues = s.queues ∧ t.classes = s.classes ∧ t.cores = s.cores) ∧
    (Tables.Asks s p.1 → Tables.reservedZero s → ∃ t, exec p.2 s = .next t ∧ memRd t.mem (b + 8) 4 = memRd s.mem b 4 ∧
      memRd t.mem (b + 12) 1 = (match mgmtOp s with | .ok _ => 0 | .error r => r) ∧
      (∀ r, mgmtOp s = .error r → t.segs = s.segs ∧ t.queues = s.queues ∧ t.classes = s.classes ∧ t.cores = s.cores) ∧
      ∀ u out, mgmtOp s = .ok (u, out) →
        (p.1 = 1 → t.segs = u.segs ∧ (∀ d, d < 4 → memRd t.mem (b + 0x60 + 8 * d) 8 = (smGet 0 u.segs (4 * arg 0 + d)).toNat) ∧
          (Tables.apart e 16 b 0x80 → memRd t.mem e 8 = arg 1 + 1 ∧ memRd t.mem (e + 8) 8 = 0)) ∧
        (p.1 = 2 → (∀ d, d < 4 → smHas t.segs (4 * arg 0 + d) = false) ∧
          (∀ n, (t.coreN n).tlb.any (fun x => x.asid == BitVec.ofNat 10 (arg 0)) = false) ∧
          (Tables.apart e 16 b 0x80 → memRd t.mem e 8 = 0)) ∧
        (p.1 = 3 → (t.cls (BitVec.ofNat 4 (arg 0))).newFields = some (arg 1 == 1, arg 2, arg 3, arg 4)) ∧
        (p.1 = 4 → ∃ k q, memRd t.mem (b + 0x60) 8 = k % 2 ^ 64 ∧ smFind t.queues k = some q ∧ q.live = true ∧ q.qstatus = 0 ∧
          q.asid = BitVec.ofNat 10 (arg 0) ∧ q.ctl = BitVec.ofNat 56 (arg 1) ∧ q.cls = BitVec.ofNat 4 (arg 2) ∧
          q.ceiling = arg 3 ∧ q.home = arg 5 ∧ q.vector = arg 6) ∧
        (p.1 = 5 → (smFind t.queues (arg 0)).map (·.live) = some false))

/-! ### Events of gangs, budgets and classes -/

/-- A budget is reloaded once at the start of each period (R59); once it has run out, an elastic gang is pre-empted until the next
period and a guaranteed one stops at its deadline or, where its queue says so, ends as faulted (R61, R406, R424), here with no trap
of the task due in the same aclk; a class gets its new fields and its allowances at the start of its
period (R404), and one without a period its new fields at once, which is the model's choice (log 69); a held request of a guaranteed class is reported once in it (R405). -/
def Sys2Proof.Parts.BudgetEvents : Prop :=
  ∀ (g n : Nat) (k : BitVec 4) (s : State),
    let x := s.gangN g
    let num := (s.clock - x.base).toNat / (x.period * 6000)
    let held := s.gangOf n
    (smHas s.gangs g = true → x.period ≠ 0 → gangFrozen s x = false →
      (x.curPeriod < num → exec (.budgetPeriodStart g) s = .next (s.setGang g { x with curPeriod := num, budget := x.cycles })) ∧
      (num ≤ x.curPeriod → exec (.budgetPeriodStart g) s = .next s) ∧
      (x.ranOut = none → exec (.budgetExhausted g) s = .next s) ∧
      (∀ p, x.ranOut = some p → x.life = .resident → x.why = none → x.doom = none → gangHeld s x = false → (∀ m ∈ x.cores, dueTrap (s.coreN m) = none) →
        ∃ t, exec (.budgetExhausted g) s = .next t ∧ (t.gangN g).resumeAt = p + 1 ∧ (t.gangN g).ranOut = none ∧ Tables.Stopping s t g (if x.guaranteed = false then .budget else if deadlineEnds s x = true then .faulted else .deadline))) ∧
    (let c := s.cls k
     let f := c.newFields.getD (c.kind, c.cperiod, c.hbm, c.mesh)
     let per := if c.cperiod = 0 then 0 else s.clock.toNat / (c.cperiod * 6000)
     (c.num < per ∨ (c.cperiod = 0 ∧ c.newFields ≠ none) → ∃ t, exec (.classPeriodStart k) s = .next t ∧
       let d := t.cls k
       (d.kind, d.cperiod, d.hbm, d.mesh) = f ∧ d.newFields = none ∧
       ∀ i, i < 4 → smGet 0 d.hbmLeft i = f.2.2.1 ∧ smGet 0 d.meshLeft i = f.2.2.2) ∧
     (per ≤ c.num → c.newFields = none → exec (.classPeriodStart k) s = .next s)) ∧
    (∀ y, (s.coreN n).byteHeld = some y → (s.coreN n).hasTask = true → (s.cls (classOf s n)).kind = true → held.reported10 = false →
      ∃ t, exec (.byteBudgetHold n) s = .next t ∧ (t.gangOf n).reported10 = true) ∧
    ((s.coreN n).byteHeld = none ∨ held.reported10 = true ∨ (s.cls (classOf s n)).kind = false →
      exec (.byteBudgetHold n) s = .next s)

/-- A loaded gang resumes together (R423); a pre-emption whose reason holds latches at every core of a resident gang (R410); a due
reservation, of a saved gang or of the one task that has not started, pre-empts an elastic holder where fewer cores are free or on
their way than it needs (R407), in the order of the gangs' numbers and for a task that has not started at once: the model's choice (log
7); a rank's exit completes and the last one's ends the task (R44). An event that is not due changes
nothing. -/
def Sys2Proof.Parts.GangLife : Prop :=
  ∀ (g n cl : Nat) (why : StopWhy) (s : State),
    let x := s.gangN g
    let c := s.coreN n
    let y := s.gangOf n
    (Machine.loaded s g = true → x.why = none → ∃ t, exec (.gangResume g) s = .next t ∧ (t.gangN g).life = .resident ∧
      (t.gangN g).ranIn = some x.curPeriod ∧
      ∀ m ∈ x.cores, (t.coreN m).latched = false ∧ (t.coreN m).run = if (s.coreN m).ctl.exited = true then .stopped else .run) ∧
    (Machine.loaded s g = false → exec (.gangResume g) s = .next s) ∧
    (smHas s.gangs g = true → whyHolds s g why = true → gangHeld s x = false → x.life = .resident → x.why = none →
      ∃ t, exec (.preemptLatch g why) s = .next t ∧ Tables.Stopping s t g why) ∧
    (whyHolds s g why = false → exec (.preemptLatch g why) s = .next s) ∧
    (reservationDue s g = false → freshDue s = [] → exec (.guaranteedReservation g) s = .next s) ∧
    ((reservationDue s g = true ∧ cl = x.cluster) ∨ (reservationDue s g = false ∧ ∃ m, freshDue s = [(cl, m)]) →
      let there := gangsIn s cl
      let need := keptCores s cl - ((freeCores s cl).length +
        (there.filter fun p => p.2.life == .stopping).foldl (fun a p => a + p.2.g) 0)
      let elastic := there.filter fun p => p.2.life == .resident && !p.2.guaranteed
      (need = 0 → exec (.guaranteedReservation g) s = .next s) ∧
      (0 < need → ∀ h v rest, elastic = (h, v) :: rest → s.gangN h = v → v.why = none → gangHeld s v = false →
        ∃ t, exec (.guaranteedReservation g) s = .next t ∧ Tables.Stopping s t h .reservation)) ∧
    (ctlAlive c = true → exits c = true → exitReady c = true → c.latched = false → (∀ e ∈ s.recs, e.core ≠ n) → n ∈ y.cores →
      ((∃ m ∈ y.cores, m ≠ n ∧ (s.coreN m).ctl.exited = false) → ∃ t, exec (.rankExitComplete n) s = .next t ∧
        (t.coreN n).ctl.exited = true ∧ (t.coreN n).ctl.exiting = false ∧ (t.coreN n).run = .stopped ∧ t.gangs = s.gangs) ∧
      ((∀ m ∈ y.cores, m ≠ n → (s.coreN m).ctl.exited = true) → y.life = .resident → ∃ t, exec (.rankExitComplete n) s = .next t ∧
        t.gangs = smErase s.gangs (s.gid n) ∧ (∀ m ∈ y.cores, (t.coreN m).run = .free) ∧
        ∀ l, smFind s.launches y.launch = some l → ∃ u, smFind t.launches y.launch = some u ∧ u.done = l.done + 1 ∧
          u.running = l.running - 1)) ∧
    (exits c = false → exec (.rankExitComplete n) s = .next s)

/-- The save of a core begins once its engines have stopped, writes its slot in state 1, commits in state 2 once its items are
written and the drains are done, and frees the gang when every rank has committed; a den write that fails ends it with err; a soft
error stops it before its commit until it is restarted (R371, R412, R413, R415, R418, R419). -/
def Sys2Proof.Parts.ContextSaves : Prop :=
  ∀ (n : Nat) (s : State),
    let c := s.coreN n
    let x := s.gangOf n
    (c.frozen = false → c.ctxErr = false → coreStopped c = true → c.ctxOp = none → c.hasTask = true → c.savedAt = none →
      saves x = true → ∀ a, x.slots[c.rank]? = some a → denFailed s a = false → ∃ t, exec (.contextSave n) s = .next t ∧
        (t.coreN n).ctxOp = some (a, true, false) ∧ (t.coreN n).ctxErr = false ∧ denRd t (a + 7) 1 = 1) ∧
    (∀ a f, c.frozen = false → c.ctxErr = false → c.hasTask = true → c.ctxOp = some (a, true, f) → itemsDone s a = true →
      gangDrained s x = true → (denFailed s a = true → ∃ t, exec (.saveCommit n) s = .next t ∧ (t.coreN n).ctxOp = none ∧
        (t.coreN n).savedAt = c.savedAt ∧ (t.coreN n).ctxStat.getLsbD 1 = true ∧ t.gangs = s.gangs ∧ AllBytes s t) ∧
      (denFailed s a = false → (∃ m ∈ x.cores, m ≠ n ∧ (s.coreN m).savedAt = none) → ∃ t, exec (.saveCommit n) s = .next t ∧ denRd t (a + 7) 1 = 2 ∧
        (t.coreN n).savedAt = some a ∧ (t.coreN n).ctxOp = none ∧ (t.coreN n).ctl.event.getLsbD 3 = true ∧ t.gangs = s.gangs) ∧
      (denFailed s a = false → n ∈ x.cores → x.doom = none → (∀ m ∈ x.cores, (s.coreN m).run = .stopped ∧ (m ≠ n → (s.coreN m).savedAt ≠ none)) →
        (∀ l, smFind s.launches x.launch = some l → l.cancelled = false) → ∃ t, exec (.saveCommit n) s = .next t ∧
          (t.gangN (s.gid n)).life = .saved ∧ (t.gangN (s.gid n)).cores = [] ∧ ∀ m ∈ x.cores, (t.coreN m).run = .free)) ∧
    (saving c = true → exec (.contextEngineSoftError n) s = .next (s.updN n fun c => { c with ctxErr := true })) ∧
    (saving c = false → exec (.contextEngineSoftError n) s = .next s) ∧
    (c.ctxErr = true → c.frozen = false → exec (.saveRestart n) s = .next (s.updN n fun c => { c with ctxErr := false })) ∧
    (c.ctxErr = true → exec (.contextSave n) s = .next s ∧ exec (.saveCommit n) s = .next s) ∧
    (c.ctxErr = false → exec (.saveRestart n) s = .next s)

/-- Budgets, classes (one without a period takes new fields at once: the model's choice, log 69), the life of a gang and the saves of its
cores (R44, R59, R61, R404 to R407, R410 to R424). -/
def Obligations.GangsAndBudgets : Prop := Parts.BudgetEvents ∧ Parts.GangLife ∧ Parts.ContextSaves

/-! ### Memories, links, the host and peers -/

/-- A detected error makes its sector, its TCM word or its scratchpad word poisoned, whatever room the records of its controller
have, and changes no byte; a corrected one is counted for its die; a reset clears the record of a failed controller, and a freed
frame loses its entries and no other does (R387, R390, R391, R393). A port whose flit is replayed for the eighth time retrains, a
flit that passes ends its replays, one whose training, its first or a later one, does not end is not ready, and so is a failed edge
(R455, R459, R478). That a reset empties the record of a failed controller is the model's reading (log 51), and that a port which
retrained takes flits again at the next one its choice (log 68). -/
def Sys2Proof.Parts.LinkAndMemoryErrors : Prop :=
  ∀ (pa : BitVec 52) (p w : Nat) (fs : List (BitVec 40)) (s : State),
    let k := (smGet {} s.ports p).replays
    let scrub (e : MemEvent) : Instr := .backgroundScrub e
    let trains : Prop := (smGet {} s.ports p).retraining = true ∨
      (s.clocksOn = true ∧ readyBit s (16 + p) = false ∧ s.failed.getLsbD (16 + p) = false)
    (ctlOf pa.toNat ≠ none → ∃ t, exec (scrub (.sector pa)) s = .next t ∧ poisoned t pa.toNat = true ∧ AllBytes s t ∧
      t.cores = s.cores ∧ ∀ x, poisoned s x = true → poisoned t x = true) ∧
    (ctlOf pa.toNat = none → exec (scrub (.sector pa)) s = .next s ∧ exec (scrub (.corrected pa)) s = .next s) ∧
    (∀ j, ctlOf pa.toNat = some j → let d := if j < 8 then j / 2 else j - 8
      ∃ t, exec (scrub (.corrected pa)) s = .next t ∧ AllBytes s t ∧ t.cores = s.cores ∧
        smGet 0 t.ecc d = if smGet 0 s.ecc d = BitVec.allOnes 64 then smGet 0 s.ecc d else smGet 0 s.ecc d + 1) ∧
    (p < 192 → w < 0x20000 → ∃ t, exec (scrub (.tcmWord p w)) s = .next t ∧ w ∈ (t.coreN p).tcmPoison ∧ AllBytes s t ∧
      ∀ x ∈ (s.coreN p).tcmPoison, x ∈ (t.coreN p).tcmPoison) ∧
    (p < 8 → w < 6144 * 127 → ∃ t, exec (scrub (.spadWord p w)) s = .next t ∧ w ∈ (t.clu p).spPoison ∧ AllBytes s t ∧
      ∀ x ∈ (s.clu p).spPoison, x ∈ (t.clu p).spPoison) ∧
    ((smGet {} s.poison p).failed = true → ∃ t, exec (scrub (.reset p)) s = .next t ∧ smGet {} t.poison p = {} ∧ AllBytes s t) ∧
    ((smGet {} s.poison p).failed = false → exec (scrub (.reset p)) s = .next s) ∧
    (∃ t, exec (scrub (.freed fs)) s = .next t ∧ AllBytes s t ∧ ∀ a, ctlOf a ≠ none →
      poisoned t a = if (∃ f ∈ fs, f.toNat = a / 4096) ∧ (∀ j, ctlOf a = some j → (smGet {} s.poison j).failed = false) then false
        else poisoned s a) ∧
    (p < 18 → readyBit s (16 + p) = true →
      (∃ t, exec (.flitCrcReplay ⟨p, false⟩) s = .next t ∧ smGet {} t.ports p = ⟨0, false⟩ ∧ t.ready = s.ready) ∧
      ((smGet {} s.ports p).retraining = false → ∃ t, exec (.flitCrcReplay ⟨p, true⟩) s = .next t ∧
        smGet {} t.ports p = (if k = 7 then ⟨0, true⟩ else ⟨k + 1, false⟩) ∧ t.ready = s.ready)) ∧
    (p < 18 → trains → ∃ t, exec (.retrainTimeout p) s = .next t ∧ readyBit t (16 + p) = false ∧
      ∀ i, i < 42 → i ≠ 16 + p → readyBit t i = readyBit s i) ∧
    (¬ trains → exec (.retrainTimeout p) s = .next s) ∧
    (p < 4 → ∃ t, exec (.meshEdgeFailure p) s = .next t ∧ readyBit t (34 + p) = false ∧
      ∀ i, i < 42 → i ≠ 34 + p → readyBit t i = readyBit s i)

/-- A peer at a ready port reads a sector and writes where its entry of the inbound table lets it, and reaches nothing else; a packed
gather answers each of its elements by itself, in order (R462, R463); an enqueue for a task of its ASID is granted where the inbox has
room and nobody waits before it, and its entry is then on its way; while there is no room it waits (R275, R464), and one for a core
whose stop is latched is refused, the model's reading (log 60). The codes of the
replies and a peer's place in the round robin are the model's (log 80), and so are that one read answers one aligned sector of 32 bytes
(log 68) and the entries of the inbound table that are not set
(log 5). -/
def Sys2Proof.Parts.PeerRequests : Prop :=
  ∀ (m : BitVec 6) (p : Nat) (off : BitVec 40) (data : List Byte) (s : State), p < 18 →
    let o := off.toNat
    let die := portDie p
    let ask (r : PeerReq) : Instr := .peerInboundRequest m p r
    (∀ r, readyBit s (16 + p) = false → exec (ask r) s = .next s) ∧
    (readyBit s (16 + p) = true →
      (inboundPa s m (o / 32 * 32) false = none → exec (ask (.read off)) s = .next { s with reply := 1 :: List.replicate 32 0 }) ∧
      (∀ pa, inboundPa s m (o / 32 * 32) false = some pa →
        (poisoned s pa = false → usable s die pa = true →
          exec (ask (.read off)) s = .next { s with reply := 0 :: memBytes s.mem pa 32 }) ∧
        (poisoned s pa = true ∨ usable s die pa = false →
          exec (ask (.read off)) s = .next { s with reply := 2 :: List.replicate 32 0 })) ∧
      (inboundPa s m o true = none ∨ 0x200000 < o % 0x200000 + data.length →
        exec (ask (.write off data)) s = .next { s with reply := [1] }) ∧
      (∀ pa, inboundPa s m o true = some pa → o % 0x200000 + data.length ≤ 0x200000 → usable s die pa = true →
        ∃ t, exec (ask (.write off data)) s = .next t ∧ t.reply = [0] ∧
          (∀ i, i < data.length → some (memGet t.mem (pa + i)) = data[i]?) ∧
          OtherBytes s t (.phys pa 0) data.length ∧ t.cores = s.cores) ∧
      (∀ (os : List (BitVec 32)) (z : BitVec 2), ∃ t, exec (ask (.gather off os z)) s = .next t ∧
        t.reply = (os.map fun i => peerRead s m die ((o + i.toNat) % 2 ^ 40) (2 ^ z.toNat)).flatten ∧ AllBytes s t ∧ t.cores = s.cores) ∧
      ∀ (asid : BitVec 10) (addr : DWord) (v : BitVec 256),
        let n := enqCore addr
        let b := (addr.extractLsb' 0 4).toNat
        let c := s.coreN n
        (c.hasTask = false ∨ c.asid ≠ asid ∨ c.latched = true →
          exec (ask (.enqueue asid addr v)) s = .next { s with reply := [1] }) ∧
        (enqLocal s addr = true → (addr.extractLsb' 8 5).toNat < 24 → c.hasTask = true → c.asid = asid → c.latched = false →
          route s die (dieOf n) ≠ none →
          (enqRoom c b = true → (∀ x, enqWants n b s x = false) → (∀ e ∈ s.mail, e.granted = false → e.dst = n → e.inbox ≠ b) →
            ∃ t e, exec (ask (.enqueue asid addr v)) s = .next t ∧ t.reply = [0] ∧ t.mail = s.mail ++ [e] ∧
            e.dst = n ∧ e.inbox = b ∧ e.data = v ∧ e.granted = true ∧ smGet 0 (t.coreN n).grants b = smGet 0 c.grants b + 1) ∧
          (enqRoom c b = false → ∃ e, exec (ask (.enqueue asid addr v)) s = .next { s with reply := [3], mail := s.mail ++ [e] } ∧
            e.dst = n ∧ e.inbox = b ∧ e.data = v ∧ e.granted = false ∧ e.asid = asid))) ∧
    ∀ (e : DWord) (wr : Bool), smFind s.inbound (o / 0x200000) = some e → (∃ pa, inboundPa s m o wr = some pa) →
      e.extractLsb' 21 31 ≠ 0 ∧ (e.getLsbD 1 = true ∨ e.extractLsb' 2 6 = m) ∧ (wr = true → e.getLsbD 0 = true)

/-- The host reads and writes through an aperture entry that lets it; where none does, the error counter rises and a read answers
ones. What port 0 does not carry has no effect, and a read returns no data: that it returns none, and none of poison or of memory that
cannot be reached, and that a write there is lost, is the model's choice (logs 67, 68). Its register window takes the apertures and the MSI-X table until it is locked, and
reads back; BAR4 reads the debug blocks (R466, R467). -/
def Sys2Proof.Parts.HostAccess : Prop :=
  ∀ (off : BitVec 36) (n : Nat) (data : List Byte) (b : BitVec 24) (w : BitVec 29) (v : DWord) (s : State),
    let rd (r : HostAt) (n : Nat) : Instr := .hostRead r n
    (hostRange s off.toNat data.length true = none → exec (.hostWrite off data) s = .next { s with qhaErr := s.qhaErr + 1 }) ∧
    (∀ pa, hostRange s off.toNat data.length true = some pa → readyBit s 16 = true → usable s 0 pa = true →
      ∃ t, exec (.hostWrite off data) s = .next t ∧ (∀ i, i < data.length → some (memGet t.mem (pa + i)) = data[i]?) ∧
        OtherBytes s t (.phys pa 0) data.length ∧ t.cores = s.cores) ∧
    (∀ pa, hostRange s off.toNat data.length true = some pa → readyBit s 16 = false ∨ usable s 0 pa = false →
      exec (.hostWrite off data) s = .next s) ∧
    (hostRange s off.toNat n false = none →
      exec (rd (.bar2 off) n) s = .next { s with qhaErr := s.qhaErr + 1, reply := List.replicate n 0xFF }) ∧
    (∀ pa, hostRange s off.toNat n false = some pa →
      (readyBit s 16 = true → usable s 0 pa = true → (∀ i, pa / 32 ≤ i → 32 * i < pa + n → poisoned s (32 * i) = false) →
        exec (rd (.bar2 off) n) s = .next { s with reply := memBytes s.mem pa n }) ∧
      (readyBit s 16 = false ∨ usable s 0 pa = false ∨ (∃ i, pa / 32 ≤ i ∧ 32 * i < pa + n ∧ poisoned s (32 * i) = true) →
        exec (rd (.bar2 off) n) s = .next { s with reply := [] })) ∧
    (s.qhaLock = true → exec (.bar0Write b v) s = .next { s with qhaErr := s.qhaErr + 1 }) ∧
    (s.qhaLock = false → ∃ t, exec (.bar0Write b v) s = .next t ∧ t.mem = s.mem ∧ t.cores = s.cores ∧
      (∀ k, k < 32 → smGet 0 t.qhaBase k = if b.toNat = 0x1000 + 8 * k then v &&& 0x000FFFFF80000003 else smGet 0 s.qhaBase k) ∧
      ∀ k, k < 128 → smGet 0 t.msixTable k = if b.toNat = 0x2000 + 8 * k then v else smGet 0 s.msixTable k) ∧
    (∃ x, exec (rd (.bar0 b) n) s = .next { s with reply := leBytes x 8 } ∧ (b = 0x0100 → x = s.ready.toNat) ∧
      (b = 0x0108 → x = s.qhaErr.toNat) ∧ (∀ k, k < 32 → b.toNat = 0x1000 + 8 * k → x = (smGet 0 s.qhaBase k).toNat) ∧
      ∀ k, k < 128 → b.toNat = 0x2000 + 8 * k → x = (smGet 0 s.msixTable k).toNat) ∧
    (readyBit s 16 = false → exec (rd (.bar4 w) n) s = .next { s with reply := [] }) ∧
    (readyBit s 16 = true → exec (rd (.bar4 w) n) s =
      .next { s with reply := leBytes (dbgRead s (w.toNat / 0x4000000) (w.toNat % 0x4000000)).toNat 8 })

/-- Errors of memories and links, requests of peers, and the host's windows (R390, R391, R455, R459, R462, R466, R467). -/
def Obligations.FabricAndHost : Prop := Parts.LinkAndMemoryErrors ∧ Parts.PeerRequests ∧ Parts.HostAccess

/-! ### The debug block -/

namespace Sys2Proof.Tables

/-- A freeze of cluster `k` has been requested for a reason: it is latched at every core of the cluster, whose copies stop and give up
their pins (R384, R441, R444); nothing else of a core changes but its event bits. -/
def FreezeAsked (s t : State) (k n : Nat) (reason : BitVec 3) (unit : BitVec 4) : Prop :=
  (t.dbgOf k).pending = true ∧ (t.dbgOf k).reason = reason ∧ (t.dbgOf k).unit = unit ∧ (t.dbgOf k).core = BitVec.ofNat 8 n ∧
    (∀ i, i < 24 → (t.coreN (24 * k + i)).freezeLatch = true) ∧
    ∀ m, { (t.coreN m).dropPins with freezeLatch := false, watchHit := none, ctl := { (t.coreN m).ctl with event := 0 } } =
      { (s.coreN m).dropPins with freezeLatch := false, watchHit := none, ctl := { (s.coreN m).ctl with event := 0 } }

/-- The debug registers that read back the fields last written, with those fields (R442, R443, R449, R452). -/
def dbgRegs : List (Nat × DWord) := [
  (0x010, 0xFFFFFF), (0x018, BitVec.allOnes 64), (0x040, 0xE0FFFFFFFFFFFFFF), (0x0B0, 0xE0FFFFFFFFFFFFFF), (0x048, 0x7FFFFFFFF),
  (0x0B8, 0x7FFFFFFFF), (0x0C0, 0xE0FFFFFFFFFFFFFF), (0x0F0, 0xE0FFFFFFFFFFFFFF), (0x110, 0xFFFFFFFF), (0x120, 0xFFFFFFFF),
  (0x140, 0xFFFFFFF1)]

end Sys2Proof.Tables

/-- A debugger's freeze, a breakpoint and a watchpoint latch a freeze at every core of the cluster, whose state they leave; the
clocks stop once every engine has; a thaw starts them; `reset_ctx` abandons the saves of a frozen cluster (R419, R441, R443,
R444, R447). The core that a debugger's freeze names, the lowest of the cluster, and that a request to a cluster that is frozen or
freezing is ignored are the model's choice (log 67), and so is that bit 4 of `%event` is set at the request (log 63). The thaw keeps the registers where no trap is held and no reply or write waits for it. -/
def Sys2Proof.Parts.FreezeAndThaw : Prop :=
  ∀ (k n : Nat) (s : State),
    let free (k : Nat) : Prop := (s.dbgOf k).frozen = false ∧ (s.dbgOf k).pending = false
    (free k → ∃ t, exec (.dbgFreeze k) s = .next t ∧ Tables.FreezeAsked s t k (24 * k) 1 0 ∧
      ∀ i, i < 24 → (t.coreN (24 * k + i)).ctl.event.getLsbD 4 = true) ∧
    (¬ free k → exec (.dbgFreeze k) s = .next s) ∧
    (∀ u, bkptDue s n = some u → free (clusterOf n) → ∃ t, exec (.breakpointHit n) s = .next t ∧
      Tables.FreezeAsked s t (clusterOf n) n 2 (BitVec.ofNat 4 u)) ∧
    (bkptDue s n = none → exec (.breakpointHit n) s = .next s) ∧
    (∀ u src, (s.coreN n).watchHit = some (u, src) → free (clusterOf n) → ∃ t, exec (.watchpointHit n) s = .next t ∧
      Tables.FreezeAsked s t (clusterOf n) n 3 (BitVec.ofNat 4 u) ∧ (t.dbgOf (clusterOf n)).src = BitVec.ofNat 3 src) ∧
    ((s.coreN n).watchHit = none → exec (.watchpointHit n) s = .next s) ∧
    (cluStopped s k = true → ∃ t, exec (.clusterFrozen k) s = .next t ∧ (t.dbgOf k).frozen = true ∧ (t.dbgOf k).pending = false ∧
      ∀ i, i < 24 → (t.coreN (24 * k + i)).frozen = true ∧ (t.coreN (24 * k + i)).freezeLatch = false) ∧
    (cluStopped s k = false → exec (.clusterFrozen k) s = .next s) ∧
    ((s.dbgOf k).frozen = true → ∃ t, exec (.dbgThaw k) s = .next t ∧ (t.dbgOf k).frozen = false ∧ (t.dbgOf k).skid = [] ∧
      (∀ i, i < 24 → (t.coreN (24 * k + i)).frozen = false) ∧
      ((s.dbgOf k).dump = [] → (s.dbgOf k).skid = [] → (∀ i, i < 24 → dueTrap { s.coreN (24 * k + i) with frozen := false } = none) →
        ∀ m r, regGet (t.coreN m) r = regGet (s.coreN m) r)) ∧
    ((s.dbgOf k).frozen = false → exec (.dbgThaw k) s = .next s ∧ exec (.dbgResetCtx k) s = .next s) ∧
    ((s.dbgOf k).frozen = true → ∃ t, exec (.dbgResetCtx k) s = .next t ∧
      ∀ i, i < 24 → (t.coreN (24 * k + i)).ctxErr = ((s.coreN (24 * k + i)).ctxErr || saving (s.coreN (24 * k + i))))

/-- A debug register reads back the fields last written, the others of the table as before; arming a trace starts it empty, with the
cadence misses of its cores counted anew, and a size cannot change while armed; a dump window takes effect at the thaw and is ignored
outside a freeze; BAR4 writes the same registers; the inbound table takes the fields of its entries (R6, R446, R449, R452, R462,
R466). That `trc_ctl` stores every size, 17 to 31 too, is the model's choice (log 67). -/
def Sys2Proof.Parts.DebugRegisters : Prop :=
  ∀ (k : Nat) (v : DWord) (s : State),
    let wr (off : Nat) : Instr := .registerWrite (.dbg k) off v
    (∀ p ∈ Tables.dbgRegs, ∃ t, exec (wr p.1) s = .next t ∧ dbgRead t k p.1 = v &&& p.2 ∧
      (∀ q ∈ Tables.dbgRegs, q.1 ≠ p.1 → dbgRead t k q.1 = dbgRead s k q.1) ∧ t.mem = s.mem ∧ t.cores = s.cores) ∧
    (∃ t, exec (.trcArm k v) s = .next t ∧ (t.dbgOf k).trcCtl.getLsbD 0 = true ∧ t.mem = s.mem ∧
      (∀ n, { t.coreN n with cadMiss := 0 } = { s.coreN n with cadMiss := 0 }) ∧
      ((s.dbgOf k).trcCtl.getLsbD 0 = false → (t.dbgOf k).trcCtl = (v ||| 1) &&& 0x1F1F ∧ (t.dbgOf k).trcWp = 0 ∧
        ∀ i, i < 24 → (t.coreN (24 * k + i)).cadMiss = 0) ∧
      ((s.dbgOf k).trcCtl.getLsbD 0 = true → (t.dbgOf k).trcCtl.extractLsb' 8 5 = (s.dbgOf k).trcCtl.extractLsb' 8 5 ∧
        (t.dbgOf k).trcWp = (s.dbgOf k).trcWp ∧ t.cores = s.cores)) ∧
    (∀ off, 0x100000 ≤ off →
      ((s.dbgOf k).frozen = false → exec (wr off) s = .next s) ∧
      (off < 0x100000 + 24 * 0x200000 → (s.dbgOf k).frozen = true → ∃ t, exec (wr off) s = .next t ∧ t.cores = s.cores ∧
        t.mem = s.mem ∧ (t.dbgOf k).dump.length = (s.dbgOf k).dump.length + 8)) ∧
    (∀ w : BitVec 29, (readyBit s 16 = true → exec (.registerWrite .bar4 w.toNat v) s =
        exec (.registerWrite (.dbg (w.toNat / 0x4000000)) (w.toNat % 0x4000000) v) s) ∧
      (readyBit s 16 = false → exec (.registerWrite .bar4 w.toNat v) s = .next s)) ∧
    ∀ i : BitVec 19, exec (.registerWrite .inbound i.toNat v) s =
      .next { s with inbound := smPut s.inbound i.toNat (v &&& 0x000FFFFFFFE000FF) }

/-- Freeze and thaw, and the registers of the debug block (R6, R419, R440 to R449; the core that a debugger's freeze names, a request
during a freeze and the sizes of `trc_ctl` are the model's choices, log 67). -/
def Obligations.DebugEvents : Prop := Parts.FreezeAndThaw ∧ Parts.DebugRegisters

/-! ### Power, bring-up and identity -/

namespace Sys2Proof.Tables

/-- Cluster `k` is gated: its grids, TCMs and scratchpad are gone (R437). -/
def Gated (t : State) (k : Nat) : Prop :=
  (t.clu k).gated = true ∧ (t.clu k).gateReq = false ∧ (t.clu k).spad = [] ∧
    ∀ i, i < 24 → (t.coreN (24 * k + i)).tcm = [] ∧ (t.coreN (24 * k + i)).grd = {}
/-- Nothing but the drain of a trace holds back the gate: no test or march, no freeze, no task but saved ones (R437, R486). -/
def gateClear (s : State) (k : Nat) : Prop :=
  (s.clu k).waking = false ∧ (s.clu k).marching = false ∧ (s.dbgOf k).frozen = false ∧ ∀ p ∈ gangsIn s k, p.2.life = .saved

end Sys2Proof.Tables

/-- A cluster without tasks is gated at once, or 4,800 aclk later where its trace is armed; a wake test withholds the cores that
fail and makes its cluster ready where one is left and its die is not too hot (R437 to R439, R478, R486). That march failures stay at
every wake test is the model's choice (log 69), that a gate with saved tasks loses the scratchpad its reading (log 62). -/
def Sys2Proof.Parts.ClusterPower : Prop :=
  ∀ (k : Nat) (cf : BitVec 24) (sf : Bool) (s : State),
    (gateOk s k = true → Tables.gateClear s k → (s.dbgOf k).trcCtl.getLsbD 0 = false →
      ∃ t, exec (.clusterGate k) s = .next t ∧ Tables.Gated t k) ∧
    (gateOk s k = true → (s.dbgOf k).trcCtl.getLsbD 0 = true → s.clock.toNat + 4800 < 2 ^ 64 →
      ∃ t, exec (.clusterGate k) s = .next t ∧ (t.clu k).gateReq = true ∧ (t.clu k).drainEnd = some (s.clock + 4800) ∧
        t.cores = s.cores) ∧
    (gateOk s k = false → exec (.clusterGate k) s = .next s) ∧
    (∀ e, (s.clu k).gateReq = true → (s.clu k).drainEnd = some e →
      (e.toNat ≤ s.clock.toNat → Tables.gateClear s k → ∃ t, exec (.traceDrainLimit k) s = .next t ∧ Tables.Gated t k) ∧
      (s.clock.toNat < e.toNat → exec (.traceDrainLimit k) s = .next s)) ∧
    ((s.clu k).gateReq = false → exec (.traceDrainLimit k) s = .next s) ∧
    (k < 8 → wakeDue s k = true →
      let fail := cf ||| (s.clu k).marchFail
      let spad := sf || (s.clu k).marchSpad
      ∃ t, exec (.wakeTest k cf sf) s = .next t ∧ (t.dbgOf k).coreFail = fail ∧ (t.dbgOf k).spadFail = spad ∧
        (readyBit t k = true ↔ spad = false ∧ fail ≠ BitVec.allOnes 24 ∧ (s.clu k).hot = false) ∧ (t.clu k).waking = false ∧
        ∀ i, i < 24 → (t.coreN (24 * k + i)).tcm = []) ∧
    (wakeDue s k = false → exec (.wakeTest k cf sf) s = .next s)

/-- Heat slows a die's grids by steps to at most 4, then pre-empts its tasks, takes its clusters out of readiness and asks for their
gates; cooled, each cluster has its wake test or its march again; a power-off leaves the flash and what stands outside the module
(R486, R487). The steps of the throttle, that a gate not yet come about is asked for no more (log 70) and what memory reads after power
has gone (log 2) are the model's choice. -/
def Sys2Proof.Parts.ThermalLimits : Prop :=
  ∀ (d j : Nat) (s : State), d < 4 → j < 2 →
    let k := 2 * d + j
    (∃ t, exec (.thermalThrottle d) s = .next t ∧ smGet 0 t.throttle d = min 4 (smGet 0 s.throttle d + 1) ∧ t.mem = s.mem ∧
      t.cores = s.cores) ∧
    (∃ t, exec (.thermalStop d) s = .next t ∧ (t.clu k).hot = true ∧ (t.clu k).marching = false ∧ readyBit t k = false ∧
      ((s.dbgOf k).frozen = false → (s.dbgOf k).pending = false → (s.clu k).gated = false → (t.clu k).gateReq = true) ∧
      ∀ g x, smFind s.gangs g = some x → x.cluster = k → x.life = .resident → x.why = none → gangHeld s x = false →
        (s.clu (2 * d)).marching = false → (s.clu (2 * d + 1)).marching = false → Tables.Stopping s t g .thermal) ∧
    (∃ t, exec (.thermalRecovery d) s = .next t ∧ smGet 0 t.throttle d = 0 ∧ (t.clu k).hot = false ∧
      ((s.clu k).hot = true → s.bootstat.getLsbD (16 + k) = true ∨ (s.clu k).consol = true → (t.clu k).waking = true) ∧
      ((s.clu k).hot = true → s.bootstat.getLsbD (16 + k) = false → (s.clu k).consol = false → s.clocksOn = true →
        readyBit s k = false → (s.clu k).marching = false → (s.clu k).waking = false → route s d 0 ≠ none → (t.clu k).marching = true) ∧
      ((s.clu k).hot = false → t.clu k = s.clu k)) ∧
    ∀ i ∈ [Instr.thermalPowerOff, Instr.powerLoss], ∃ t, exec i s = .next t ∧ t.powered = false ∧ t.clocksOn = false ∧
      t.flash = s.flash ∧ (∀ n, t.coreN n = State.reset.coreN n) ∧ (∀ n, t.clu n = State.reset.clu n) ∧
      ∀ a, memGet t.mem a = if 0x8000000000000 ≤ a then memGet s.mem a else 0

/-- Power-on with a valid firmware record starts the clocks and the boot march on every core that reaches its tables, die 0's as no
edge is ready yet, at firmware privilege with its block and its number in `s1` and `s2`; without one the module stays in ROM recovery
(R470, R478, R480). A core reset starts a core at firmware privilege with every register zero but those that the command processor
gives it and the barriers of its gang as after reset (R475), and a free core of a ready cluster can be started in supervisor code,
which keeps what the core holds (R354, R370); a function whose initialisation ended is ready, one that cannot end well has failed
(R477); a march that is over is consolidated and its wake test is due (R483). Where tables, march and blocks lie, that other marches
wait for an edge or for the last to fail, that a task on the core ends and the reset of a gated core are the model's choice (log 69). -/
def Sys2Proof.Parts.BringUp : Prop :=
  ∀ (fn : BitVec 6) (n k : Nat) (p : VAddr) (s : State),
    let u : State := { (unpowered s) with powered := true }
    (s.clocksOn = true → exec .powerOn s = .next s) ∧
    (s.clocksOn = false → recInUse u 1 = none → exec .powerOn s = .next u) ∧
    (s.clocksOn = false → recInUse u 1 ≠ none → ∃ t, exec .powerOn s = .next t ∧ t.powered = true ∧ t.clocksOn = true ∧
      (∀ k, k < 8 → ((t.clu k).marching = true ↔ k < 2)) ∧ ∀ n, n < 48 → (t.coreN n).ctl.priv = 2 ∧
        (t.coreN n).ctl.pc = BitVec.ofNat 56 marchEntry ∧ (t.coreN n).run = .run ∧ regGet (t.coreN n) 1 = BitVec.ofNat 64 (marchPa n) ∧
        regGet (t.coreN n) 2 = BitVec.ofNat 64 (n % 24) ∧ memRd t.mem (marchPa n) 8 = 0) ∧
    (s.clocksOn = true → n < 192 → (s.coreN n).hasTask = false → (s.clu (clusterOf n)).gated = false →
      (∀ a v, ∃ t, exec (.coreReset n ⟨p, false, [(a, v)]⟩) s = .next t ∧ (t.coreN n).ctl.priv = 2 ∧ (t.coreN n).ctl.pc = p &&& ~~~3 ∧
        (t.coreN n).run = .run ∧ (t.coreN n).asid = 0 ∧ t.gangOf n = State.reset.gangOf n ∧ (t.coreN n).vec.halted = true ∧
        ((s.clu (clusterOf n)).marching = false → ∀ r, regGet (t.coreN n) r = if r = a ∧ r ≠ 0 then v else 0) ∧
        (∀ m, m ≠ n → t.coreN m = s.coreN m) ∧ ((s.coreN n).vec.prof = none → t.mem = s.mem)) ∧
      ((s.coreN n).run = .free → cluOpen s (clusterOf n) = true →
        ∃ t, exec (.coreReset n ⟨p, true, []⟩) s = .next t ∧ (t.coreN n).ctl.priv = 1 ∧ (t.coreN n).ctl.pc = p &&& ~~~3 ∧ (t.coreN n).run = .run ∧
          (t.coreN n).ctl.s = (s.coreN n).ctl.s ∧ (t.coreN n).ctl.sup = (s.coreN n).ctl.sup ∧ (t.coreN n).vec = (s.coreN n).vec ∧
          (t.coreN n).tcm = (s.coreN n).tcm ∧ (∀ m, m ≠ n → t.coreN m = s.coreN m) ∧ t.mem = s.mem) ∧
      ((s.coreN n).run ≠ .free → exec (.coreReset n ⟨p, true, []⟩) s = .next s)) ∧
    (∀ regs, (s.clocksOn = false → ∀ sup, exec (.coreReset n ⟨p, sup, regs⟩) s = .next s) ∧
      ((s.coreN n).hasTask = true → exec (.coreReset n ⟨p, true, regs⟩) s = .next s) ∧
      (s.clocksOn = true → n < 192 → (s.clu (clusterOf n)).gated = true → ∃ t, exec (.coreReset n ⟨p, false, regs⟩) s = .next t ∧
        (t.clu (clusterOf n)).waking = ((s.clu (clusterOf n)).waking || !(s.clu (clusterOf n)).hot) ∧ t.cores = s.cores) ∧
      (s.clocksOn = true → n < 192 → (s.coreN n).hasTask = true → (s.clu (clusterOf n)).gated = false →
        ∃ t, exec (.coreReset n ⟨p, false, regs⟩) s = .next t ∧ smHas t.gangs (s.gid n) = false ∧ (t.coreN n).ctl.priv = 2 ∧
          (t.coreN n).ctl.pc = p &&& ~~~3 ∧ (t.coreN n).run = .run)) ∧
    (s.clocksOn = true → canReady s fn.toNat = true → ∃ t, exec (.functionReady fn) s = .next t ∧ readyBit t fn.toNat = true ∧
      ∀ i, i < 42 → i ≠ fn.toNat → readyBit t i = readyBit s i) ∧
    (s.clocksOn = true → 8 ≤ fn.toNat → fn.toNat < 42 → canReady s fn.toNat = false → ∃ t, exec (.functionReady fn) s = .next t ∧
      readyBit t fn.toNat = false ∧ t.failed.getLsbD fn.toNat = true ∧ ∀ i, i < 42 → i ≠ fn.toNat → readyBit t i = readyBit s i) ∧
    (s.clocksOn = false ∨ (canReady s fn.toNat = false ∧ (fn.toNat < 8 ∨ 42 ≤ fn.toNat)) → exec (.functionReady fn) s = .next s) ∧
    (marchOver s k = true → ∃ t, exec (.marchConsolidate k) s = .next t ∧ (t.clu k).marching = false ∧ (t.clu k).waking = true ∧
      (t.clu k).consol = true ∧ t.mem = s.mem ∧ t.cores = s.cores) ∧
    (marchOver s k = false → exec (.marchConsolidate k) s = .next s)

/-- An attestation request and a key agreement message are answered on VC 3, signed with the identity key; a report begins with nonce,
serial and identity code (R465, R472, R474). -/
def Sys2Proof.Parts.SignedAnswers : Prop :=
  ∀ (x : BitVec 256) (s : State),
    let sig (ctx msg : List Byte) : List Byte := msg ++ (Config.mldsaSign s.devPriv ctx (Config.shake256 msg 64) ++ List.replicate 3309 0).take 3309
    (s.clocksOn = true →
      exec (.attestationRequest x) s = .next { s with vc3 := s.vc3 ++ [sig ctxAtt (attReport s x)] } ∧
      exec (.ideKeyAgreement x) s = .next { s with vc3 := s.vc3 ++ [sig ctxIde (Config.ideAnswer x)] } ∧
      (attReport s x).take 56 = leBytes x.toNat 32 ++ leBytes Config.serial.toNat 16 ++ leBytes idcode.toNat 8) ∧
    (s.clocksOn = false → exec (.attestationRequest x) s = .next s ∧ exec (.ideKeyAgreement x) s = .next s)

/-- Gating, heat, bring-up, readiness and signed answers (R437 to R439, R465, R470 to R487). -/
def Obligations.PowerAndBringUp : Prop := Parts.ClusterPower ∧ Parts.ThermalLimits ∧ Parts.BringUp ∧ Parts.SignedAnswers

/-! ### What a register instruction leaves -/

namespace Sys2Proof.Tables

/-- The instructions whose only effect is a value in `d`, and those that may set flags beside it. -/
def registerOnly (h : Hal) (d a b : Reg) (m : BitVec 10) (x : BitVec 16) (k : BitVec 6) (n : BitVec 3) : List Instr :=
  intOps.map (fun p => p.1 h d a b) ++ immOps.map (fun p => p.1 h d a m) ++ shiftOps.map (fun p => p.1 h d a k) ++
  [.clz h d a, .ctz h d a, .popc h d a, .tagget h d a, .li h d x, .lis h d x, .lpidx h d n]
def registerFlags (h : Hal) (d a b : Reg) (m dst src : BitVec 3) : List Instr :=
  floatOps.map (fun p => p.1 h d a b) ++ [.fcvt h d a m dst src]

end Sys2Proof.Tables

/-- The frame of the register instructions: every other register, every special register, accumulator and exception register, every
queue and every byte of memory is as before, and so are the flags but for the float instructions, which only add to them; the PC
and the halyard move as completion says (R84, R210 to R218). -/
def Obligations.RegisterOnlyFrame : Prop :=
  ∀ (h : Hal) (d a b : Reg) (m : BitVec 10) (x : BitVec 16) (k : BitVec 6) (n f g : BitVec 3) (s t : State), Ready s h →
    (∀ i ∈ Tables.registerOnly h d a b m x k n, exec i s = .next t →
      OnlyRegisters s t ∧ OtherRegisters s t d ∧ AllBytes s t ∧ t.core.ctl.fflags = s.core.ctl.fflags) ∧
    ∀ i ∈ Tables.registerFlags h d a b n f g, exec i s = .next t →
      OnlyRegisters s t ∧ OtherRegisters s t d ∧ AllBytes s t ∧ t.core.ctl.fflags &&& s.core.ctl.fflags = s.core.ctl.fflags
end

