-- ==== Sys2Proof/Laws/Encoding.lean ====
section
/-! SUPPORT. The fields of the words that the encoder writes: what each field reader of the decoder reads from each format. -/

namespace Sys2Proof

open BitVec

/-! ### Format CR -/

theorem fH_cr (h : Hal) (m : BitVec 6) (d a b : Reg) (fn : BitVec 4) : fH (cr h m d a b fn) = h := by
  show extractLsb' 28 4 (h ++ m ++ d ++ a ++ b ++ fn : BitVec (4 + 6 + 6 + 6 + 6 + 4)) = h
  simp (disch := decide) only [extractLsb'_append_eq_of_le, Nat.reduceSub, extractLsb'_eq_self]
theorem fMaj_cr (h : Hal) (m : BitVec 6) (d a b : Reg) (fn : BitVec 4) : fMaj (cr h m d a b fn) = m.toNat := by
  show (extractLsb' 22 6 (h ++ m ++ d ++ a ++ b ++ fn : BitVec (4 + 6 + 6 + 6 + 6 + 4))).toNat = m.toNat
  simp (disch := decide) only [extractLsb'_append_eq_of_le, extractLsb'_append_eq_of_add_le, Nat.reduceSub, extractLsb'_eq_self]
theorem fD_cr (h : Hal) (m : BitVec 6) (d a b : Reg) (fn : BitVec 4) : fD (cr h m d a b fn) = d := by
  show extractLsb' 16 6 (h ++ m ++ d ++ a ++ b ++ fn : BitVec (4 + 6 + 6 + 6 + 6 + 4)) = d
  simp (disch := decide) only [extractLsb'_append_eq_of_le, extractLsb'_append_eq_of_add_le, Nat.reduceSub, extractLsb'_eq_self]
theorem fA_cr (h : Hal) (m : BitVec 6) (d a b : Reg) (fn : BitVec 4) : fA (cr h m d a b fn) = a := by
  show extractLsb' 10 6 (h ++ m ++ d ++ a ++ b ++ fn : BitVec (4 + 6 + 6 + 6 + 6 + 4)) = a
  simp (disch := decide) only [extractLsb'_append_eq_of_le, extractLsb'_append_eq_of_add_le, Nat.reduceSub, extractLsb'_eq_self]
theorem fB_cr (h : Hal) (m : BitVec 6) (d a b : Reg) (fn : BitVec 4) : fB (cr h m d a b fn) = b := by
  show extractLsb' 4 6 (h ++ m ++ d ++ a ++ b ++ fn : BitVec (4 + 6 + 6 + 6 + 6 + 4)) = b
  simp (disch := decide) only [extractLsb'_append_eq_of_le, extractLsb'_append_eq_of_add_le, Nat.reduceSub, extractLsb'_eq_self]
theorem fFn_cr (h : Hal) (m : BitVec 6) (d a b : Reg) (fn : BitVec 4) : fFn (cr h m d a b fn) = fn := by
  show extractLsb' 0 4 (h ++ m ++ d ++ a ++ b ++ fn : BitVec (4 + 6 + 6 + 6 + 6 + 4)) = fn
  simp (disch := decide) only [extractLsb'_append_eq_of_add_le, extractLsb'_eq_self]
/-- A part of the field `b`. -/
theorem ext_b_cr (h : Hal) (m : BitVec 6) (d a b : Reg) (fn : BitVec 4) (l : Nat) (hl : l ≤ 6) :
    (cr h m d a b fn).extractLsb' 4 l = b.extractLsb' 0 l := by
  show extractLsb' 4 l (h ++ m ++ d ++ a ++ b ++ fn : BitVec (4 + 6 + 6 + 6 + 6 + 4)) = _
  rw [extractLsb'_append_eq_of_le (by decide), extractLsb'_append_eq_of_add_le (by omega)]
/-- A part of the field `d`. -/
theorem ext_d_cr (h : Hal) (m : BitVec 6) (d a b : Reg) (fn : BitVec 4) (l : Nat) (hl : l ≤ 6) :
    (cr h m d a b fn).extractLsb' 16 l = d.extractLsb' 0 l := by
  show extractLsb' 16 l (h ++ m ++ d ++ a ++ b ++ fn : BitVec (4 + 6 + 6 + 6 + 6 + 4)) = _
  rw [extractLsb'_append_eq_of_le (by decide), extractLsb'_append_eq_of_le (by decide), extractLsb'_append_eq_of_le (by decide),
    extractLsb'_append_eq_of_add_le (by omega)]

/-! ### Format CI -/

theorem fH_ci (h : Hal) (m : BitVec 6) (d a : Reg) (imm : BitVec 10) : fH (ci h m d a imm) = h := by
  show extractLsb' 28 4 (h ++ m ++ d ++ a ++ imm : BitVec (4 + 6 + 6 + 6 + 10)) = h
  simp (disch := decide) only [extractLsb'_append_eq_of_le, Nat.reduceSub, extractLsb'_eq_self]
theorem fMaj_ci (h : Hal) (m : BitVec 6) (d a : Reg) (imm : BitVec 10) : fMaj (ci h m d a imm) = m.toNat := by
  show (extractLsb' 22 6 (h ++ m ++ d ++ a ++ imm : BitVec (4 + 6 + 6 + 6 + 10))).toNat = m.toNat
  simp (disch := decide) only [extractLsb'_append_eq_of_le, extractLsb'_append_eq_of_add_le, Nat.reduceSub, extractLsb'_eq_self]
theorem fD_ci (h : Hal) (m : BitVec 6) (d a : Reg) (imm : BitVec 10) : fD (ci h m d a imm) = d := by
  show extractLsb' 16 6 (h ++ m ++ d ++ a ++ imm : BitVec (4 + 6 + 6 + 6 + 10)) = d
  simp (disch := decide) only [extractLsb'_append_eq_of_le, extractLsb'_append_eq_of_add_le, Nat.reduceSub, extractLsb'_eq_self]
theorem fA_ci (h : Hal) (m : BitVec 6) (d a : Reg) (imm : BitVec 10) : fA (ci h m d a imm) = a := by
  show extractLsb' 10 6 (h ++ m ++ d ++ a ++ imm : BitVec (4 + 6 + 6 + 6 + 10)) = a
  simp (disch := decide) only [extractLsb'_append_eq_of_le, extractLsb'_append_eq_of_add_le, Nat.reduceSub, extractLsb'_eq_self]
theorem fImm_ci (h : Hal) (m : BitVec 6) (d a : Reg) (imm : BitVec 10) : fImm (ci h m d a imm) = imm := by
  show extractLsb' 0 10 (h ++ m ++ d ++ a ++ imm : BitVec (4 + 6 + 6 + 6 + 10)) = imm
  simp (disch := decide) only [extractLsb'_append_eq_of_add_le, extractLsb'_eq_self]
/-- A part of the immediate. -/
theorem ext_imm_ci (h : Hal) (m : BitVec 6) (d a : Reg) (imm : BitVec 10) (p l : Nat) (hl : p + l ≤ 10) :
    (ci h m d a imm).extractLsb' p l = imm.extractLsb' p l := by
  show extractLsb' p l (h ++ m ++ d ++ a ++ imm : BitVec (4 + 6 + 6 + 6 + 10)) = _
  rw [extractLsb'_append_eq_of_add_le hl]
/-- A part of the field `d`. -/
theorem ext_d_ci (h : Hal) (m : BitVec 6) (d a : Reg) (imm : BitVec 10) (l : Nat) (hl : l ≤ 6) :
    (ci h m d a imm).extractLsb' 16 l = d.extractLsb' 0 l := by
  show extractLsb' 16 l (h ++ m ++ d ++ a ++ imm : BitVec (4 + 6 + 6 + 6 + 10)) = _
  rw [extractLsb'_append_eq_of_le (by decide), extractLsb'_append_eq_of_le (by decide), extractLsb'_append_eq_of_add_le (by omega)]

/-! ### Format CU -/

theorem fH_cu (h : Hal) (m : BitVec 6) (d : Reg) (imm : BitVec 16) : fH (cu h m d imm) = h := by
  show extractLsb' 28 4 (h ++ m ++ d ++ imm : BitVec (4 + 6 + 6 + 16)) = h
  simp (disch := decide) only [extractLsb'_append_eq_of_le, Nat.reduceSub, extractLsb'_eq_self]
theorem fMaj_cu (h : Hal) (m : BitVec 6) (d : Reg) (imm : BitVec 16) : fMaj (cu h m d imm) = m.toNat := by
  show (extractLsb' 22 6 (h ++ m ++ d ++ imm : BitVec (4 + 6 + 6 + 16))).toNat = m.toNat
  simp (disch := decide) only [extractLsb'_append_eq_of_le, extractLsb'_append_eq_of_add_le, Nat.reduceSub, extractLsb'_eq_self]
theorem fD_cu (h : Hal) (m : BitVec 6) (d : Reg) (imm : BitVec 16) : fD (cu h m d imm) = d := by
  show extractLsb' 16 6 (h ++ m ++ d ++ imm : BitVec (4 + 6 + 6 + 16)) = d
  simp (disch := decide) only [extractLsb'_append_eq_of_le, extractLsb'_append_eq_of_add_le, Nat.reduceSub, extractLsb'_eq_self]
theorem fI16_cu (h : Hal) (m : BitVec 6) (d : Reg) (imm : BitVec 16) : fI16 (cu h m d imm) = imm := by
  show extractLsb' 0 16 (h ++ m ++ d ++ imm : BitVec (4 + 6 + 6 + 16)) = imm
  simp (disch := decide) only [extractLsb'_append_eq_of_add_le, extractLsb'_eq_self]

/-! ### The second word -/

theorem ext_w2 (body : BitVec 28) (p l : Nat) (hl : p + l ≤ 28) : (w2 body).extractLsb' p l = body.extractLsb' p l := by
  show extractLsb' p l ((0 : BitVec 4) ++ body : BitVec (4 + 28)) = _
  rw [extractLsb'_append_eq_of_add_le hl]
theorem hal_w2 (body : BitVec 28) : (w2 body).extractLsb' 28 4 = 0 := by
  show extractLsb' 28 4 ((0 : BitVec 4) ++ body : BitVec (4 + 28)) = _
  rw [extractLsb'_append_eq_of_le (by decide)]; rfl

/-- Operand numbers of fewer bits in a register field. -/
theorem ext_r4 (b : BitVec 4) : (r4 b).extractLsb' 0 4 = b := by
  show extractLsb' 0 4 ((0 : BitVec 2) ++ b : BitVec (2 + 4)) = b
  rw [extractLsb'_append_eq_of_add_le (by decide), extractLsb'_eq_self]
theorem ext_r5 (b : BitVec 5) : (r5 b).extractLsb' 0 5 = b := by
  show extractLsb' 0 5 ((0 : BitVec 1) ++ b : BitVec (1 + 5)) = b
  rw [extractLsb'_append_eq_of_add_le (by decide), extractLsb'_eq_self]
theorem ext_r3 (b : BitVec 3) : (r3 b).extractLsb' 0 3 = b := by
  show extractLsb' 0 3 ((0 : BitVec 3) ++ b : BitVec (3 + 3)) = b
  rw [extractLsb'_append_eq_of_add_le (by decide), extractLsb'_eq_self]
theorem ext_r2 (b : BitVec 2) : (r2 b).extractLsb' 0 2 = b := by
  show extractLsb' 0 2 ((0 : BitVec 4) ++ b : BitVec (4 + 2)) = b
  rw [extractLsb'_append_eq_of_add_le (by decide), extractLsb'_eq_self]
theorem toNat_r4 (b : BitVec 4) : (r4 b).toNat = b.toNat := by revert b; decide
theorem toNat_r5 (b : BitVec 5) : (r5 b).toNat = b.toNat := by revert b; decide
theorem toNat_r3 (b : BitVec 3) : (r3 b).toNat = b.toNat := by revert b; decide
theorem toNat_r2 (b : BitVec 2) : (r2 b).toNat = b.toNat := by revert b; decide

/-- The body of major 0x27 reads back (R190). -/
theorem bodyMem_encMem (m : MemOrd) (op : BitVec 4) (c : Reg) : bodyMem (encMem m op c) = m := by
  obtain ⟨sc, aq, rl, sp, sz, off⟩ := m
  have e : ∀ p l, p + l ≤ 28 → (encMem ⟨sc, aq, rl, sp, sz, off⟩ op c).extractLsb' p l =
      (sc ++ b1 aq ++ b1 rl ++ sp ++ sz ++ op ++ c ++ off : BitVec (3 + 1 + 1 + 2 + 2 + 4 + 6 + 9)).extractLsb' p l :=
    fun p l h => ext_w2 _ p l h
  unfold bodyMem
  rw [e _ _ (by decide), e _ _ (by decide), e _ _ (by decide), e _ _ (by decide), e _ _ (by decide), e _ _ (by decide)]
  simp (disch := decide) only [extractLsb'_append_eq_of_le, extractLsb'_append_eq_of_add_le, Nat.reduceSub, extractLsb'_eq_self]
  cases aq <;> cases rl <;> rfl

/-- The body of the copy group reads back (R268). -/
theorem bodyCopy_encCopy (f : CopyF) : bodyCopy (encCopy f) = f := by
  obtain ⟨pt, c1, c2, c3, sc, dsp, ssp, rb⟩ := f
  have e : ∀ p l, p + l ≤ 28 → (encCopy ⟨pt, c1, c2, c3, sc, dsp, ssp, rb⟩).extractLsb' p l =
      (pt ++ c1 ++ c2 ++ c3 ++ sc ++ dsp ++ ssp ++ b1 rb : BitVec (5 + 5 + 5 + 5 + 3 + 2 + 2 + 1)).extractLsb' p l :=
    fun p l h => ext_w2 _ p l h
  unfold bodyCopy
  rw [e _ _ (by decide), e _ _ (by decide), e _ _ (by decide), e _ _ (by decide), e _ _ (by decide), e _ _ (by decide),
    e _ _ (by decide), e _ _ (by decide)]
  simp (disch := decide) only [extractLsb'_append_eq_of_le, extractLsb'_append_eq_of_add_le, Nat.reduceSub, extractLsb'_eq_self]
  cases rb <;> rfl

/-- A specifier with an allowed index reads back (R179). -/
theorem decSpec_encSpec (x : Spec) (h : x.ok = true) : decSpec (encSpec x) = some x := by
  match x with
  | .view (.row i) => clear h; revert i; decide
  | .view (.col i) =>
    have e1 : (encSpec (.view (.col i))).extractLsb' 9 2 = 1 := by
      show extractLsb' 9 2 ((1 : BitVec 2) ++ i : BitVec (2 + 9)) = 1
      rw [extractLsb'_append_eq_of_le (by decide)]; rfl
    have e2 : (encSpec (.view (.col i))).extractLsb' 0 9 = i := by
      show extractLsb' 0 9 ((1 : BitVec 2) ++ i : BitVec (2 + 9)) = i
      rw [extractLsb'_append_eq_of_add_le (by decide), extractLsb'_eq_self]
    have e3 : i.toNat < 384 := by simpa [Spec.ok, View.ok] using h
    simp only [decSpec, e1, e2]; simp [e3]
  | .view (.diag i) =>
    have e1 : (encSpec (.view (.diag i))).extractLsb' 9 2 = 2 := by
      show extractLsb' 9 2 ((2 : BitVec 2) ++ i : BitVec (2 + 9)) = 2
      rw [extractLsb'_append_eq_of_le (by decide)]; rfl
    have e2 : (encSpec (.view (.diag i))).extractLsb' 0 9 = i := by
      show extractLsb' 0 9 ((2 : BitVec 2) ++ i : BitVec (2 + 9)) = i
      rw [extractLsb'_append_eq_of_add_le (by decide), extractLsb'_eq_self]
    have e3 : i.toNat < 384 := by simpa [Spec.ok, View.ok] using h
    simp only [decSpec, e1, e2]; simp [e3]
  | .ereg n => revert n; decide
  | .port n => revert n; decide
  | .absent => decide
  | .imm v => clear h; revert v; decide

end Sys2Proof
end

