-- ==== Sys2Proof/Laws/Sparse.lean ====
section
/-! SUPPORT. Laws of sparse maps and memories: a read after a write, the frame of a write, and that every memory operation
keeps the canonical form. -/

namespace Sys2Proof.Machine

section
variable {α : Type} (d : α)

theorem smGet_smErase (m : SMap α) (k j : Nat) : smGet d (smErase m k) j = if j = k then d else smGet d m j := by
  induction m with
  | nil => simp [smErase, smGet]
  | cons p t ih =>
    obtain ⟨k', v⟩ := p
    by_cases h : k' = k <;> by_cases h' : k' = j <;> simp_all [smErase, smGet]

theorem smGet_smIns (m : SMap α) (k j : Nat) (v : α) (h : smGet d m k = d) (hk : ∀ p ∈ m, p.1 ≠ k) :
    smGet d (smIns m k v) j = if j = k then v else smGet d m j := by
  induction m with
  | nil => simp [smIns, smGet, eq_comm]
  | cons p t ih =>
    obtain ⟨k', v'⟩ := p
    have h1 : k' ≠ k := hk (k', v') (by simp)
    have h2 : ∀ p ∈ t, p.1 ≠ k := fun p hp => hk p (by simp [hp])
    by_cases hlt : k < k'
    · by_cases hj : j = k
      · simp [smIns, hlt, smGet, hj]
      · simp [smIns, hlt, smGet, hj, Ne.symm hj]
    · have := ih (by simpa [smGet, h1] using h) h2
      by_cases hj : k' = j
      · subst hj; simp [smIns, hlt, smGet, h1]
      · simp [smIns, hlt, smGet, hj, this]

theorem smErase_ne (m : SMap α) (k : Nat) : ∀ p ∈ smErase m k, p.1 ≠ k := by
  induction m with
  | nil => simp [smErase]
  | cons p t ih => obtain ⟨k', v⟩ := p; by_cases h : k' = k <;> simpa [smErase, h] using ih

theorem smErase_smErase (m : SMap α) (k : Nat) : smErase (smErase m k) k = smErase m k := by
  induction m with
  | nil => rfl
  | cons p t ih => obtain ⟨j, x⟩ := p; by_cases h : j = k <;> simp [smErase, h, ih]

theorem smErase_smIns (m : SMap α) (k : Nat) (v : α) : smErase (smIns m k v) k = smErase m k := by
  induction m with
  | nil => simp [smIns, smErase]
  | cons p t ih =>
    obtain ⟨j, x⟩ := p
    unfold smIns
    split
    · simp [smErase]
    · by_cases h : j = k <;> simp [smErase, h, ih]

/-- Of two writes of one entry the second stands. -/
@[simp] theorem smPut_smPut (m : SMap α) (k : Nat) (v w : α) : smPut (smPut m k v) k w = smPut m k w := by
  rw [smPut, smPut, smErase_smIns, smErase_smErase]; rfl

/-- A read after `smPut`. -/
@[simp] theorem smGet_smPut (m : SMap α) (k j : Nat) (v : α) : smGet d (smPut m k v) j = if j = k then v else smGet d m j := by
  rw [smPut, smGet_smIns d _ _ _ _ (by simp [smGet_smErase]) (smErase_ne m k)]
  by_cases h : j = k <;> simp [h, smGet_smErase]

/-- A read after `smSet`. -/
@[simp] theorem smGet_smSet [DecidableEq α] (m : SMap α) (k j : Nat) (v : α) :
    smGet d (smSet d m k v) j = if j = k then v else smGet d m j := by
  unfold smSet
  by_cases h : v = d <;> simp [h, smGet_smErase]

/-! ### The canonical form -/

variable [DecidableEq α]

theorem smWfFrom_mono {lo lo' : Nat} {m : SMap α} (h : smWfFrom d lo m = true) (hl : lo' ≤ lo) : smWfFrom d lo' m = true := by
  cases m with
  | nil => rfl
  | cons p t => obtain ⟨k, v⟩ := p; simp [smWfFrom] at h ⊢; exact ⟨⟨by omega, h.1.2⟩, h.2⟩

theorem smWfFrom_smErase {lo : Nat} {m : SMap α} (h : smWfFrom d lo m = true) (k : Nat) : smWfFrom d lo (smErase m k) = true := by
  induction m generalizing lo with
  | nil => rfl
  | cons p t ih =>
    obtain ⟨k', v⟩ := p
    simp [smWfFrom] at h
    by_cases hk : k' = k
    · simp [smErase, hk]; exact smWfFrom_mono d (ih h.2) (by omega)
    · simp [smErase, hk, smWfFrom, h.1]; exact ih h.2

theorem smWfFrom_smIns {lo : Nat} {m : SMap α} {k : Nat} {v : α} (h : smWfFrom d lo m = true) (hk : ∀ p ∈ m, p.1 ≠ k)
    (hl : lo ≤ k) (hv : v ≠ d) : smWfFrom d lo (smIns m k v) = true := by
  induction m generalizing lo with
  | nil => simp [smIns, smWfFrom, hl, hv]
  | cons p t ih =>
    obtain ⟨k', v'⟩ := p
    have h1 : k' ≠ k := hk (k', v') (by simp)
    simp [smWfFrom] at h
    by_cases hlt : k < k'
    · simp [smIns, hlt, smWfFrom, hl, hv, h]
    · simp [smIns, hlt, smWfFrom, h.1]
      exact ih h.2 (fun p hp => hk p (by simp [hp])) (by omega)

/-- `smSet` keeps the canonical form. -/
theorem smWf_smSet {m : SMap α} (h : smWf d m) (k : Nat) (v : α) : smWf d (smSet d m k v) := by
  unfold smSet
  split
  · exact smWfFrom_smErase d h k
  · exact smWfFrom_smIns d (smWfFrom_smErase d h k) (smErase_ne m k) (Nat.zero_le _) ‹_›

theorem smGet_below {lo j : Nat} {m : SMap α} (h : smWfFrom d lo m = true) (hj : j < lo) : smGet d m j = d := by
  induction m generalizing lo with
  | nil => rfl
  | cons p t ih =>
    obtain ⟨k, v⟩ := p
    simp [smWfFrom] at h
    have : k ≠ j := by omega
    simp [smGet, this]
    exact ih h.2 (by omega)

theorem smExt_from {lo : Nat} {m n : SMap α} (hm : smWfFrom d lo m = true) (hn : smWfFrom d lo n = true)
    (h : ∀ j, smGet d m j = smGet d n j) : m = n := by
  induction m generalizing lo n with
  | nil =>
    cases n with
    | nil => rfl
    | cons p t =>
      obtain ⟨k, v⟩ := p
      simp [smWfFrom] at hn
      exact absurd (h k) (by simp [smGet]; exact fun e => hn.1.2 e.symm)
  | cons p t ih =>
    obtain ⟨k, v⟩ := p
    cases n with
    | nil =>
      simp [smWfFrom] at hm
      exact absurd (h k) (by simp [smGet]; exact hm.1.2)
    | cons q u =>
      obtain ⟨k', v'⟩ := q
      simp [smWfFrom] at hm hn
      have hkk : k = k' := by
        rcases Nat.lt_trichotomy k k' with hlt | he | hgt
        · have := h k
          have h0 : k' ≠ k := by omega
          rw [smGet, if_pos rfl, smGet, if_neg h0, smGet_below d hn.2 (by omega)] at this
          exact absurd this hm.1.2
        · exact he
        · have := h k'
          have h0 : k ≠ k' := by omega
          rw [smGet, if_neg h0, smGet, if_pos rfl, smGet_below d hm.2 (by omega)] at this
          exact absurd this.symm hn.1.2
      subst hkk
      have hv : v = v' := by have := h k; simpa [smGet] using this
      subst hv
      congr 1
      refine ih hm.2 hn.2 fun j => ?_
      by_cases hj : k = j
      · subst hj; rw [smGet_below d hm.2 (by omega), smGet_below d hn.2 (by omega)]
      · have := h j; simpa [smGet, hj] using this

/-- Two canonical maps that read alike are equal. -/
theorem smWf_ext {m n : SMap α} (hm : smWf d m) (hn : smWf d n) (h : ∀ j, smGet d m j = smGet d n j) : m = n :=
  smExt_from d hm hn h

end

/-! ### Memories -/

@[simp] theorem memGet_memSet (m : Mem) (a j : Nat) (b : Byte) : memGet (memSet m a b) j = if j = a then b else memGet m j := by
  simp [memGet, memSet]

theorem Mem.wf_memSet {m : Mem} (h : m.wf) (a : Nat) (b : Byte) : (memSet m a b).wf := smWf_smSet _ h a b

theorem Mem.wf_memPut {m : Mem} (h : m.wf) (a : Nat) (l : List Byte) : (memPut m a l).wf := by
  induction l generalizing m a with
  | nil => exact h
  | cons b t ih => exact ih (Mem.wf_memSet h a b) _

theorem Mem.wf_memWr {m : Mem} (h : m.wf) (a n v : Nat) : (memWr m a n v).wf := Mem.wf_memPut h _ _

/-- A write of bytes changes only the bytes it covers. -/
theorem memGet_memPut (m : Mem) (a j : Nat) (l : List Byte) :
    memGet (memPut m a l) j = if a ≤ j ∧ j < a + l.length then l.getD (j - a) 0 else memGet m j := by
  induction l generalizing m a with
  | nil => simp [memPut]
  | cons b t ih =>
    rw [memPut, ih]
    by_cases h1 : j = a
    · subst h1; simp
    · by_cases h2 : a + 1 ≤ j ∧ j < a + 1 + t.length
      · have h3 : j - a = (j - (a + 1)) + 1 := by omega
        have h4 : a ≤ j ∧ j < a + (t.length + 1) := by omega
        simp [h2, h4, h3]
      · have h4 : ¬ (a ≤ j ∧ j < a + (t.length + 1)) := by omega
        rw [if_neg h2, if_neg (by simpa using h4), memGet_memSet, if_neg h1]

@[simp] theorem length_leBytes (v n : Nat) : (leBytes v n).length = n := by
  induction n generalizing v with
  | zero => rfl
  | succ n ih => simp [leBytes, ih]

@[simp] theorem length_memBytes (m : Mem) (a n : Nat) : (memBytes m a n).length = n := by
  induction n generalizing a with
  | zero => rfl
  | succ n ih => simp [memBytes, ih]

/-- A write of a number changes only its bytes. -/
theorem memGet_memWr_of_outside (m : Mem) (a n v j : Nat) (h : j < a ∨ a + n ≤ j) : memGet (memWr m a n v) j = memGet m j := by
  rw [memWr, memGet_memPut]
  simp only [length_leBytes]
  rw [if_neg (by omega)]

theorem leVal_leBytes (v n : Nat) : leVal (leBytes v n) = v % 256 ^ n := by
  induction n generalizing v with
  | zero => simp [leBytes, leVal, Nat.mod_one]
  | succ n ih =>
    simp only [leBytes, leVal, ih, BitVec.toNat_ofNat]
    rw [show (2 : Nat) ^ 8 = 256 from rfl, Nat.pow_succ, Nat.mul_comm (256 ^ n) 256, Nat.mod_mul]

theorem memBytes_memPut_below (m : Mem) (a c n : Nat) (l : List Byte) (h : c + n ≤ a) :
    memBytes (memPut m a l) c n = memBytes m c n := by
  induction n generalizing c with
  | zero => rfl
  | succ n ih =>
    simp only [memBytes]
    rw [ih (c + 1) (by omega), memGet_memPut, if_neg (by omega)]

theorem memBytes_memPut (m : Mem) (a : Nat) (l : List Byte) : memBytes (memPut m a l) a l.length = l := by
  induction l generalizing m a with
  | nil => rfl
  | cons b t ih =>
    simp only [List.length_cons, memBytes, memPut]
    rw [ih, memGet_memPut, if_neg (by omega)]
    simp

/-- A read after a write of the same place gives the value written, at the width. -/
@[simp] theorem memRd_memWr (m : Mem) (a n v : Nat) : memRd (memWr m a n v) a n = v % 256 ^ n := by
  have h := memBytes_memPut m a (leBytes v n)
  rw [length_leBytes] at h
  rw [memRd, memWr, h, leVal_leBytes]

end Sys2Proof.Machine
end

