-- ==== Sys2Proof/Laws/Grid.lean ====
section
/-! SUPPORT. Laws of the grid: an element read after an element written, at every width and in every kind of view. -/

namespace Sys2Proof.Machine

/-- The element widths. -/
def widthOk (bits : Nat) : Prop := bits = 8 ∨ bits = 16 ∨ bits = 32

/-! ### Slots of a cell -/

/-- A slot read after a slot written. -/
theorem subGet_subSet {bits sub sub' : Nat} (hb : widthOk bits) (c : Word) (v : Nat) (h : sub < 32 / bits) (h' : sub' < 32 / bits) :
    subGet (subSet c bits sub v) bits sub' = if sub' = sub then v % 2 ^ bits else subGet c bits sub' := by
  have hc := c.isLt
  rcases hb with rfl | rfl | rfl
  · have e : sub = 0 ∨ sub = 1 ∨ sub = 2 ∨ sub = 3 := by omega
    have e' : sub' = 0 ∨ sub' = 1 ∨ sub' = 2 ∨ sub' = 3 := by omega
    rcases e with rfl | rfl | rfl | rfl <;> rcases e' with rfl | rfl | rfl | rfl <;>
      simp [subGet, subSet, BitVec.toNat_ofNat] <;> omega
  · have e : sub = 0 ∨ sub = 1 := by omega
    have e' : sub' = 0 ∨ sub' = 1 := by omega
    rcases e with rfl | rfl <;> rcases e' with rfl | rfl <;> simp [subGet, subSet, BitVec.toNat_ofNat] <;> omega
  · have : sub = 0 := by omega
    have : sub' = 0 := by omega
    subst sub sub'
    simp [subGet, subSet, BitVec.toNat_ofNat]; omega

/-! ### Cells -/

/-- A cell read after a cell written. -/
theorem cellGet_cellSet (g : Grd) {i j i' j' : Nat} (v : Word) (hj : j < 384) (hj' : j' < 384) :
    cellGet (cellSet g i j v) i' j' = if i' = i ∧ j' = j then v else cellGet g i' j' := by
  simp only [cellGet, cellSet, smGet_smSet]
  by_cases h : i' = i ∧ j' = j
  · rw [if_pos h, if_pos (by rw [h.1, h.2])]
  · rw [if_neg h, if_neg (by omega)]

theorem cellSet_rows (g : Grd) (i j : Nat) (v : Word) : (cellSet g i j v).rows = g.rows := rfl

/-! ### Elements -/

theorem vlmax_eq (kind grp bits : Nat) : vlmax kind grp bits = (if kind = 0 then 384 else 256) * 2 ^ grp * (32 / bits) := rfl

theorem viewCells_eq (v : View) : viewCells v = if viewKind v = 0 then 384 else 256 := by cases v <;> rfl

theorem widthOk_per {bits : Nat} (h : widthOk bits) : 0 < 32 / bits := by rcases h with rfl | rfl | rfl <;> decide

theorem elemPlace_col {v : View} {bits k : Nat} (hb : widthOk bits) : (elemPlace v bits k).2.1 < 384 := by
  have hp := widthOk_per hb
  have : k % (viewCells v * (32 / bits)) / (32 / bits) < viewCells v := by
    have hc : 0 < viewCells v := by cases v <;> simp [viewCells]
    apply Nat.div_lt_of_lt_mul
    rw [Nat.mul_comm (32 / bits)]
    exact Nat.mod_lt _ (Nat.mul_pos hc hp)
  cases v with
  | row i => simpa [elemPlace, viewCell, viewCells] using this
  | col i => simp only [elemPlace, viewCell]; exact Nat.mod_lt _ (by decide)
  | diag i => simp only [elemPlace, viewCell]; exact Nat.mod_lt _ (by decide)

theorem elemPlace_sub {v : View} {bits k : Nat} (hb : widthOk bits) : (elemPlace v bits k).2.2 < 32 / bits := by
  simp only [elemPlace]; exact Nat.mod_lt _ (widthOk_per hb)

/-- Two elements of a group of at most 8 views have two places (R97, R98). -/
theorem elemPlace_inj {v : View} {bits grp k k' : Nat} (hb : widthOk bits) (hg : grp < 4)
    (hk : k < vlmax (viewKind v) grp bits) (hk' : k' < vlmax (viewKind v) grp bits)
    (h : elemPlace v bits k = elemPlace v bits k') : k = k' := by
  have hp := widthOk_per hb
  rw [vlmax_eq, ← viewCells_eq] at hk hk'
  have hc : 0 < viewCells v := by cases v <;> simp [viewCells]
  have hq : 0 < viewCells v * (32 / bits) := Nat.mul_pos hc hp
  generalize hp' : 32 / bits = p at *
  have h8 : 2 ^ grp ≤ 8 := by
    have : grp = 0 ∨ grp = 1 ∨ grp = 2 ∨ grp = 3 := by omega
    rcases this with rfl | rfl | rfl | rfl <;> decide
  have hd (x : Nat) (hx : x < viewCells v * 2 ^ grp * p) : x / (viewCells v * p) < 8 := by
    apply lt_of_lt_of_le _ h8
    apply Nat.div_lt_of_lt_mul
    calc x < viewCells v * 2 ^ grp * p := hx
      _ = viewCells v * p * 2 ^ grp := by ring
  have d1 := hd k hk
  have d2 := hd k' hk'
  have e1 := Nat.div_add_mod k (viewCells v * p)
  have e2 := Nat.div_add_mod k' (viewCells v * p)
  have f1 := Nat.div_add_mod (k % (viewCells v * p)) p
  have f2 := Nat.div_add_mod (k' % (viewCells v * p)) p
  have c1 : k % (viewCells v * p) / p < viewCells v := by
    apply Nat.div_lt_of_lt_mul; rw [Nat.mul_comm p]; exact Nat.mod_lt _ hq
  have c2 : k' % (viewCells v * p) / p < viewCells v := by
    apply Nat.div_lt_of_lt_mul; rw [Nat.mul_comm p]; exact Nat.mod_lt _ hq
  generalize hA : k / (viewCells v * p) = A at *
  generalize hA' : k' / (viewCells v * p) = A' at *
  generalize hB : k % (viewCells v * p) / p = B at *
  generalize hB' : k' % (viewCells v * p) / p = B' at *
  generalize hC : k % (viewCells v * p) % p = C at *
  generalize hC' : k' % (viewCells v * p) % p = C' at *
  have hAB : A = A' ∧ B = B' ∧ C = C' := by
    cases v with
    | row i =>
      simp only [elemPlace, viewCell, hp', hA, hA', hB, hB', hC, hC', Prod.mk.injEq] at h
      refine ⟨?_, h.2.1, h.2.2⟩
      have := i.isLt; omega
    | col i =>
      simp only [elemPlace, viewCell, hp', hA, hA', hB, hB', hC, hC', Prod.mk.injEq] at h
      refine ⟨?_, h.1, h.2.2⟩
      have := i.isLt; omega
    | diag i =>
      simp only [elemPlace, viewCell, hp', hA, hA', hB, hB', hC, hC', Prod.mk.injEq] at h
      refine ⟨?_, h.1, h.2.2⟩
      have := i.isLt; omega
  obtain ⟨rfl, rfl, rfl⟩ := hAB
  rw [← e1, ← e2, ← f1, ← f2]

/-- An element read after an element written. -/
theorem elemGet_elemSet {g : Grd} {v : View} {bits grp k k' x : Nat} (hb : widthOk bits) (hg : grp < 4)
    (hk : k < vlmax (viewKind v) grp bits) (hk' : k' < vlmax (viewKind v) grp bits) :
    elemGet (elemSet g v bits k x) v bits k' = if k' = k then x % 2 ^ bits else elemGet g v bits k' := by
  have s1 := elemPlace_sub (v := v) (k := k) hb
  have s2 := elemPlace_sub (v := v) (k := k') hb
  have j1 := elemPlace_col (v := v) (k := k) hb
  have j2 := elemPlace_col (v := v) (k := k') hb
  simp only [elemGet, elemSet, cellGet_cellSet g _ j1 j2]
  by_cases h : k' = k
  · subst h; simp [subGet_subSet hb, s1]
  · rw [if_neg h]
    by_cases hc : (elemPlace v bits k').1 = (elemPlace v bits k).1 ∧ (elemPlace v bits k').2.1 = (elemPlace v bits k).2.1
    · rw [if_pos hc, subGet_subSet hb _ _ s1 s2, if_neg, hc.1, hc.2]
      intro hs
      exact h (elemPlace_inj hb hg hk' hk (Prod.ext hc.1 (Prod.ext hc.2 hs)))
    · rw [if_neg hc]

theorem elemGet_putElems_frame {g : Grd} {v : View} {bits grp : Nat} (hb : widthOk bits) (hg : grp < 4) {k : Nat}
    (hk : k < vlmax (viewKind v) grp bits) (l : List (Nat × Nat)) (hl : ∀ p ∈ l, p.1 < vlmax (viewKind v) grp bits ∧ p.1 ≠ k) :
    elemGet (putElems g v bits l) v bits k = elemGet g v bits k := by
  induction l generalizing g with
  | nil => rfl
  | cons p t ih =>
    have hp := hl p (by simp)
    rw [putElems, List.foldl_cons]
    rw [show List.foldl (fun g p => elemSet g v bits p.1 p.2) (elemSet g v bits p.1 p.2) t
      = putElems (elemSet g v bits p.1 p.2) v bits t from rfl, ih fun q hq => hl q (by simp [hq])]
    rw [elemGet_elemSet hb hg hp.1 hk, if_neg (Ne.symm hp.2)]

/-- The last value written to an element in a list of writes is what it reads as. -/
theorem elemGet_putElems {g : Grd} {v : View} {bits grp : Nat} (hb : widthOk bits) (hg : grp < 4) {k x : Nat}
    (hk : k < vlmax (viewKind v) grp bits) (l₁ l₂ : List (Nat × Nat))
    (h2 : ∀ p ∈ l₂, p.1 < vlmax (viewKind v) grp bits ∧ p.1 ≠ k) :
    elemGet (putElems g v bits (l₁ ++ (k, x) :: l₂)) v bits k = x % 2 ^ bits := by
  rw [putElems, List.foldl_append, List.foldl_cons]
  rw [show List.foldl (fun g p => elemSet g v bits p.1 p.2) (elemSet (List.foldl (fun g p => elemSet g v bits p.1 p.2) g l₁) v bits k x) l₂
    = putElems (elemSet (List.foldl (fun g p => elemSet g v bits p.1 p.2) g l₁) v bits k x) v bits l₂ from rfl]
  rw [elemGet_putElems_frame hb hg hk l₂ h2, elemGet_elemSet hb hg hk hk, if_pos rfl]

theorem sewBits_ok (x : BitVec 2) : widthOk (sewBits x) := by
  unfold sewBits widthOk; split
  · simp
  · split <;> simp

end Sys2Proof.Machine
end

