-- ==== Sys2Proof/Laws/State.lean ====
section
/-! SUPPORT. One lemma per field per update of the state and of a core: what each update leaves, true by `rfl`, and what it
writes. No later proof unfolds a record update. -/

namespace Sys2Proof.Machine

/-! ### `State.setCoreN` writes `cores` alone -/

@[simp] theorem State.setCoreN_clock (s : State) (n : Nat) (c : Core) : (s.setCoreN n c).clock = s.clock := rfl
@[simp] theorem State.setCoreN_clocksOn (s : State) (n : Nat) (c : Core) : (s.setCoreN n c).clocksOn = s.clocksOn := rfl
@[simp] theorem State.setCoreN_powered (s : State) (n : Nat) (c : Core) : (s.setCoreN n c).powered = s.powered := rfl
@[simp] theorem State.setCoreN_gangs (s : State) (n : Nat) (c : Core) : (s.setCoreN n c).gangs = s.gangs := rfl
@[simp] theorem State.setCoreN_clusters (s : State) (n : Nat) (c : Core) : (s.setCoreN n c).clusters = s.clusters := rfl
@[simp] theorem State.setCoreN_mem (s : State) (n : Nat) (c : Core) : (s.setCoreN n c).mem = s.mem := rfl
@[simp] theorem State.setCoreN_tags (s : State) (n : Nat) (c : Core) : (s.setCoreN n c).tags = s.tags := rfl
@[simp] theorem State.setCoreN_poison (s : State) (n : Nat) (c : Core) : (s.setCoreN n c).poison = s.poison := rfl
@[simp] theorem State.setCoreN_ready (s : State) (n : Nat) (c : Core) : (s.setCoreN n c).ready = s.ready := rfl
@[simp] theorem State.setCoreN_failed (s : State) (n : Nat) (c : Core) : (s.setCoreN n c).failed = s.failed := rfl
@[simp] theorem State.setCoreN_bootstat (s : State) (n : Nat) (c : Core) : (s.setCoreN n c).bootstat = s.bootstat := rfl
@[simp] theorem State.setCoreN_asidtab (s : State) (n : Nat) (c : Core) : (s.setCoreN n c).asidtab = s.asidtab := rfl
@[simp] theorem State.setCoreN_ecc (s : State) (n : Nat) (c : Core) : (s.setCoreN n c).ecc = s.ecc := rfl
@[simp] theorem State.setCoreN_classes (s : State) (n : Nat) (c : Core) : (s.setCoreN n c).classes = s.classes := rfl
@[simp] theorem State.setCoreN_queues (s : State) (n : Nat) (c : Core) : (s.setCoreN n c).queues = s.queues := rfl
@[simp] theorem State.setCoreN_launches (s : State) (n : Nat) (c : Core) : (s.setCoreN n c).launches = s.launches := rfl
@[simp] theorem State.setCoreN_nextLaunch (s : State) (n : Nat) (c : Core) : (s.setCoreN n c).nextLaunch = s.nextLaunch := rfl
@[simp] theorem State.setCoreN_nextGang (s : State) (n : Nat) (c : Core) : (s.setCoreN n c).nextGang = s.nextGang := rfl
@[simp] theorem State.setCoreN_segs (s : State) (n : Nat) (c : Core) : (s.setCoreN n c).segs = s.segs := rfl
@[simp] theorem State.setCoreN_mgmtBase (s : State) (n : Nat) (c : Core) : (s.setCoreN n c).mgmtBase = s.mgmtBase := rfl
@[simp] theorem State.setCoreN_denBase (s : State) (n : Nat) (c : Core) : (s.setCoreN n c).denBase = s.denBase := rfl
@[simp] theorem State.setCoreN_denSize (s : State) (n : Nat) (c : Core) : (s.setCoreN n c).denSize = s.denSize := rfl
@[simp] theorem State.setCoreN_ringBase (s : State) (n : Nat) (c : Core) : (s.setCoreN n c).ringBase = s.ringBase := rfl
@[simp] theorem State.setCoreN_modNum (s : State) (n : Nat) (c : Core) : (s.setCoreN n c).modNum = s.modNum := rfl
@[simp] theorem State.setCoreN_powerLimit (s : State) (n : Nat) (c : Core) : (s.setCoreN n c).powerLimit = s.powerLimit := rfl
@[simp] theorem State.setCoreN_routes (s : State) (n : Nat) (c : Core) : (s.setCoreN n c).routes = s.routes := rfl
@[simp] theorem State.setCoreN_ports (s : State) (n : Nat) (c : Core) : (s.setCoreN n c).ports = s.ports := rfl
@[simp] theorem State.setCoreN_inbound (s : State) (n : Nat) (c : Core) : (s.setCoreN n c).inbound = s.inbound := rfl
@[simp] theorem State.setCoreN_qhaBase (s : State) (n : Nat) (c : Core) : (s.setCoreN n c).qhaBase = s.qhaBase := rfl
@[simp] theorem State.setCoreN_qhaLock (s : State) (n : Nat) (c : Core) : (s.setCoreN n c).qhaLock = s.qhaLock := rfl
@[simp] theorem State.setCoreN_qhaErr (s : State) (n : Nat) (c : Core) : (s.setCoreN n c).qhaErr = s.qhaErr := rfl
@[simp] theorem State.setCoreN_msix (s : State) (n : Nat) (c : Core) : (s.setCoreN n c).msix = s.msix := rfl
@[simp] theorem State.setCoreN_msixTable (s : State) (n : Nat) (c : Core) : (s.setCoreN n c).msixTable = s.msixTable := rfl
@[simp] theorem State.setCoreN_dbg (s : State) (n : Nat) (c : Core) : (s.setCoreN n c).dbg = s.dbg := rfl
@[simp] theorem State.setCoreN_recs (s : State) (n : Nat) (c : Core) : (s.setCoreN n c).recs = s.recs := rfl
@[simp] theorem State.setCoreN_mail (s : State) (n : Nat) (c : Core) : (s.setCoreN n c).mail = s.mail := rfl
@[simp] theorem State.setCoreN_acks (s : State) (n : Nat) (c : Core) : (s.setCoreN n c).acks = s.acks := rfl
@[simp] theorem State.setCoreN_saves (s : State) (n : Nat) (c : Core) : (s.setCoreN n c).saves = s.saves := rfl
@[simp] theorem State.setCoreN_nextSave (s : State) (n : Nat) (c : Core) : (s.setCoreN n c).nextSave = s.nextSave := rfl
@[simp] theorem State.setCoreN_flash (s : State) (n : Nat) (c : Core) : (s.setCoreN n c).flash = s.flash := rfl
@[simp] theorem State.setCoreN_repairs (s : State) (n : Nat) (c : Core) : (s.setCoreN n c).repairs = s.repairs := rfl
@[simp] theorem State.setCoreN_devCert (s : State) (n : Nat) (c : Core) : (s.setCoreN n c).devCert = s.devCert := rfl
@[simp] theorem State.setCoreN_devPub (s : State) (n : Nat) (c : Core) : (s.setCoreN n c).devPub = s.devPub := rfl
@[simp] theorem State.setCoreN_devPriv (s : State) (n : Nat) (c : Core) : (s.setCoreN n c).devPriv = s.devPriv := rfl
@[simp] theorem State.setCoreN_vc3 (s : State) (n : Nat) (c : Core) : (s.setCoreN n c).vc3 = s.vc3 := rfl
@[simp] theorem State.setCoreN_reply (s : State) (n : Nat) (c : Core) : (s.setCoreN n c).reply = s.reply := rfl
@[simp] theorem State.setCoreN_cpLog (s : State) (n : Nat) (c : Core) : (s.setCoreN n c).cpLog = s.cpLog := rfl
@[simp] theorem State.setCoreN_throttle (s : State) (n : Nat) (c : Core) : (s.setCoreN n c).throttle = s.throttle := rfl
@[simp] theorem State.setCoreN_free (s : State) (n : Nat) (c : Core) : (s.setCoreN n c).free = s.free := rfl
@[simp] theorem State.setCoreN_cur (s : State) (n : Nat) (c : Core) : (s.setCoreN n c).cur = s.cur := rfl
@[simp] theorem State.setCoreN_agenda (s : State) (n : Nat) (c : Core) : (s.setCoreN n c).agenda = s.agenda := rfl
@[simp] theorem State.setCoreN_rr (s : State) (n : Nat) (c : Core) : (s.setCoreN n c).rr = s.rr := rfl

/-! ### `State.setCore` writes `cores` alone -/

@[simp] theorem State.setCore_clock (s : State) (c : Core) : (s.setCore c).clock = s.clock := rfl
@[simp] theorem State.setCore_clocksOn (s : State) (c : Core) : (s.setCore c).clocksOn = s.clocksOn := rfl
@[simp] theorem State.setCore_powered (s : State) (c : Core) : (s.setCore c).powered = s.powered := rfl
@[simp] theorem State.setCore_gangs (s : State) (c : Core) : (s.setCore c).gangs = s.gangs := rfl
@[simp] theorem State.setCore_clusters (s : State) (c : Core) : (s.setCore c).clusters = s.clusters := rfl
@[simp] theorem State.setCore_mem (s : State) (c : Core) : (s.setCore c).mem = s.mem := rfl
@[simp] theorem State.setCore_tags (s : State) (c : Core) : (s.setCore c).tags = s.tags := rfl
@[simp] theorem State.setCore_poison (s : State) (c : Core) : (s.setCore c).poison = s.poison := rfl
@[simp] theorem State.setCore_ready (s : State) (c : Core) : (s.setCore c).ready = s.ready := rfl
@[simp] theorem State.setCore_failed (s : State) (c : Core) : (s.setCore c).failed = s.failed := rfl
@[simp] theorem State.setCore_bootstat (s : State) (c : Core) : (s.setCore c).bootstat = s.bootstat := rfl
@[simp] theorem State.setCore_asidtab (s : State) (c : Core) : (s.setCore c).asidtab = s.asidtab := rfl
@[simp] theorem State.setCore_ecc (s : State) (c : Core) : (s.setCore c).ecc = s.ecc := rfl
@[simp] theorem State.setCore_classes (s : State) (c : Core) : (s.setCore c).classes = s.classes := rfl
@[simp] theorem State.setCore_queues (s : State) (c : Core) : (s.setCore c).queues = s.queues := rfl
@[simp] theorem State.setCore_launches (s : State) (c : Core) : (s.setCore c).launches = s.launches := rfl
@[simp] theorem State.setCore_nextLaunch (s : State) (c : Core) : (s.setCore c).nextLaunch = s.nextLaunch := rfl
@[simp] theorem State.setCore_nextGang (s : State) (c : Core) : (s.setCore c).nextGang = s.nextGang := rfl
@[simp] theorem State.setCore_segs (s : State) (c : Core) : (s.setCore c).segs = s.segs := rfl
@[simp] theorem State.setCore_mgmtBase (s : State) (c : Core) : (s.setCore c).mgmtBase = s.mgmtBase := rfl
@[simp] theorem State.setCore_denBase (s : State) (c : Core) : (s.setCore c).denBase = s.denBase := rfl
@[simp] theorem State.setCore_denSize (s : State) (c : Core) : (s.setCore c).denSize = s.denSize := rfl
@[simp] theorem State.setCore_ringBase (s : State) (c : Core) : (s.setCore c).ringBase = s.ringBase := rfl
@[simp] theorem State.setCore_modNum (s : State) (c : Core) : (s.setCore c).modNum = s.modNum := rfl
@[simp] theorem State.setCore_powerLimit (s : State) (c : Core) : (s.setCore c).powerLimit = s.powerLimit := rfl
@[simp] theorem State.setCore_routes (s : State) (c : Core) : (s.setCore c).routes = s.routes := rfl
@[simp] theorem State.setCore_ports (s : State) (c : Core) : (s.setCore c).ports = s.ports := rfl
@[simp] theorem State.setCore_inbound (s : State) (c : Core) : (s.setCore c).inbound = s.inbound := rfl
@[simp] theorem State.setCore_qhaBase (s : State) (c : Core) : (s.setCore c).qhaBase = s.qhaBase := rfl
@[simp] theorem State.setCore_qhaLock (s : State) (c : Core) : (s.setCore c).qhaLock = s.qhaLock := rfl
@[simp] theorem State.setCore_qhaErr (s : State) (c : Core) : (s.setCore c).qhaErr = s.qhaErr := rfl
@[simp] theorem State.setCore_msix (s : State) (c : Core) : (s.setCore c).msix = s.msix := rfl
@[simp] theorem State.setCore_msixTable (s : State) (c : Core) : (s.setCore c).msixTable = s.msixTable := rfl
@[simp] theorem State.setCore_dbg (s : State) (c : Core) : (s.setCore c).dbg = s.dbg := rfl
@[simp] theorem State.setCore_recs (s : State) (c : Core) : (s.setCore c).recs = s.recs := rfl
@[simp] theorem State.setCore_mail (s : State) (c : Core) : (s.setCore c).mail = s.mail := rfl
@[simp] theorem State.setCore_acks (s : State) (c : Core) : (s.setCore c).acks = s.acks := rfl
@[simp] theorem State.setCore_saves (s : State) (c : Core) : (s.setCore c).saves = s.saves := rfl
@[simp] theorem State.setCore_nextSave (s : State) (c : Core) : (s.setCore c).nextSave = s.nextSave := rfl
@[simp] theorem State.setCore_flash (s : State) (c : Core) : (s.setCore c).flash = s.flash := rfl
@[simp] theorem State.setCore_repairs (s : State) (c : Core) : (s.setCore c).repairs = s.repairs := rfl
@[simp] theorem State.setCore_devCert (s : State) (c : Core) : (s.setCore c).devCert = s.devCert := rfl
@[simp] theorem State.setCore_devPub (s : State) (c : Core) : (s.setCore c).devPub = s.devPub := rfl
@[simp] theorem State.setCore_devPriv (s : State) (c : Core) : (s.setCore c).devPriv = s.devPriv := rfl
@[simp] theorem State.setCore_vc3 (s : State) (c : Core) : (s.setCore c).vc3 = s.vc3 := rfl
@[simp] theorem State.setCore_reply (s : State) (c : Core) : (s.setCore c).reply = s.reply := rfl
@[simp] theorem State.setCore_cpLog (s : State) (c : Core) : (s.setCore c).cpLog = s.cpLog := rfl
@[simp] theorem State.setCore_throttle (s : State) (c : Core) : (s.setCore c).throttle = s.throttle := rfl
@[simp] theorem State.setCore_free (s : State) (c : Core) : (s.setCore c).free = s.free := rfl
@[simp] theorem State.setCore_cur (s : State) (c : Core) : (s.setCore c).cur = s.cur := rfl
@[simp] theorem State.setCore_agenda (s : State) (c : Core) : (s.setCore c).agenda = s.agenda := rfl
@[simp] theorem State.setCore_rr (s : State) (c : Core) : (s.setCore c).rr = s.rr := rfl

/-! ### `State.updN` writes `cores` alone -/

@[simp] theorem State.updN_clock (s : State) (n : Nat) (f : Core → Core) : (s.updN n f).clock = s.clock := rfl
@[simp] theorem State.updN_clocksOn (s : State) (n : Nat) (f : Core → Core) : (s.updN n f).clocksOn = s.clocksOn := rfl
@[simp] theorem State.updN_powered (s : State) (n : Nat) (f : Core → Core) : (s.updN n f).powered = s.powered := rfl
@[simp] theorem State.updN_gangs (s : State) (n : Nat) (f : Core → Core) : (s.updN n f).gangs = s.gangs := rfl
@[simp] theorem State.updN_clusters (s : State) (n : Nat) (f : Core → Core) : (s.updN n f).clusters = s.clusters := rfl
@[simp] theorem State.updN_mem (s : State) (n : Nat) (f : Core → Core) : (s.updN n f).mem = s.mem := rfl
@[simp] theorem State.updN_tags (s : State) (n : Nat) (f : Core → Core) : (s.updN n f).tags = s.tags := rfl
@[simp] theorem State.updN_poison (s : State) (n : Nat) (f : Core → Core) : (s.updN n f).poison = s.poison := rfl
@[simp] theorem State.updN_ready (s : State) (n : Nat) (f : Core → Core) : (s.updN n f).ready = s.ready := rfl
@[simp] theorem State.updN_failed (s : State) (n : Nat) (f : Core → Core) : (s.updN n f).failed = s.failed := rfl
@[simp] theorem State.updN_bootstat (s : State) (n : Nat) (f : Core → Core) : (s.updN n f).bootstat = s.bootstat := rfl
@[simp] theorem State.updN_asidtab (s : State) (n : Nat) (f : Core → Core) : (s.updN n f).asidtab = s.asidtab := rfl
@[simp] theorem State.updN_ecc (s : State) (n : Nat) (f : Core → Core) : (s.updN n f).ecc = s.ecc := rfl
@[simp] theorem State.updN_classes (s : State) (n : Nat) (f : Core → Core) : (s.updN n f).classes = s.classes := rfl
@[simp] theorem State.updN_queues (s : State) (n : Nat) (f : Core → Core) : (s.updN n f).queues = s.queues := rfl
@[simp] theorem State.updN_launches (s : State) (n : Nat) (f : Core → Core) : (s.updN n f).launches = s.launches := rfl
@[simp] theorem State.updN_nextLaunch (s : State) (n : Nat) (f : Core → Core) : (s.updN n f).nextLaunch = s.nextLaunch := rfl
@[simp] theorem State.updN_nextGang (s : State) (n : Nat) (f : Core → Core) : (s.updN n f).nextGang = s.nextGang := rfl
@[simp] theorem State.updN_segs (s : State) (n : Nat) (f : Core → Core) : (s.updN n f).segs = s.segs := rfl
@[simp] theorem State.updN_mgmtBase (s : State) (n : Nat) (f : Core → Core) : (s.updN n f).mgmtBase = s.mgmtBase := rfl
@[simp] theorem State.updN_denBase (s : State) (n : Nat) (f : Core → Core) : (s.updN n f).denBase = s.denBase := rfl
@[simp] theorem State.updN_denSize (s : State) (n : Nat) (f : Core → Core) : (s.updN n f).denSize = s.denSize := rfl
@[simp] theorem State.updN_ringBase (s : State) (n : Nat) (f : Core → Core) : (s.updN n f).ringBase = s.ringBase := rfl
@[simp] theorem State.updN_modNum (s : State) (n : Nat) (f : Core → Core) : (s.updN n f).modNum = s.modNum := rfl
@[simp] theorem State.updN_powerLimit (s : State) (n : Nat) (f : Core → Core) : (s.updN n f).powerLimit = s.powerLimit := rfl
@[simp] theorem State.updN_routes (s : State) (n : Nat) (f : Core → Core) : (s.updN n f).routes = s.routes := rfl
@[simp] theorem State.updN_ports (s : State) (n : Nat) (f : Core → Core) : (s.updN n f).ports = s.ports := rfl
@[simp] theorem State.updN_inbound (s : State) (n : Nat) (f : Core → Core) : (s.updN n f).inbound = s.inbound := rfl
@[simp] theorem State.updN_qhaBase (s : State) (n : Nat) (f : Core → Core) : (s.updN n f).qhaBase = s.qhaBase := rfl
@[simp] theorem State.updN_qhaLock (s : State) (n : Nat) (f : Core → Core) : (s.updN n f).qhaLock = s.qhaLock := rfl
@[simp] theorem State.updN_qhaErr (s : State) (n : Nat) (f : Core → Core) : (s.updN n f).qhaErr = s.qhaErr := rfl
@[simp] theorem State.updN_msix (s : State) (n : Nat) (f : Core → Core) : (s.updN n f).msix = s.msix := rfl
@[simp] theorem State.updN_msixTable (s : State) (n : Nat) (f : Core → Core) : (s.updN n f).msixTable = s.msixTable := rfl
@[simp] theorem State.updN_dbg (s : State) (n : Nat) (f : Core → Core) : (s.updN n f).dbg = s.dbg := rfl
@[simp] theorem State.updN_recs (s : State) (n : Nat) (f : Core → Core) : (s.updN n f).recs = s.recs := rfl
@[simp] theorem State.updN_mail (s : State) (n : Nat) (f : Core → Core) : (s.updN n f).mail = s.mail := rfl
@[simp] theorem State.updN_acks (s : State) (n : Nat) (f : Core → Core) : (s.updN n f).acks = s.acks := rfl
@[simp] theorem State.updN_saves (s : State) (n : Nat) (f : Core → Core) : (s.updN n f).saves = s.saves := rfl
@[simp] theorem State.updN_nextSave (s : State) (n : Nat) (f : Core → Core) : (s.updN n f).nextSave = s.nextSave := rfl
@[simp] theorem State.updN_flash (s : State) (n : Nat) (f : Core → Core) : (s.updN n f).flash = s.flash := rfl
@[simp] theorem State.updN_repairs (s : State) (n : Nat) (f : Core → Core) : (s.updN n f).repairs = s.repairs := rfl
@[simp] theorem State.updN_devCert (s : State) (n : Nat) (f : Core → Core) : (s.updN n f).devCert = s.devCert := rfl
@[simp] theorem State.updN_devPub (s : State) (n : Nat) (f : Core → Core) : (s.updN n f).devPub = s.devPub := rfl
@[simp] theorem State.updN_devPriv (s : State) (n : Nat) (f : Core → Core) : (s.updN n f).devPriv = s.devPriv := rfl
@[simp] theorem State.updN_vc3 (s : State) (n : Nat) (f : Core → Core) : (s.updN n f).vc3 = s.vc3 := rfl
@[simp] theorem State.updN_reply (s : State) (n : Nat) (f : Core → Core) : (s.updN n f).reply = s.reply := rfl
@[simp] theorem State.updN_cpLog (s : State) (n : Nat) (f : Core → Core) : (s.updN n f).cpLog = s.cpLog := rfl
@[simp] theorem State.updN_throttle (s : State) (n : Nat) (f : Core → Core) : (s.updN n f).throttle = s.throttle := rfl
@[simp] theorem State.updN_free (s : State) (n : Nat) (f : Core → Core) : (s.updN n f).free = s.free := rfl
@[simp] theorem State.updN_cur (s : State) (n : Nat) (f : Core → Core) : (s.updN n f).cur = s.cur := rfl
@[simp] theorem State.updN_agenda (s : State) (n : Nat) (f : Core → Core) : (s.updN n f).agenda = s.agenda := rfl
@[simp] theorem State.updN_rr (s : State) (n : Nat) (f : Core → Core) : (s.updN n f).rr = s.rr := rfl

/-! ### `State.upd` writes `cores` alone -/

@[simp] theorem State.upd_clock (s : State) (f : Core → Core) : (s.upd f).clock = s.clock := rfl
@[simp] theorem State.upd_clocksOn (s : State) (f : Core → Core) : (s.upd f).clocksOn = s.clocksOn := rfl
@[simp] theorem State.upd_powered (s : State) (f : Core → Core) : (s.upd f).powered = s.powered := rfl
@[simp] theorem State.upd_gangs (s : State) (f : Core → Core) : (s.upd f).gangs = s.gangs := rfl
@[simp] theorem State.upd_clusters (s : State) (f : Core → Core) : (s.upd f).clusters = s.clusters := rfl
@[simp] theorem State.upd_mem (s : State) (f : Core → Core) : (s.upd f).mem = s.mem := rfl
@[simp] theorem State.upd_tags (s : State) (f : Core → Core) : (s.upd f).tags = s.tags := rfl
@[simp] theorem State.upd_poison (s : State) (f : Core → Core) : (s.upd f).poison = s.poison := rfl
@[simp] theorem State.upd_ready (s : State) (f : Core → Core) : (s.upd f).ready = s.ready := rfl
@[simp] theorem State.upd_failed (s : State) (f : Core → Core) : (s.upd f).failed = s.failed := rfl
@[simp] theorem State.upd_bootstat (s : State) (f : Core → Core) : (s.upd f).bootstat = s.bootstat := rfl
@[simp] theorem State.upd_asidtab (s : State) (f : Core → Core) : (s.upd f).asidtab = s.asidtab := rfl
@[simp] theorem State.upd_ecc (s : State) (f : Core → Core) : (s.upd f).ecc = s.ecc := rfl
@[simp] theorem State.upd_classes (s : State) (f : Core → Core) : (s.upd f).classes = s.classes := rfl
@[simp] theorem State.upd_queues (s : State) (f : Core → Core) : (s.upd f).queues = s.queues := rfl
@[simp] theorem State.upd_launches (s : State) (f : Core → Core) : (s.upd f).launches = s.launches := rfl
@[simp] theorem State.upd_nextLaunch (s : State) (f : Core → Core) : (s.upd f).nextLaunch = s.nextLaunch := rfl
@[simp] theorem State.upd_nextGang (s : State) (f : Core → Core) : (s.upd f).nextGang = s.nextGang := rfl
@[simp] theorem State.upd_segs (s : State) (f : Core → Core) : (s.upd f).segs = s.segs := rfl
@[simp] theorem State.upd_mgmtBase (s : State) (f : Core → Core) : (s.upd f).mgmtBase = s.mgmtBase := rfl
@[simp] theorem State.upd_denBase (s : State) (f : Core → Core) : (s.upd f).denBase = s.denBase := rfl
@[simp] theorem State.upd_denSize (s : State) (f : Core → Core) : (s.upd f).denSize = s.denSize := rfl
@[simp] theorem State.upd_ringBase (s : State) (f : Core → Core) : (s.upd f).ringBase = s.ringBase := rfl
@[simp] theorem State.upd_modNum (s : State) (f : Core → Core) : (s.upd f).modNum = s.modNum := rfl
@[simp] theorem State.upd_powerLimit (s : State) (f : Core → Core) : (s.upd f).powerLimit = s.powerLimit := rfl
@[simp] theorem State.upd_routes (s : State) (f : Core → Core) : (s.upd f).routes = s.routes := rfl
@[simp] theorem State.upd_ports (s : State) (f : Core → Core) : (s.upd f).ports = s.ports := rfl
@[simp] theorem State.upd_inbound (s : State) (f : Core → Core) : (s.upd f).inbound = s.inbound := rfl
@[simp] theorem State.upd_qhaBase (s : State) (f : Core → Core) : (s.upd f).qhaBase = s.qhaBase := rfl
@[simp] theorem State.upd_qhaLock (s : State) (f : Core → Core) : (s.upd f).qhaLock = s.qhaLock := rfl
@[simp] theorem State.upd_qhaErr (s : State) (f : Core → Core) : (s.upd f).qhaErr = s.qhaErr := rfl
@[simp] theorem State.upd_msix (s : State) (f : Core → Core) : (s.upd f).msix = s.msix := rfl
@[simp] theorem State.upd_msixTable (s : State) (f : Core → Core) : (s.upd f).msixTable = s.msixTable := rfl
@[simp] theorem State.upd_dbg (s : State) (f : Core → Core) : (s.upd f).dbg = s.dbg := rfl
@[simp] theorem State.upd_recs (s : State) (f : Core → Core) : (s.upd f).recs = s.recs := rfl
@[simp] theorem State.upd_mail (s : State) (f : Core → Core) : (s.upd f).mail = s.mail := rfl
@[simp] theorem State.upd_acks (s : State) (f : Core → Core) : (s.upd f).acks = s.acks := rfl
@[simp] theorem State.upd_saves (s : State) (f : Core → Core) : (s.upd f).saves = s.saves := rfl
@[simp] theorem State.upd_nextSave (s : State) (f : Core → Core) : (s.upd f).nextSave = s.nextSave := rfl
@[simp] theorem State.upd_flash (s : State) (f : Core → Core) : (s.upd f).flash = s.flash := rfl
@[simp] theorem State.upd_repairs (s : State) (f : Core → Core) : (s.upd f).repairs = s.repairs := rfl
@[simp] theorem State.upd_devCert (s : State) (f : Core → Core) : (s.upd f).devCert = s.devCert := rfl
@[simp] theorem State.upd_devPub (s : State) (f : Core → Core) : (s.upd f).devPub = s.devPub := rfl
@[simp] theorem State.upd_devPriv (s : State) (f : Core → Core) : (s.upd f).devPriv = s.devPriv := rfl
@[simp] theorem State.upd_vc3 (s : State) (f : Core → Core) : (s.upd f).vc3 = s.vc3 := rfl
@[simp] theorem State.upd_reply (s : State) (f : Core → Core) : (s.upd f).reply = s.reply := rfl
@[simp] theorem State.upd_cpLog (s : State) (f : Core → Core) : (s.upd f).cpLog = s.cpLog := rfl
@[simp] theorem State.upd_throttle (s : State) (f : Core → Core) : (s.upd f).throttle = s.throttle := rfl
@[simp] theorem State.upd_free (s : State) (f : Core → Core) : (s.upd f).free = s.free := rfl
@[simp] theorem State.upd_cur (s : State) (f : Core → Core) : (s.upd f).cur = s.cur := rfl
@[simp] theorem State.upd_agenda (s : State) (f : Core → Core) : (s.upd f).agenda = s.agenda := rfl
@[simp] theorem State.upd_rr (s : State) (f : Core → Core) : (s.upd f).rr = s.rr := rfl

/-! ### `State.setGang` writes `gangs` alone -/

@[simp] theorem State.setGang_clock (s : State) (g : Nat) (v : Gang) : (s.setGang g v).clock = s.clock := rfl
@[simp] theorem State.setGang_clocksOn (s : State) (g : Nat) (v : Gang) : (s.setGang g v).clocksOn = s.clocksOn := rfl
@[simp] theorem State.setGang_powered (s : State) (g : Nat) (v : Gang) : (s.setGang g v).powered = s.powered := rfl
@[simp] theorem State.setGang_cores (s : State) (g : Nat) (v : Gang) : (s.setGang g v).cores = s.cores := rfl
@[simp] theorem State.setGang_clusters (s : State) (g : Nat) (v : Gang) : (s.setGang g v).clusters = s.clusters := rfl
@[simp] theorem State.setGang_mem (s : State) (g : Nat) (v : Gang) : (s.setGang g v).mem = s.mem := rfl
@[simp] theorem State.setGang_tags (s : State) (g : Nat) (v : Gang) : (s.setGang g v).tags = s.tags := rfl
@[simp] theorem State.setGang_poison (s : State) (g : Nat) (v : Gang) : (s.setGang g v).poison = s.poison := rfl
@[simp] theorem State.setGang_ready (s : State) (g : Nat) (v : Gang) : (s.setGang g v).ready = s.ready := rfl
@[simp] theorem State.setGang_failed (s : State) (g : Nat) (v : Gang) : (s.setGang g v).failed = s.failed := rfl
@[simp] theorem State.setGang_bootstat (s : State) (g : Nat) (v : Gang) : (s.setGang g v).bootstat = s.bootstat := rfl
@[simp] theorem State.setGang_asidtab (s : State) (g : Nat) (v : Gang) : (s.setGang g v).asidtab = s.asidtab := rfl
@[simp] theorem State.setGang_ecc (s : State) (g : Nat) (v : Gang) : (s.setGang g v).ecc = s.ecc := rfl
@[simp] theorem State.setGang_classes (s : State) (g : Nat) (v : Gang) : (s.setGang g v).classes = s.classes := rfl
@[simp] theorem State.setGang_queues (s : State) (g : Nat) (v : Gang) : (s.setGang g v).queues = s.queues := rfl
@[simp] theorem State.setGang_launches (s : State) (g : Nat) (v : Gang) : (s.setGang g v).launches = s.launches := rfl
@[simp] theorem State.setGang_nextLaunch (s : State) (g : Nat) (v : Gang) : (s.setGang g v).nextLaunch = s.nextLaunch := rfl
@[simp] theorem State.setGang_nextGang (s : State) (g : Nat) (v : Gang) : (s.setGang g v).nextGang = s.nextGang := rfl
@[simp] theorem State.setGang_segs (s : State) (g : Nat) (v : Gang) : (s.setGang g v).segs = s.segs := rfl
@[simp] theorem State.setGang_mgmtBase (s : State) (g : Nat) (v : Gang) : (s.setGang g v).mgmtBase = s.mgmtBase := rfl
@[simp] theorem State.setGang_denBase (s : State) (g : Nat) (v : Gang) : (s.setGang g v).denBase = s.denBase := rfl
@[simp] theorem State.setGang_denSize (s : State) (g : Nat) (v : Gang) : (s.setGang g v).denSize = s.denSize := rfl
@[simp] theorem State.setGang_ringBase (s : State) (g : Nat) (v : Gang) : (s.setGang g v).ringBase = s.ringBase := rfl
@[simp] theorem State.setGang_modNum (s : State) (g : Nat) (v : Gang) : (s.setGang g v).modNum = s.modNum := rfl
@[simp] theorem State.setGang_powerLimit (s : State) (g : Nat) (v : Gang) : (s.setGang g v).powerLimit = s.powerLimit := rfl
@[simp] theorem State.setGang_routes (s : State) (g : Nat) (v : Gang) : (s.setGang g v).routes = s.routes := rfl
@[simp] theorem State.setGang_ports (s : State) (g : Nat) (v : Gang) : (s.setGang g v).ports = s.ports := rfl
@[simp] theorem State.setGang_inbound (s : State) (g : Nat) (v : Gang) : (s.setGang g v).inbound = s.inbound := rfl
@[simp] theorem State.setGang_qhaBase (s : State) (g : Nat) (v : Gang) : (s.setGang g v).qhaBase = s.qhaBase := rfl
@[simp] theorem State.setGang_qhaLock (s : State) (g : Nat) (v : Gang) : (s.setGang g v).qhaLock = s.qhaLock := rfl
@[simp] theorem State.setGang_qhaErr (s : State) (g : Nat) (v : Gang) : (s.setGang g v).qhaErr = s.qhaErr := rfl
@[simp] theorem State.setGang_msix (s : State) (g : Nat) (v : Gang) : (s.setGang g v).msix = s.msix := rfl
@[simp] theorem State.setGang_msixTable (s : State) (g : Nat) (v : Gang) : (s.setGang g v).msixTable = s.msixTable := rfl
@[simp] theorem State.setGang_dbg (s : State) (g : Nat) (v : Gang) : (s.setGang g v).dbg = s.dbg := rfl
@[simp] theorem State.setGang_recs (s : State) (g : Nat) (v : Gang) : (s.setGang g v).recs = s.recs := rfl
@[simp] theorem State.setGang_mail (s : State) (g : Nat) (v : Gang) : (s.setGang g v).mail = s.mail := rfl
@[simp] theorem State.setGang_acks (s : State) (g : Nat) (v : Gang) : (s.setGang g v).acks = s.acks := rfl
@[simp] theorem State.setGang_saves (s : State) (g : Nat) (v : Gang) : (s.setGang g v).saves = s.saves := rfl
@[simp] theorem State.setGang_nextSave (s : State) (g : Nat) (v : Gang) : (s.setGang g v).nextSave = s.nextSave := rfl
@[simp] theorem State.setGang_flash (s : State) (g : Nat) (v : Gang) : (s.setGang g v).flash = s.flash := rfl
@[simp] theorem State.setGang_repairs (s : State) (g : Nat) (v : Gang) : (s.setGang g v).repairs = s.repairs := rfl
@[simp] theorem State.setGang_devCert (s : State) (g : Nat) (v : Gang) : (s.setGang g v).devCert = s.devCert := rfl
@[simp] theorem State.setGang_devPub (s : State) (g : Nat) (v : Gang) : (s.setGang g v).devPub = s.devPub := rfl
@[simp] theorem State.setGang_devPriv (s : State) (g : Nat) (v : Gang) : (s.setGang g v).devPriv = s.devPriv := rfl
@[simp] theorem State.setGang_vc3 (s : State) (g : Nat) (v : Gang) : (s.setGang g v).vc3 = s.vc3 := rfl
@[simp] theorem State.setGang_reply (s : State) (g : Nat) (v : Gang) : (s.setGang g v).reply = s.reply := rfl
@[simp] theorem State.setGang_cpLog (s : State) (g : Nat) (v : Gang) : (s.setGang g v).cpLog = s.cpLog := rfl
@[simp] theorem State.setGang_throttle (s : State) (g : Nat) (v : Gang) : (s.setGang g v).throttle = s.throttle := rfl
@[simp] theorem State.setGang_free (s : State) (g : Nat) (v : Gang) : (s.setGang g v).free = s.free := rfl
@[simp] theorem State.setGang_cur (s : State) (g : Nat) (v : Gang) : (s.setGang g v).cur = s.cur := rfl
@[simp] theorem State.setGang_agenda (s : State) (g : Nat) (v : Gang) : (s.setGang g v).agenda = s.agenda := rfl
@[simp] theorem State.setGang_rr (s : State) (g : Nat) (v : Gang) : (s.setGang g v).rr = s.rr := rfl

/-! ### `State.updGang` writes `gangs` alone -/

@[simp] theorem State.updGang_clock (s : State) (g : Nat) (f : Gang → Gang) : (s.updGang g f).clock = s.clock := rfl
@[simp] theorem State.updGang_clocksOn (s : State) (g : Nat) (f : Gang → Gang) : (s.updGang g f).clocksOn = s.clocksOn := rfl
@[simp] theorem State.updGang_powered (s : State) (g : Nat) (f : Gang → Gang) : (s.updGang g f).powered = s.powered := rfl
@[simp] theorem State.updGang_cores (s : State) (g : Nat) (f : Gang → Gang) : (s.updGang g f).cores = s.cores := rfl
@[simp] theorem State.updGang_clusters (s : State) (g : Nat) (f : Gang → Gang) : (s.updGang g f).clusters = s.clusters := rfl
@[simp] theorem State.updGang_mem (s : State) (g : Nat) (f : Gang → Gang) : (s.updGang g f).mem = s.mem := rfl
@[simp] theorem State.updGang_tags (s : State) (g : Nat) (f : Gang → Gang) : (s.updGang g f).tags = s.tags := rfl
@[simp] theorem State.updGang_poison (s : State) (g : Nat) (f : Gang → Gang) : (s.updGang g f).poison = s.poison := rfl
@[simp] theorem State.updGang_ready (s : State) (g : Nat) (f : Gang → Gang) : (s.updGang g f).ready = s.ready := rfl
@[simp] theorem State.updGang_failed (s : State) (g : Nat) (f : Gang → Gang) : (s.updGang g f).failed = s.failed := rfl
@[simp] theorem State.updGang_bootstat (s : State) (g : Nat) (f : Gang → Gang) : (s.updGang g f).bootstat = s.bootstat := rfl
@[simp] theorem State.updGang_asidtab (s : State) (g : Nat) (f : Gang → Gang) : (s.updGang g f).asidtab = s.asidtab := rfl
@[simp] theorem State.updGang_ecc (s : State) (g : Nat) (f : Gang → Gang) : (s.updGang g f).ecc = s.ecc := rfl
@[simp] theorem State.updGang_classes (s : State) (g : Nat) (f : Gang → Gang) : (s.updGang g f).classes = s.classes := rfl
@[simp] theorem State.updGang_queues (s : State) (g : Nat) (f : Gang → Gang) : (s.updGang g f).queues = s.queues := rfl
@[simp] theorem State.updGang_launches (s : State) (g : Nat) (f : Gang → Gang) : (s.updGang g f).launches = s.launches := rfl
@[simp] theorem State.updGang_nextLaunch (s : State) (g : Nat) (f : Gang → Gang) : (s.updGang g f).nextLaunch = s.nextLaunch := rfl
@[simp] theorem State.updGang_nextGang (s : State) (g : Nat) (f : Gang → Gang) : (s.updGang g f).nextGang = s.nextGang := rfl
@[simp] theorem State.updGang_segs (s : State) (g : Nat) (f : Gang → Gang) : (s.updGang g f).segs = s.segs := rfl
@[simp] theorem State.updGang_mgmtBase (s : State) (g : Nat) (f : Gang → Gang) : (s.updGang g f).mgmtBase = s.mgmtBase := rfl
@[simp] theorem State.updGang_denBase (s : State) (g : Nat) (f : Gang → Gang) : (s.updGang g f).denBase = s.denBase := rfl
@[simp] theorem State.updGang_denSize (s : State) (g : Nat) (f : Gang → Gang) : (s.updGang g f).denSize = s.denSize := rfl
@[simp] theorem State.updGang_ringBase (s : State) (g : Nat) (f : Gang → Gang) : (s.updGang g f).ringBase = s.ringBase := rfl
@[simp] theorem State.updGang_modNum (s : State) (g : Nat) (f : Gang → Gang) : (s.updGang g f).modNum = s.modNum := rfl
@[simp] theorem State.updGang_powerLimit (s : State) (g : Nat) (f : Gang → Gang) : (s.updGang g f).powerLimit = s.powerLimit := rfl
@[simp] theorem State.updGang_routes (s : State) (g : Nat) (f : Gang → Gang) : (s.updGang g f).routes = s.routes := rfl
@[simp] theorem State.updGang_ports (s : State) (g : Nat) (f : Gang → Gang) : (s.updGang g f).ports = s.ports := rfl
@[simp] theorem State.updGang_inbound (s : State) (g : Nat) (f : Gang → Gang) : (s.updGang g f).inbound = s.inbound := rfl
@[simp] theorem State.updGang_qhaBase (s : State) (g : Nat) (f : Gang → Gang) : (s.updGang g f).qhaBase = s.qhaBase := rfl
@[simp] theorem State.updGang_qhaLock (s : State) (g : Nat) (f : Gang → Gang) : (s.updGang g f).qhaLock = s.qhaLock := rfl
@[simp] theorem State.updGang_qhaErr (s : State) (g : Nat) (f : Gang → Gang) : (s.updGang g f).qhaErr = s.qhaErr := rfl
@[simp] theorem State.updGang_msix (s : State) (g : Nat) (f : Gang → Gang) : (s.updGang g f).msix = s.msix := rfl
@[simp] theorem State.updGang_msixTable (s : State) (g : Nat) (f : Gang → Gang) : (s.updGang g f).msixTable = s.msixTable := rfl
@[simp] theorem State.updGang_dbg (s : State) (g : Nat) (f : Gang → Gang) : (s.updGang g f).dbg = s.dbg := rfl
@[simp] theorem State.updGang_recs (s : State) (g : Nat) (f : Gang → Gang) : (s.updGang g f).recs = s.recs := rfl
@[simp] theorem State.updGang_mail (s : State) (g : Nat) (f : Gang → Gang) : (s.updGang g f).mail = s.mail := rfl
@[simp] theorem State.updGang_acks (s : State) (g : Nat) (f : Gang → Gang) : (s.updGang g f).acks = s.acks := rfl
@[simp] theorem State.updGang_saves (s : State) (g : Nat) (f : Gang → Gang) : (s.updGang g f).saves = s.saves := rfl
@[simp] theorem State.updGang_nextSave (s : State) (g : Nat) (f : Gang → Gang) : (s.updGang g f).nextSave = s.nextSave := rfl
@[simp] theorem State.updGang_flash (s : State) (g : Nat) (f : Gang → Gang) : (s.updGang g f).flash = s.flash := rfl
@[simp] theorem State.updGang_repairs (s : State) (g : Nat) (f : Gang → Gang) : (s.updGang g f).repairs = s.repairs := rfl
@[simp] theorem State.updGang_devCert (s : State) (g : Nat) (f : Gang → Gang) : (s.updGang g f).devCert = s.devCert := rfl
@[simp] theorem State.updGang_devPub (s : State) (g : Nat) (f : Gang → Gang) : (s.updGang g f).devPub = s.devPub := rfl
@[simp] theorem State.updGang_devPriv (s : State) (g : Nat) (f : Gang → Gang) : (s.updGang g f).devPriv = s.devPriv := rfl
@[simp] theorem State.updGang_vc3 (s : State) (g : Nat) (f : Gang → Gang) : (s.updGang g f).vc3 = s.vc3 := rfl
@[simp] theorem State.updGang_reply (s : State) (g : Nat) (f : Gang → Gang) : (s.updGang g f).reply = s.reply := rfl
@[simp] theorem State.updGang_cpLog (s : State) (g : Nat) (f : Gang → Gang) : (s.updGang g f).cpLog = s.cpLog := rfl
@[simp] theorem State.updGang_throttle (s : State) (g : Nat) (f : Gang → Gang) : (s.updGang g f).throttle = s.throttle := rfl
@[simp] theorem State.updGang_free (s : State) (g : Nat) (f : Gang → Gang) : (s.updGang g f).free = s.free := rfl
@[simp] theorem State.updGang_cur (s : State) (g : Nat) (f : Gang → Gang) : (s.updGang g f).cur = s.cur := rfl
@[simp] theorem State.updGang_agenda (s : State) (g : Nat) (f : Gang → Gang) : (s.updGang g f).agenda = s.agenda := rfl
@[simp] theorem State.updGang_rr (s : State) (g : Nat) (f : Gang → Gang) : (s.updGang g f).rr = s.rr := rfl

/-! ### `State.setClu` writes `clusters` alone -/

@[simp] theorem State.setClu_clock (s : State) (k : Nat) (v : Cluster) : (s.setClu k v).clock = s.clock := rfl
@[simp] theorem State.setClu_clocksOn (s : State) (k : Nat) (v : Cluster) : (s.setClu k v).clocksOn = s.clocksOn := rfl
@[simp] theorem State.setClu_powered (s : State) (k : Nat) (v : Cluster) : (s.setClu k v).powered = s.powered := rfl
@[simp] theorem State.setClu_cores (s : State) (k : Nat) (v : Cluster) : (s.setClu k v).cores = s.cores := rfl
@[simp] theorem State.setClu_gangs (s : State) (k : Nat) (v : Cluster) : (s.setClu k v).gangs = s.gangs := rfl
@[simp] theorem State.setClu_mem (s : State) (k : Nat) (v : Cluster) : (s.setClu k v).mem = s.mem := rfl
@[simp] theorem State.setClu_tags (s : State) (k : Nat) (v : Cluster) : (s.setClu k v).tags = s.tags := rfl
@[simp] theorem State.setClu_poison (s : State) (k : Nat) (v : Cluster) : (s.setClu k v).poison = s.poison := rfl
@[simp] theorem State.setClu_ready (s : State) (k : Nat) (v : Cluster) : (s.setClu k v).ready = s.ready := rfl
@[simp] theorem State.setClu_failed (s : State) (k : Nat) (v : Cluster) : (s.setClu k v).failed = s.failed := rfl
@[simp] theorem State.setClu_bootstat (s : State) (k : Nat) (v : Cluster) : (s.setClu k v).bootstat = s.bootstat := rfl
@[simp] theorem State.setClu_asidtab (s : State) (k : Nat) (v : Cluster) : (s.setClu k v).asidtab = s.asidtab := rfl
@[simp] theorem State.setClu_ecc (s : State) (k : Nat) (v : Cluster) : (s.setClu k v).ecc = s.ecc := rfl
@[simp] theorem State.setClu_classes (s : State) (k : Nat) (v : Cluster) : (s.setClu k v).classes = s.classes := rfl
@[simp] theorem State.setClu_queues (s : State) (k : Nat) (v : Cluster) : (s.setClu k v).queues = s.queues := rfl
@[simp] theorem State.setClu_launches (s : State) (k : Nat) (v : Cluster) : (s.setClu k v).launches = s.launches := rfl
@[simp] theorem State.setClu_nextLaunch (s : State) (k : Nat) (v : Cluster) : (s.setClu k v).nextLaunch = s.nextLaunch := rfl
@[simp] theorem State.setClu_nextGang (s : State) (k : Nat) (v : Cluster) : (s.setClu k v).nextGang = s.nextGang := rfl
@[simp] theorem State.setClu_segs (s : State) (k : Nat) (v : Cluster) : (s.setClu k v).segs = s.segs := rfl
@[simp] theorem State.setClu_mgmtBase (s : State) (k : Nat) (v : Cluster) : (s.setClu k v).mgmtBase = s.mgmtBase := rfl
@[simp] theorem State.setClu_denBase (s : State) (k : Nat) (v : Cluster) : (s.setClu k v).denBase = s.denBase := rfl
@[simp] theorem State.setClu_denSize (s : State) (k : Nat) (v : Cluster) : (s.setClu k v).denSize = s.denSize := rfl
@[simp] theorem State.setClu_ringBase (s : State) (k : Nat) (v : Cluster) : (s.setClu k v).ringBase = s.ringBase := rfl
@[simp] theorem State.setClu_modNum (s : State) (k : Nat) (v : Cluster) : (s.setClu k v).modNum = s.modNum := rfl
@[simp] theorem State.setClu_powerLimit (s : State) (k : Nat) (v : Cluster) : (s.setClu k v).powerLimit = s.powerLimit := rfl
@[simp] theorem State.setClu_routes (s : State) (k : Nat) (v : Cluster) : (s.setClu k v).routes = s.routes := rfl
@[simp] theorem State.setClu_ports (s : State) (k : Nat) (v : Cluster) : (s.setClu k v).ports = s.ports := rfl
@[simp] theorem State.setClu_inbound (s : State) (k : Nat) (v : Cluster) : (s.setClu k v).inbound = s.inbound := rfl
@[simp] theorem State.setClu_qhaBase (s : State) (k : Nat) (v : Cluster) : (s.setClu k v).qhaBase = s.qhaBase := rfl
@[simp] theorem State.setClu_qhaLock (s : State) (k : Nat) (v : Cluster) : (s.setClu k v).qhaLock = s.qhaLock := rfl
@[simp] theorem State.setClu_qhaErr (s : State) (k : Nat) (v : Cluster) : (s.setClu k v).qhaErr = s.qhaErr := rfl
@[simp] theorem State.setClu_msix (s : State) (k : Nat) (v : Cluster) : (s.setClu k v).msix = s.msix := rfl
@[simp] theorem State.setClu_msixTable (s : State) (k : Nat) (v : Cluster) : (s.setClu k v).msixTable = s.msixTable := rfl
@[simp] theorem State.setClu_dbg (s : State) (k : Nat) (v : Cluster) : (s.setClu k v).dbg = s.dbg := rfl
@[simp] theorem State.setClu_recs (s : State) (k : Nat) (v : Cluster) : (s.setClu k v).recs = s.recs := rfl
@[simp] theorem State.setClu_mail (s : State) (k : Nat) (v : Cluster) : (s.setClu k v).mail = s.mail := rfl
@[simp] theorem State.setClu_acks (s : State) (k : Nat) (v : Cluster) : (s.setClu k v).acks = s.acks := rfl
@[simp] theorem State.setClu_saves (s : State) (k : Nat) (v : Cluster) : (s.setClu k v).saves = s.saves := rfl
@[simp] theorem State.setClu_nextSave (s : State) (k : Nat) (v : Cluster) : (s.setClu k v).nextSave = s.nextSave := rfl
@[simp] theorem State.setClu_flash (s : State) (k : Nat) (v : Cluster) : (s.setClu k v).flash = s.flash := rfl
@[simp] theorem State.setClu_repairs (s : State) (k : Nat) (v : Cluster) : (s.setClu k v).repairs = s.repairs := rfl
@[simp] theorem State.setClu_devCert (s : State) (k : Nat) (v : Cluster) : (s.setClu k v).devCert = s.devCert := rfl
@[simp] theorem State.setClu_devPub (s : State) (k : Nat) (v : Cluster) : (s.setClu k v).devPub = s.devPub := rfl
@[simp] theorem State.setClu_devPriv (s : State) (k : Nat) (v : Cluster) : (s.setClu k v).devPriv = s.devPriv := rfl
@[simp] theorem State.setClu_vc3 (s : State) (k : Nat) (v : Cluster) : (s.setClu k v).vc3 = s.vc3 := rfl
@[simp] theorem State.setClu_reply (s : State) (k : Nat) (v : Cluster) : (s.setClu k v).reply = s.reply := rfl
@[simp] theorem State.setClu_cpLog (s : State) (k : Nat) (v : Cluster) : (s.setClu k v).cpLog = s.cpLog := rfl
@[simp] theorem State.setClu_throttle (s : State) (k : Nat) (v : Cluster) : (s.setClu k v).throttle = s.throttle := rfl
@[simp] theorem State.setClu_free (s : State) (k : Nat) (v : Cluster) : (s.setClu k v).free = s.free := rfl
@[simp] theorem State.setClu_cur (s : State) (k : Nat) (v : Cluster) : (s.setClu k v).cur = s.cur := rfl
@[simp] theorem State.setClu_agenda (s : State) (k : Nat) (v : Cluster) : (s.setClu k v).agenda = s.agenda := rfl
@[simp] theorem State.setClu_rr (s : State) (k : Nat) (v : Cluster) : (s.setClu k v).rr = s.rr := rfl

/-! ### `State.setDbg` writes `dbg` alone -/

@[simp] theorem State.setDbg_clock (s : State) (k : Nat) (v : Dbg) : (s.setDbg k v).clock = s.clock := rfl
@[simp] theorem State.setDbg_clocksOn (s : State) (k : Nat) (v : Dbg) : (s.setDbg k v).clocksOn = s.clocksOn := rfl
@[simp] theorem State.setDbg_powered (s : State) (k : Nat) (v : Dbg) : (s.setDbg k v).powered = s.powered := rfl
@[simp] theorem State.setDbg_cores (s : State) (k : Nat) (v : Dbg) : (s.setDbg k v).cores = s.cores := rfl
@[simp] theorem State.setDbg_gangs (s : State) (k : Nat) (v : Dbg) : (s.setDbg k v).gangs = s.gangs := rfl
@[simp] theorem State.setDbg_clusters (s : State) (k : Nat) (v : Dbg) : (s.setDbg k v).clusters = s.clusters := rfl
@[simp] theorem State.setDbg_mem (s : State) (k : Nat) (v : Dbg) : (s.setDbg k v).mem = s.mem := rfl
@[simp] theorem State.setDbg_tags (s : State) (k : Nat) (v : Dbg) : (s.setDbg k v).tags = s.tags := rfl
@[simp] theorem State.setDbg_poison (s : State) (k : Nat) (v : Dbg) : (s.setDbg k v).poison = s.poison := rfl
@[simp] theorem State.setDbg_ready (s : State) (k : Nat) (v : Dbg) : (s.setDbg k v).ready = s.ready := rfl
@[simp] theorem State.setDbg_failed (s : State) (k : Nat) (v : Dbg) : (s.setDbg k v).failed = s.failed := rfl
@[simp] theorem State.setDbg_bootstat (s : State) (k : Nat) (v : Dbg) : (s.setDbg k v).bootstat = s.bootstat := rfl
@[simp] theorem State.setDbg_asidtab (s : State) (k : Nat) (v : Dbg) : (s.setDbg k v).asidtab = s.asidtab := rfl
@[simp] theorem State.setDbg_ecc (s : State) (k : Nat) (v : Dbg) : (s.setDbg k v).ecc = s.ecc := rfl
@[simp] theorem State.setDbg_classes (s : State) (k : Nat) (v : Dbg) : (s.setDbg k v).classes = s.classes := rfl
@[simp] theorem State.setDbg_queues (s : State) (k : Nat) (v : Dbg) : (s.setDbg k v).queues = s.queues := rfl
@[simp] theorem State.setDbg_launches (s : State) (k : Nat) (v : Dbg) : (s.setDbg k v).launches = s.launches := rfl
@[simp] theorem State.setDbg_nextLaunch (s : State) (k : Nat) (v : Dbg) : (s.setDbg k v).nextLaunch = s.nextLaunch := rfl
@[simp] theorem State.setDbg_nextGang (s : State) (k : Nat) (v : Dbg) : (s.setDbg k v).nextGang = s.nextGang := rfl
@[simp] theorem State.setDbg_segs (s : State) (k : Nat) (v : Dbg) : (s.setDbg k v).segs = s.segs := rfl
@[simp] theorem State.setDbg_mgmtBase (s : State) (k : Nat) (v : Dbg) : (s.setDbg k v).mgmtBase = s.mgmtBase := rfl
@[simp] theorem State.setDbg_denBase (s : State) (k : Nat) (v : Dbg) : (s.setDbg k v).denBase = s.denBase := rfl
@[simp] theorem State.setDbg_denSize (s : State) (k : Nat) (v : Dbg) : (s.setDbg k v).denSize = s.denSize := rfl
@[simp] theorem State.setDbg_ringBase (s : State) (k : Nat) (v : Dbg) : (s.setDbg k v).ringBase = s.ringBase := rfl
@[simp] theorem State.setDbg_modNum (s : State) (k : Nat) (v : Dbg) : (s.setDbg k v).modNum = s.modNum := rfl
@[simp] theorem State.setDbg_powerLimit (s : State) (k : Nat) (v : Dbg) : (s.setDbg k v).powerLimit = s.powerLimit := rfl
@[simp] theorem State.setDbg_routes (s : State) (k : Nat) (v : Dbg) : (s.setDbg k v).routes = s.routes := rfl
@[simp] theorem State.setDbg_ports (s : State) (k : Nat) (v : Dbg) : (s.setDbg k v).ports = s.ports := rfl
@[simp] theorem State.setDbg_inbound (s : State) (k : Nat) (v : Dbg) : (s.setDbg k v).inbound = s.inbound := rfl
@[simp] theorem State.setDbg_qhaBase (s : State) (k : Nat) (v : Dbg) : (s.setDbg k v).qhaBase = s.qhaBase := rfl
@[simp] theorem State.setDbg_qhaLock (s : State) (k : Nat) (v : Dbg) : (s.setDbg k v).qhaLock = s.qhaLock := rfl
@[simp] theorem State.setDbg_qhaErr (s : State) (k : Nat) (v : Dbg) : (s.setDbg k v).qhaErr = s.qhaErr := rfl
@[simp] theorem State.setDbg_msix (s : State) (k : Nat) (v : Dbg) : (s.setDbg k v).msix = s.msix := rfl
@[simp] theorem State.setDbg_msixTable (s : State) (k : Nat) (v : Dbg) : (s.setDbg k v).msixTable = s.msixTable := rfl
@[simp] theorem State.setDbg_recs (s : State) (k : Nat) (v : Dbg) : (s.setDbg k v).recs = s.recs := rfl
@[simp] theorem State.setDbg_mail (s : State) (k : Nat) (v : Dbg) : (s.setDbg k v).mail = s.mail := rfl
@[simp] theorem State.setDbg_acks (s : State) (k : Nat) (v : Dbg) : (s.setDbg k v).acks = s.acks := rfl
@[simp] theorem State.setDbg_saves (s : State) (k : Nat) (v : Dbg) : (s.setDbg k v).saves = s.saves := rfl
@[simp] theorem State.setDbg_nextSave (s : State) (k : Nat) (v : Dbg) : (s.setDbg k v).nextSave = s.nextSave := rfl
@[simp] theorem State.setDbg_flash (s : State) (k : Nat) (v : Dbg) : (s.setDbg k v).flash = s.flash := rfl
@[simp] theorem State.setDbg_repairs (s : State) (k : Nat) (v : Dbg) : (s.setDbg k v).repairs = s.repairs := rfl
@[simp] theorem State.setDbg_devCert (s : State) (k : Nat) (v : Dbg) : (s.setDbg k v).devCert = s.devCert := rfl
@[simp] theorem State.setDbg_devPub (s : State) (k : Nat) (v : Dbg) : (s.setDbg k v).devPub = s.devPub := rfl
@[simp] theorem State.setDbg_devPriv (s : State) (k : Nat) (v : Dbg) : (s.setDbg k v).devPriv = s.devPriv := rfl
@[simp] theorem State.setDbg_vc3 (s : State) (k : Nat) (v : Dbg) : (s.setDbg k v).vc3 = s.vc3 := rfl
@[simp] theorem State.setDbg_reply (s : State) (k : Nat) (v : Dbg) : (s.setDbg k v).reply = s.reply := rfl
@[simp] theorem State.setDbg_cpLog (s : State) (k : Nat) (v : Dbg) : (s.setDbg k v).cpLog = s.cpLog := rfl
@[simp] theorem State.setDbg_throttle (s : State) (k : Nat) (v : Dbg) : (s.setDbg k v).throttle = s.throttle := rfl
@[simp] theorem State.setDbg_free (s : State) (k : Nat) (v : Dbg) : (s.setDbg k v).free = s.free := rfl
@[simp] theorem State.setDbg_cur (s : State) (k : Nat) (v : Dbg) : (s.setDbg k v).cur = s.cur := rfl
@[simp] theorem State.setDbg_agenda (s : State) (k : Nat) (v : Dbg) : (s.setDbg k v).agenda = s.agenda := rfl
@[simp] theorem State.setDbg_rr (s : State) (k : Nat) (v : Dbg) : (s.setDbg k v).rr = s.rr := rfl

/-! ### `State.setCls` writes `classes` alone -/

@[simp] theorem State.setCls_clock (s : State) (k : BitVec 4) (v : Class) : (s.setCls k v).clock = s.clock := rfl
@[simp] theorem State.setCls_clocksOn (s : State) (k : BitVec 4) (v : Class) : (s.setCls k v).clocksOn = s.clocksOn := rfl
@[simp] theorem State.setCls_powered (s : State) (k : BitVec 4) (v : Class) : (s.setCls k v).powered = s.powered := rfl
@[simp] theorem State.setCls_cores (s : State) (k : BitVec 4) (v : Class) : (s.setCls k v).cores = s.cores := rfl
@[simp] theorem State.setCls_gangs (s : State) (k : BitVec 4) (v : Class) : (s.setCls k v).gangs = s.gangs := rfl
@[simp] theorem State.setCls_clusters (s : State) (k : BitVec 4) (v : Class) : (s.setCls k v).clusters = s.clusters := rfl
@[simp] theorem State.setCls_mem (s : State) (k : BitVec 4) (v : Class) : (s.setCls k v).mem = s.mem := rfl
@[simp] theorem State.setCls_tags (s : State) (k : BitVec 4) (v : Class) : (s.setCls k v).tags = s.tags := rfl
@[simp] theorem State.setCls_poison (s : State) (k : BitVec 4) (v : Class) : (s.setCls k v).poison = s.poison := rfl
@[simp] theorem State.setCls_ready (s : State) (k : BitVec 4) (v : Class) : (s.setCls k v).ready = s.ready := rfl
@[simp] theorem State.setCls_failed (s : State) (k : BitVec 4) (v : Class) : (s.setCls k v).failed = s.failed := rfl
@[simp] theorem State.setCls_bootstat (s : State) (k : BitVec 4) (v : Class) : (s.setCls k v).bootstat = s.bootstat := rfl
@[simp] theorem State.setCls_asidtab (s : State) (k : BitVec 4) (v : Class) : (s.setCls k v).asidtab = s.asidtab := rfl
@[simp] theorem State.setCls_ecc (s : State) (k : BitVec 4) (v : Class) : (s.setCls k v).ecc = s.ecc := rfl
@[simp] theorem State.setCls_queues (s : State) (k : BitVec 4) (v : Class) : (s.setCls k v).queues = s.queues := rfl
@[simp] theorem State.setCls_launches (s : State) (k : BitVec 4) (v : Class) : (s.setCls k v).launches = s.launches := rfl
@[simp] theorem State.setCls_nextLaunch (s : State) (k : BitVec 4) (v : Class) : (s.setCls k v).nextLaunch = s.nextLaunch := rfl
@[simp] theorem State.setCls_nextGang (s : State) (k : BitVec 4) (v : Class) : (s.setCls k v).nextGang = s.nextGang := rfl
@[simp] theorem State.setCls_segs (s : State) (k : BitVec 4) (v : Class) : (s.setCls k v).segs = s.segs := rfl
@[simp] theorem State.setCls_mgmtBase (s : State) (k : BitVec 4) (v : Class) : (s.setCls k v).mgmtBase = s.mgmtBase := rfl
@[simp] theorem State.setCls_denBase (s : State) (k : BitVec 4) (v : Class) : (s.setCls k v).denBase = s.denBase := rfl
@[simp] theorem State.setCls_denSize (s : State) (k : BitVec 4) (v : Class) : (s.setCls k v).denSize = s.denSize := rfl
@[simp] theorem State.setCls_ringBase (s : State) (k : BitVec 4) (v : Class) : (s.setCls k v).ringBase = s.ringBase := rfl
@[simp] theorem State.setCls_modNum (s : State) (k : BitVec 4) (v : Class) : (s.setCls k v).modNum = s.modNum := rfl
@[simp] theorem State.setCls_powerLimit (s : State) (k : BitVec 4) (v : Class) : (s.setCls k v).powerLimit = s.powerLimit := rfl
@[simp] theorem State.setCls_routes (s : State) (k : BitVec 4) (v : Class) : (s.setCls k v).routes = s.routes := rfl
@[simp] theorem State.setCls_ports (s : State) (k : BitVec 4) (v : Class) : (s.setCls k v).ports = s.ports := rfl
@[simp] theorem State.setCls_inbound (s : State) (k : BitVec 4) (v : Class) : (s.setCls k v).inbound = s.inbound := rfl
@[simp] theorem State.setCls_qhaBase (s : State) (k : BitVec 4) (v : Class) : (s.setCls k v).qhaBase = s.qhaBase := rfl
@[simp] theorem State.setCls_qhaLock (s : State) (k : BitVec 4) (v : Class) : (s.setCls k v).qhaLock = s.qhaLock := rfl
@[simp] theorem State.setCls_qhaErr (s : State) (k : BitVec 4) (v : Class) : (s.setCls k v).qhaErr = s.qhaErr := rfl
@[simp] theorem State.setCls_msix (s : State) (k : BitVec 4) (v : Class) : (s.setCls k v).msix = s.msix := rfl
@[simp] theorem State.setCls_msixTable (s : State) (k : BitVec 4) (v : Class) : (s.setCls k v).msixTable = s.msixTable := rfl
@[simp] theorem State.setCls_dbg (s : State) (k : BitVec 4) (v : Class) : (s.setCls k v).dbg = s.dbg := rfl
@[simp] theorem State.setCls_recs (s : State) (k : BitVec 4) (v : Class) : (s.setCls k v).recs = s.recs := rfl
@[simp] theorem State.setCls_mail (s : State) (k : BitVec 4) (v : Class) : (s.setCls k v).mail = s.mail := rfl
@[simp] theorem State.setCls_acks (s : State) (k : BitVec 4) (v : Class) : (s.setCls k v).acks = s.acks := rfl
@[simp] theorem State.setCls_saves (s : State) (k : BitVec 4) (v : Class) : (s.setCls k v).saves = s.saves := rfl
@[simp] theorem State.setCls_nextSave (s : State) (k : BitVec 4) (v : Class) : (s.setCls k v).nextSave = s.nextSave := rfl
@[simp] theorem State.setCls_flash (s : State) (k : BitVec 4) (v : Class) : (s.setCls k v).flash = s.flash := rfl
@[simp] theorem State.setCls_repairs (s : State) (k : BitVec 4) (v : Class) : (s.setCls k v).repairs = s.repairs := rfl
@[simp] theorem State.setCls_devCert (s : State) (k : BitVec 4) (v : Class) : (s.setCls k v).devCert = s.devCert := rfl
@[simp] theorem State.setCls_devPub (s : State) (k : BitVec 4) (v : Class) : (s.setCls k v).devPub = s.devPub := rfl
@[simp] theorem State.setCls_devPriv (s : State) (k : BitVec 4) (v : Class) : (s.setCls k v).devPriv = s.devPriv := rfl
@[simp] theorem State.setCls_vc3 (s : State) (k : BitVec 4) (v : Class) : (s.setCls k v).vc3 = s.vc3 := rfl
@[simp] theorem State.setCls_reply (s : State) (k : BitVec 4) (v : Class) : (s.setCls k v).reply = s.reply := rfl
@[simp] theorem State.setCls_cpLog (s : State) (k : BitVec 4) (v : Class) : (s.setCls k v).cpLog = s.cpLog := rfl
@[simp] theorem State.setCls_throttle (s : State) (k : BitVec 4) (v : Class) : (s.setCls k v).throttle = s.throttle := rfl
@[simp] theorem State.setCls_free (s : State) (k : BitVec 4) (v : Class) : (s.setCls k v).free = s.free := rfl
@[simp] theorem State.setCls_cur (s : State) (k : BitVec 4) (v : Class) : (s.setCls k v).cur = s.cur := rfl
@[simp] theorem State.setCls_agenda (s : State) (k : BitVec 4) (v : Class) : (s.setCls k v).agenda = s.agenda := rfl
@[simp] theorem State.setCls_rr (s : State) (k : BitVec 4) (v : Class) : (s.setCls k v).rr = s.rr := rfl

/-! ### `State.bumpFree` writes `free` alone -/

@[simp] theorem State.bumpFree_clock (s : State) : (s.bumpFree).clock = s.clock := rfl
@[simp] theorem State.bumpFree_clocksOn (s : State) : (s.bumpFree).clocksOn = s.clocksOn := rfl
@[simp] theorem State.bumpFree_powered (s : State) : (s.bumpFree).powered = s.powered := rfl
@[simp] theorem State.bumpFree_cores (s : State) : (s.bumpFree).cores = s.cores := rfl
@[simp] theorem State.bumpFree_gangs (s : State) : (s.bumpFree).gangs = s.gangs := rfl
@[simp] theorem State.bumpFree_clusters (s : State) : (s.bumpFree).clusters = s.clusters := rfl
@[simp] theorem State.bumpFree_mem (s : State) : (s.bumpFree).mem = s.mem := rfl
@[simp] theorem State.bumpFree_tags (s : State) : (s.bumpFree).tags = s.tags := rfl
@[simp] theorem State.bumpFree_poison (s : State) : (s.bumpFree).poison = s.poison := rfl
@[simp] theorem State.bumpFree_ready (s : State) : (s.bumpFree).ready = s.ready := rfl
@[simp] theorem State.bumpFree_failed (s : State) : (s.bumpFree).failed = s.failed := rfl
@[simp] theorem State.bumpFree_bootstat (s : State) : (s.bumpFree).bootstat = s.bootstat := rfl
@[simp] theorem State.bumpFree_asidtab (s : State) : (s.bumpFree).asidtab = s.asidtab := rfl
@[simp] theorem State.bumpFree_ecc (s : State) : (s.bumpFree).ecc = s.ecc := rfl
@[simp] theorem State.bumpFree_classes (s : State) : (s.bumpFree).classes = s.classes := rfl
@[simp] theorem State.bumpFree_queues (s : State) : (s.bumpFree).queues = s.queues := rfl
@[simp] theorem State.bumpFree_launches (s : State) : (s.bumpFree).launches = s.launches := rfl
@[simp] theorem State.bumpFree_nextLaunch (s : State) : (s.bumpFree).nextLaunch = s.nextLaunch := rfl
@[simp] theorem State.bumpFree_nextGang (s : State) : (s.bumpFree).nextGang = s.nextGang := rfl
@[simp] theorem State.bumpFree_segs (s : State) : (s.bumpFree).segs = s.segs := rfl
@[simp] theorem State.bumpFree_mgmtBase (s : State) : (s.bumpFree).mgmtBase = s.mgmtBase := rfl
@[simp] theorem State.bumpFree_denBase (s : State) : (s.bumpFree).denBase = s.denBase := rfl
@[simp] theorem State.bumpFree_denSize (s : State) : (s.bumpFree).denSize = s.denSize := rfl
@[simp] theorem State.bumpFree_ringBase (s : State) : (s.bumpFree).ringBase = s.ringBase := rfl
@[simp] theorem State.bumpFree_modNum (s : State) : (s.bumpFree).modNum = s.modNum := rfl
@[simp] theorem State.bumpFree_powerLimit (s : State) : (s.bumpFree).powerLimit = s.powerLimit := rfl
@[simp] theorem State.bumpFree_routes (s : State) : (s.bumpFree).routes = s.routes := rfl
@[simp] theorem State.bumpFree_ports (s : State) : (s.bumpFree).ports = s.ports := rfl
@[simp] theorem State.bumpFree_inbound (s : State) : (s.bumpFree).inbound = s.inbound := rfl
@[simp] theorem State.bumpFree_qhaBase (s : State) : (s.bumpFree).qhaBase = s.qhaBase := rfl
@[simp] theorem State.bumpFree_qhaLock (s : State) : (s.bumpFree).qhaLock = s.qhaLock := rfl
@[simp] theorem State.bumpFree_qhaErr (s : State) : (s.bumpFree).qhaErr = s.qhaErr := rfl
@[simp] theorem State.bumpFree_msix (s : State) : (s.bumpFree).msix = s.msix := rfl
@[simp] theorem State.bumpFree_msixTable (s : State) : (s.bumpFree).msixTable = s.msixTable := rfl
@[simp] theorem State.bumpFree_dbg (s : State) : (s.bumpFree).dbg = s.dbg := rfl
@[simp] theorem State.bumpFree_recs (s : State) : (s.bumpFree).recs = s.recs := rfl
@[simp] theorem State.bumpFree_mail (s : State) : (s.bumpFree).mail = s.mail := rfl
@[simp] theorem State.bumpFree_acks (s : State) : (s.bumpFree).acks = s.acks := rfl
@[simp] theorem State.bumpFree_saves (s : State) : (s.bumpFree).saves = s.saves := rfl
@[simp] theorem State.bumpFree_nextSave (s : State) : (s.bumpFree).nextSave = s.nextSave := rfl
@[simp] theorem State.bumpFree_flash (s : State) : (s.bumpFree).flash = s.flash := rfl
@[simp] theorem State.bumpFree_repairs (s : State) : (s.bumpFree).repairs = s.repairs := rfl
@[simp] theorem State.bumpFree_devCert (s : State) : (s.bumpFree).devCert = s.devCert := rfl
@[simp] theorem State.bumpFree_devPub (s : State) : (s.bumpFree).devPub = s.devPub := rfl
@[simp] theorem State.bumpFree_devPriv (s : State) : (s.bumpFree).devPriv = s.devPriv := rfl
@[simp] theorem State.bumpFree_vc3 (s : State) : (s.bumpFree).vc3 = s.vc3 := rfl
@[simp] theorem State.bumpFree_reply (s : State) : (s.bumpFree).reply = s.reply := rfl
@[simp] theorem State.bumpFree_cpLog (s : State) : (s.bumpFree).cpLog = s.cpLog := rfl
@[simp] theorem State.bumpFree_throttle (s : State) : (s.bumpFree).throttle = s.throttle := rfl
@[simp] theorem State.bumpFree_cur (s : State) : (s.bumpFree).cur = s.cur := rfl
@[simp] theorem State.bumpFree_agenda (s : State) : (s.bumpFree).agenda = s.agenda := rfl
@[simp] theorem State.bumpFree_rr (s : State) : (s.bumpFree).rr = s.rr := rfl

/-! ### `Core.updCtl` writes `ctl` alone -/

@[simp] theorem Core.updCtl_ctl (c : Core) (f : Ctl → Ctl) : (c.updCtl f).ctl = f c.ctl := rfl
@[simp] theorem Core.updCtl_vec (c : Core) (f : Ctl → Ctl) : (c.updCtl f).vec = c.vec := rfl
@[simp] theorem Core.updCtl_str (c : Core) (f : Ctl → Ctl) : (c.updCtl f).str = c.str := rfl
@[simp] theorem Core.updCtl_grd (c : Core) (f : Ctl → Ctl) : (c.updCtl f).grd = c.grd := rfl
@[simp] theorem Core.updCtl_cpy (c : Core) (f : Ctl → Ctl) : (c.updCtl f).cpy = c.cpy := rfl
@[simp] theorem Core.updCtl_hal (c : Core) (f : Ctl → Ctl) : (c.updCtl f).hal = c.hal := rfl
@[simp] theorem Core.updCtl_held (c : Core) (f : Ctl → Ctl) : (c.updCtl f).held = c.held := rfl
@[simp] theorem Core.updCtl_c2v (c : Core) (f : Ctl → Ctl) : (c.updCtl f).c2v = c.c2v := rfl
@[simp] theorem Core.updCtl_v2c (c : Core) (f : Ctl → Ctl) : (c.updCtl f).v2c = c.v2c := rfl
@[simp] theorem Core.updCtl_tcm (c : Core) (f : Ctl → Ctl) : (c.updCtl f).tcm = c.tcm := rfl
@[simp] theorem Core.updCtl_tcmDirty (c : Core) (f : Ctl → Ctl) : (c.updCtl f).tcmDirty = c.tcmDirty := rfl
@[simp] theorem Core.updCtl_tcmPoison (c : Core) (f : Ctl → Ctl) : (c.updCtl f).tcmPoison = c.tcmPoison := rfl
@[simp] theorem Core.updCtl_tcmOwner (c : Core) (f : Ctl → Ctl) : (c.updCtl f).tcmOwner = c.tcmOwner := rfl
@[simp] theorem Core.updCtl_inbox (c : Core) (f : Ctl → Ctl) : (c.updCtl f).inbox = c.inbox := rfl
@[simp] theorem Core.updCtl_comb (c : Core) (f : Ctl → Ctl) : (c.updCtl f).comb = c.comb := rfl
@[simp] theorem Core.updCtl_ptraps (c : Core) (f : Ctl → Ctl) : (c.updCtl f).ptraps = c.ptraps := rfl
@[simp] theorem Core.updCtl_inflight (c : Core) (f : Ctl → Ctl) : (c.updCtl f).inflight = c.inflight := rfl
@[simp] theorem Core.updCtl_reports (c : Core) (f : Ctl → Ctl) : (c.updCtl f).reports = c.reports := rfl
@[simp] theorem Core.updCtl_tlb (c : Core) (f : Ctl → Ctl) : (c.updCtl f).tlb = c.tlb := rfl
@[simp] theorem Core.updCtl_walkc (c : Core) (f : Ctl → Ctl) : (c.updCtl f).walkc = c.walkc := rfl
@[simp] theorem Core.updCtl_seq (c : Core) (f : Ctl → Ctl) : (c.updCtl f).seq = c.seq := rfl
@[simp] theorem Core.updCtl_asid (c : Core) (f : Ctl → Ctl) : (c.updCtl f).asid = c.asid := rfl
@[simp] theorem Core.updCtl_gang (c : Core) (f : Ctl → Ctl) : (c.updCtl f).gang = c.gang := rfl
@[simp] theorem Core.updCtl_rank (c : Core) (f : Ctl → Ctl) : (c.updCtl f).rank = c.rank := rfl
@[simp] theorem Core.updCtl_placement (c : Core) (f : Ctl → Ctl) : (c.updCtl f).placement = c.placement := rfl
@[simp] theorem Core.updCtl_run (c : Core) (f : Ctl → Ctl) : (c.updCtl f).run = c.run := rfl
@[simp] theorem Core.updCtl_latched (c : Core) (f : Ctl → Ctl) : (c.updCtl f).latched = c.latched := rfl
@[simp] theorem Core.updCtl_ctxStat (c : Core) (f : Ctl → Ctl) : (c.updCtl f).ctxStat = c.ctxStat := rfl
@[simp] theorem Core.updCtl_ctxOp (c : Core) (f : Ctl → Ctl) : (c.updCtl f).ctxOp = c.ctxOp := rfl
@[simp] theorem Core.updCtl_ctxErr (c : Core) (f : Ctl → Ctl) : (c.updCtl f).ctxErr = c.ctxErr := rfl
@[simp] theorem Core.updCtl_savedAt (c : Core) (f : Ctl → Ctl) : (c.updCtl f).savedAt = c.savedAt := rfl
@[simp] theorem Core.updCtl_loadHeld (c : Core) (f : Ctl → Ctl) : (c.updCtl f).loadHeld = c.loadHeld := rfl
@[simp] theorem Core.updCtl_frozen (c : Core) (f : Ctl → Ctl) : (c.updCtl f).frozen = c.frozen := rfl
@[simp] theorem Core.updCtl_freezeLatch (c : Core) (f : Ctl → Ctl) : (c.updCtl f).freezeLatch = c.freezeLatch := rfl
@[simp] theorem Core.updCtl_ebrk (c : Core) (f : Ctl → Ctl) : (c.updCtl f).ebrk = c.ebrk := rfl
@[simp] theorem Core.updCtl_lanes (c : Core) (f : Ctl → Ctl) : (c.updCtl f).lanes = c.lanes := rfl
@[simp] theorem Core.updCtl_updNum (c : Core) (f : Ctl → Ctl) : (c.updCtl f).updNum = c.updNum := rfl
@[simp] theorem Core.updCtl_grants (c : Core) (f : Ctl → Ctl) : (c.updCtl f).grants = c.grants := rfl
@[simp] theorem Core.updCtl_lastGrant (c : Core) (f : Ctl → Ctl) : (c.updCtl f).lastGrant = c.lastGrant := rfl
@[simp] theorem Core.updCtl_cadMiss (c : Core) (f : Ctl → Ctl) : (c.updCtl f).cadMiss = c.cadMiss := rfl
@[simp] theorem Core.updCtl_byteHeld (c : Core) (f : Ctl → Ctl) : (c.updCtl f).byteHeld = c.byteHeld := rfl
@[simp] theorem Core.updCtl_watchHit (c : Core) (f : Ctl → Ctl) : (c.updCtl f).watchHit = c.watchHit := rfl
@[simp] theorem Core.updCtl_lastBar (c : Core) (f : Ctl → Ctl) : (c.updCtl f).lastBar = c.lastBar := rfl

/-! ### `Core.updVec` writes `vec` alone -/

@[simp] theorem Core.updVec_vec (c : Core) (f : Vec → Vec) : (c.updVec f).vec = f c.vec := rfl
@[simp] theorem Core.updVec_ctl (c : Core) (f : Vec → Vec) : (c.updVec f).ctl = c.ctl := rfl
@[simp] theorem Core.updVec_str (c : Core) (f : Vec → Vec) : (c.updVec f).str = c.str := rfl
@[simp] theorem Core.updVec_grd (c : Core) (f : Vec → Vec) : (c.updVec f).grd = c.grd := rfl
@[simp] theorem Core.updVec_cpy (c : Core) (f : Vec → Vec) : (c.updVec f).cpy = c.cpy := rfl
@[simp] theorem Core.updVec_hal (c : Core) (f : Vec → Vec) : (c.updVec f).hal = c.hal := rfl
@[simp] theorem Core.updVec_held (c : Core) (f : Vec → Vec) : (c.updVec f).held = c.held := rfl
@[simp] theorem Core.updVec_c2v (c : Core) (f : Vec → Vec) : (c.updVec f).c2v = c.c2v := rfl
@[simp] theorem Core.updVec_v2c (c : Core) (f : Vec → Vec) : (c.updVec f).v2c = c.v2c := rfl
@[simp] theorem Core.updVec_tcm (c : Core) (f : Vec → Vec) : (c.updVec f).tcm = c.tcm := rfl
@[simp] theorem Core.updVec_tcmDirty (c : Core) (f : Vec → Vec) : (c.updVec f).tcmDirty = c.tcmDirty := rfl
@[simp] theorem Core.updVec_tcmPoison (c : Core) (f : Vec → Vec) : (c.updVec f).tcmPoison = c.tcmPoison := rfl
@[simp] theorem Core.updVec_tcmOwner (c : Core) (f : Vec → Vec) : (c.updVec f).tcmOwner = c.tcmOwner := rfl
@[simp] theorem Core.updVec_inbox (c : Core) (f : Vec → Vec) : (c.updVec f).inbox = c.inbox := rfl
@[simp] theorem Core.updVec_comb (c : Core) (f : Vec → Vec) : (c.updVec f).comb = c.comb := rfl
@[simp] theorem Core.updVec_ptraps (c : Core) (f : Vec → Vec) : (c.updVec f).ptraps = c.ptraps := rfl
@[simp] theorem Core.updVec_inflight (c : Core) (f : Vec → Vec) : (c.updVec f).inflight = c.inflight := rfl
@[simp] theorem Core.updVec_reports (c : Core) (f : Vec → Vec) : (c.updVec f).reports = c.reports := rfl
@[simp] theorem Core.updVec_tlb (c : Core) (f : Vec → Vec) : (c.updVec f).tlb = c.tlb := rfl
@[simp] theorem Core.updVec_walkc (c : Core) (f : Vec → Vec) : (c.updVec f).walkc = c.walkc := rfl
@[simp] theorem Core.updVec_seq (c : Core) (f : Vec → Vec) : (c.updVec f).seq = c.seq := rfl
@[simp] theorem Core.updVec_asid (c : Core) (f : Vec → Vec) : (c.updVec f).asid = c.asid := rfl
@[simp] theorem Core.updVec_gang (c : Core) (f : Vec → Vec) : (c.updVec f).gang = c.gang := rfl
@[simp] theorem Core.updVec_rank (c : Core) (f : Vec → Vec) : (c.updVec f).rank = c.rank := rfl
@[simp] theorem Core.updVec_placement (c : Core) (f : Vec → Vec) : (c.updVec f).placement = c.placement := rfl
@[simp] theorem Core.updVec_run (c : Core) (f : Vec → Vec) : (c.updVec f).run = c.run := rfl
@[simp] theorem Core.updVec_latched (c : Core) (f : Vec → Vec) : (c.updVec f).latched = c.latched := rfl
@[simp] theorem Core.updVec_ctxStat (c : Core) (f : Vec → Vec) : (c.updVec f).ctxStat = c.ctxStat := rfl
@[simp] theorem Core.updVec_ctxOp (c : Core) (f : Vec → Vec) : (c.updVec f).ctxOp = c.ctxOp := rfl
@[simp] theorem Core.updVec_ctxErr (c : Core) (f : Vec → Vec) : (c.updVec f).ctxErr = c.ctxErr := rfl
@[simp] theorem Core.updVec_savedAt (c : Core) (f : Vec → Vec) : (c.updVec f).savedAt = c.savedAt := rfl
@[simp] theorem Core.updVec_loadHeld (c : Core) (f : Vec → Vec) : (c.updVec f).loadHeld = c.loadHeld := rfl
@[simp] theorem Core.updVec_frozen (c : Core) (f : Vec → Vec) : (c.updVec f).frozen = c.frozen := rfl
@[simp] theorem Core.updVec_freezeLatch (c : Core) (f : Vec → Vec) : (c.updVec f).freezeLatch = c.freezeLatch := rfl
@[simp] theorem Core.updVec_ebrk (c : Core) (f : Vec → Vec) : (c.updVec f).ebrk = c.ebrk := rfl
@[simp] theorem Core.updVec_lanes (c : Core) (f : Vec → Vec) : (c.updVec f).lanes = c.lanes := rfl
@[simp] theorem Core.updVec_updNum (c : Core) (f : Vec → Vec) : (c.updVec f).updNum = c.updNum := rfl
@[simp] theorem Core.updVec_grants (c : Core) (f : Vec → Vec) : (c.updVec f).grants = c.grants := rfl
@[simp] theorem Core.updVec_lastGrant (c : Core) (f : Vec → Vec) : (c.updVec f).lastGrant = c.lastGrant := rfl
@[simp] theorem Core.updVec_cadMiss (c : Core) (f : Vec → Vec) : (c.updVec f).cadMiss = c.cadMiss := rfl
@[simp] theorem Core.updVec_byteHeld (c : Core) (f : Vec → Vec) : (c.updVec f).byteHeld = c.byteHeld := rfl
@[simp] theorem Core.updVec_watchHit (c : Core) (f : Vec → Vec) : (c.updVec f).watchHit = c.watchHit := rfl
@[simp] theorem Core.updVec_lastBar (c : Core) (f : Vec → Vec) : (c.updVec f).lastBar = c.lastBar := rfl

/-! ### `Core.updStr` writes `str` alone -/

@[simp] theorem Core.updStr_str (c : Core) (f : Str → Str) : (c.updStr f).str = f c.str := rfl
@[simp] theorem Core.updStr_ctl (c : Core) (f : Str → Str) : (c.updStr f).ctl = c.ctl := rfl
@[simp] theorem Core.updStr_vec (c : Core) (f : Str → Str) : (c.updStr f).vec = c.vec := rfl
@[simp] theorem Core.updStr_grd (c : Core) (f : Str → Str) : (c.updStr f).grd = c.grd := rfl
@[simp] theorem Core.updStr_cpy (c : Core) (f : Str → Str) : (c.updStr f).cpy = c.cpy := rfl
@[simp] theorem Core.updStr_hal (c : Core) (f : Str → Str) : (c.updStr f).hal = c.hal := rfl
@[simp] theorem Core.updStr_held (c : Core) (f : Str → Str) : (c.updStr f).held = c.held := rfl
@[simp] theorem Core.updStr_c2v (c : Core) (f : Str → Str) : (c.updStr f).c2v = c.c2v := rfl
@[simp] theorem Core.updStr_v2c (c : Core) (f : Str → Str) : (c.updStr f).v2c = c.v2c := rfl
@[simp] theorem Core.updStr_tcm (c : Core) (f : Str → Str) : (c.updStr f).tcm = c.tcm := rfl
@[simp] theorem Core.updStr_tcmDirty (c : Core) (f : Str → Str) : (c.updStr f).tcmDirty = c.tcmDirty := rfl
@[simp] theorem Core.updStr_tcmPoison (c : Core) (f : Str → Str) : (c.updStr f).tcmPoison = c.tcmPoison := rfl
@[simp] theorem Core.updStr_tcmOwner (c : Core) (f : Str → Str) : (c.updStr f).tcmOwner = c.tcmOwner := rfl
@[simp] theorem Core.updStr_inbox (c : Core) (f : Str → Str) : (c.updStr f).inbox = c.inbox := rfl
@[simp] theorem Core.updStr_comb (c : Core) (f : Str → Str) : (c.updStr f).comb = c.comb := rfl
@[simp] theorem Core.updStr_ptraps (c : Core) (f : Str → Str) : (c.updStr f).ptraps = c.ptraps := rfl
@[simp] theorem Core.updStr_inflight (c : Core) (f : Str → Str) : (c.updStr f).inflight = c.inflight := rfl
@[simp] theorem Core.updStr_reports (c : Core) (f : Str → Str) : (c.updStr f).reports = c.reports := rfl
@[simp] theorem Core.updStr_tlb (c : Core) (f : Str → Str) : (c.updStr f).tlb = c.tlb := rfl
@[simp] theorem Core.updStr_walkc (c : Core) (f : Str → Str) : (c.updStr f).walkc = c.walkc := rfl
@[simp] theorem Core.updStr_seq (c : Core) (f : Str → Str) : (c.updStr f).seq = c.seq := rfl
@[simp] theorem Core.updStr_asid (c : Core) (f : Str → Str) : (c.updStr f).asid = c.asid := rfl
@[simp] theorem Core.updStr_gang (c : Core) (f : Str → Str) : (c.updStr f).gang = c.gang := rfl
@[simp] theorem Core.updStr_rank (c : Core) (f : Str → Str) : (c.updStr f).rank = c.rank := rfl
@[simp] theorem Core.updStr_placement (c : Core) (f : Str → Str) : (c.updStr f).placement = c.placement := rfl
@[simp] theorem Core.updStr_run (c : Core) (f : Str → Str) : (c.updStr f).run = c.run := rfl
@[simp] theorem Core.updStr_latched (c : Core) (f : Str → Str) : (c.updStr f).latched = c.latched := rfl
@[simp] theorem Core.updStr_ctxStat (c : Core) (f : Str → Str) : (c.updStr f).ctxStat = c.ctxStat := rfl
@[simp] theorem Core.updStr_ctxOp (c : Core) (f : Str → Str) : (c.updStr f).ctxOp = c.ctxOp := rfl
@[simp] theorem Core.updStr_ctxErr (c : Core) (f : Str → Str) : (c.updStr f).ctxErr = c.ctxErr := rfl
@[simp] theorem Core.updStr_savedAt (c : Core) (f : Str → Str) : (c.updStr f).savedAt = c.savedAt := rfl
@[simp] theorem Core.updStr_loadHeld (c : Core) (f : Str → Str) : (c.updStr f).loadHeld = c.loadHeld := rfl
@[simp] theorem Core.updStr_frozen (c : Core) (f : Str → Str) : (c.updStr f).frozen = c.frozen := rfl
@[simp] theorem Core.updStr_freezeLatch (c : Core) (f : Str → Str) : (c.updStr f).freezeLatch = c.freezeLatch := rfl
@[simp] theorem Core.updStr_ebrk (c : Core) (f : Str → Str) : (c.updStr f).ebrk = c.ebrk := rfl
@[simp] theorem Core.updStr_lanes (c : Core) (f : Str → Str) : (c.updStr f).lanes = c.lanes := rfl
@[simp] theorem Core.updStr_updNum (c : Core) (f : Str → Str) : (c.updStr f).updNum = c.updNum := rfl
@[simp] theorem Core.updStr_grants (c : Core) (f : Str → Str) : (c.updStr f).grants = c.grants := rfl
@[simp] theorem Core.updStr_lastGrant (c : Core) (f : Str → Str) : (c.updStr f).lastGrant = c.lastGrant := rfl
@[simp] theorem Core.updStr_cadMiss (c : Core) (f : Str → Str) : (c.updStr f).cadMiss = c.cadMiss := rfl
@[simp] theorem Core.updStr_byteHeld (c : Core) (f : Str → Str) : (c.updStr f).byteHeld = c.byteHeld := rfl
@[simp] theorem Core.updStr_watchHit (c : Core) (f : Str → Str) : (c.updStr f).watchHit = c.watchHit := rfl
@[simp] theorem Core.updStr_lastBar (c : Core) (f : Str → Str) : (c.updStr f).lastBar = c.lastBar := rfl

/-! ### `Core.updGrd` writes `grd` alone -/

@[simp] theorem Core.updGrd_grd (c : Core) (f : Grd → Grd) : (c.updGrd f).grd = f c.grd := rfl
@[simp] theorem Core.updGrd_ctl (c : Core) (f : Grd → Grd) : (c.updGrd f).ctl = c.ctl := rfl
@[simp] theorem Core.updGrd_vec (c : Core) (f : Grd → Grd) : (c.updGrd f).vec = c.vec := rfl
@[simp] theorem Core.updGrd_str (c : Core) (f : Grd → Grd) : (c.updGrd f).str = c.str := rfl
@[simp] theorem Core.updGrd_cpy (c : Core) (f : Grd → Grd) : (c.updGrd f).cpy = c.cpy := rfl
@[simp] theorem Core.updGrd_hal (c : Core) (f : Grd → Grd) : (c.updGrd f).hal = c.hal := rfl
@[simp] theorem Core.updGrd_held (c : Core) (f : Grd → Grd) : (c.updGrd f).held = c.held := rfl
@[simp] theorem Core.updGrd_c2v (c : Core) (f : Grd → Grd) : (c.updGrd f).c2v = c.c2v := rfl
@[simp] theorem Core.updGrd_v2c (c : Core) (f : Grd → Grd) : (c.updGrd f).v2c = c.v2c := rfl
@[simp] theorem Core.updGrd_tcm (c : Core) (f : Grd → Grd) : (c.updGrd f).tcm = c.tcm := rfl
@[simp] theorem Core.updGrd_tcmDirty (c : Core) (f : Grd → Grd) : (c.updGrd f).tcmDirty = c.tcmDirty := rfl
@[simp] theorem Core.updGrd_tcmPoison (c : Core) (f : Grd → Grd) : (c.updGrd f).tcmPoison = c.tcmPoison := rfl
@[simp] theorem Core.updGrd_tcmOwner (c : Core) (f : Grd → Grd) : (c.updGrd f).tcmOwner = c.tcmOwner := rfl
@[simp] theorem Core.updGrd_inbox (c : Core) (f : Grd → Grd) : (c.updGrd f).inbox = c.inbox := rfl
@[simp] theorem Core.updGrd_comb (c : Core) (f : Grd → Grd) : (c.updGrd f).comb = c.comb := rfl
@[simp] theorem Core.updGrd_ptraps (c : Core) (f : Grd → Grd) : (c.updGrd f).ptraps = c.ptraps := rfl
@[simp] theorem Core.updGrd_inflight (c : Core) (f : Grd → Grd) : (c.updGrd f).inflight = c.inflight := rfl
@[simp] theorem Core.updGrd_reports (c : Core) (f : Grd → Grd) : (c.updGrd f).reports = c.reports := rfl
@[simp] theorem Core.updGrd_tlb (c : Core) (f : Grd → Grd) : (c.updGrd f).tlb = c.tlb := rfl
@[simp] theorem Core.updGrd_walkc (c : Core) (f : Grd → Grd) : (c.updGrd f).walkc = c.walkc := rfl
@[simp] theorem Core.updGrd_seq (c : Core) (f : Grd → Grd) : (c.updGrd f).seq = c.seq := rfl
@[simp] theorem Core.updGrd_asid (c : Core) (f : Grd → Grd) : (c.updGrd f).asid = c.asid := rfl
@[simp] theorem Core.updGrd_gang (c : Core) (f : Grd → Grd) : (c.updGrd f).gang = c.gang := rfl
@[simp] theorem Core.updGrd_rank (c : Core) (f : Grd → Grd) : (c.updGrd f).rank = c.rank := rfl
@[simp] theorem Core.updGrd_placement (c : Core) (f : Grd → Grd) : (c.updGrd f).placement = c.placement := rfl
@[simp] theorem Core.updGrd_run (c : Core) (f : Grd → Grd) : (c.updGrd f).run = c.run := rfl
@[simp] theorem Core.updGrd_latched (c : Core) (f : Grd → Grd) : (c.updGrd f).latched = c.latched := rfl
@[simp] theorem Core.updGrd_ctxStat (c : Core) (f : Grd → Grd) : (c.updGrd f).ctxStat = c.ctxStat := rfl
@[simp] theorem Core.updGrd_ctxOp (c : Core) (f : Grd → Grd) : (c.updGrd f).ctxOp = c.ctxOp := rfl
@[simp] theorem Core.updGrd_ctxErr (c : Core) (f : Grd → Grd) : (c.updGrd f).ctxErr = c.ctxErr := rfl
@[simp] theorem Core.updGrd_savedAt (c : Core) (f : Grd → Grd) : (c.updGrd f).savedAt = c.savedAt := rfl
@[simp] theorem Core.updGrd_loadHeld (c : Core) (f : Grd → Grd) : (c.updGrd f).loadHeld = c.loadHeld := rfl
@[simp] theorem Core.updGrd_frozen (c : Core) (f : Grd → Grd) : (c.updGrd f).frozen = c.frozen := rfl
@[simp] theorem Core.updGrd_freezeLatch (c : Core) (f : Grd → Grd) : (c.updGrd f).freezeLatch = c.freezeLatch := rfl
@[simp] theorem Core.updGrd_ebrk (c : Core) (f : Grd → Grd) : (c.updGrd f).ebrk = c.ebrk := rfl
@[simp] theorem Core.updGrd_lanes (c : Core) (f : Grd → Grd) : (c.updGrd f).lanes = c.lanes := rfl
@[simp] theorem Core.updGrd_updNum (c : Core) (f : Grd → Grd) : (c.updGrd f).updNum = c.updNum := rfl
@[simp] theorem Core.updGrd_grants (c : Core) (f : Grd → Grd) : (c.updGrd f).grants = c.grants := rfl
@[simp] theorem Core.updGrd_lastGrant (c : Core) (f : Grd → Grd) : (c.updGrd f).lastGrant = c.lastGrant := rfl
@[simp] theorem Core.updGrd_cadMiss (c : Core) (f : Grd → Grd) : (c.updGrd f).cadMiss = c.cadMiss := rfl
@[simp] theorem Core.updGrd_byteHeld (c : Core) (f : Grd → Grd) : (c.updGrd f).byteHeld = c.byteHeld := rfl
@[simp] theorem Core.updGrd_watchHit (c : Core) (f : Grd → Grd) : (c.updGrd f).watchHit = c.watchHit := rfl
@[simp] theorem Core.updGrd_lastBar (c : Core) (f : Grd → Grd) : (c.updGrd f).lastBar = c.lastBar := rfl

/-! ### `Core.updCpy` writes `cpy` alone -/

@[simp] theorem Core.updCpy_cpy (c : Core) (f : Cpy → Cpy) : (c.updCpy f).cpy = f c.cpy := rfl
@[simp] theorem Core.updCpy_ctl (c : Core) (f : Cpy → Cpy) : (c.updCpy f).ctl = c.ctl := rfl
@[simp] theorem Core.updCpy_vec (c : Core) (f : Cpy → Cpy) : (c.updCpy f).vec = c.vec := rfl
@[simp] theorem Core.updCpy_str (c : Core) (f : Cpy → Cpy) : (c.updCpy f).str = c.str := rfl
@[simp] theorem Core.updCpy_grd (c : Core) (f : Cpy → Cpy) : (c.updCpy f).grd = c.grd := rfl
@[simp] theorem Core.updCpy_hal (c : Core) (f : Cpy → Cpy) : (c.updCpy f).hal = c.hal := rfl
@[simp] theorem Core.updCpy_held (c : Core) (f : Cpy → Cpy) : (c.updCpy f).held = c.held := rfl
@[simp] theorem Core.updCpy_c2v (c : Core) (f : Cpy → Cpy) : (c.updCpy f).c2v = c.c2v := rfl
@[simp] theorem Core.updCpy_v2c (c : Core) (f : Cpy → Cpy) : (c.updCpy f).v2c = c.v2c := rfl
@[simp] theorem Core.updCpy_tcm (c : Core) (f : Cpy → Cpy) : (c.updCpy f).tcm = c.tcm := rfl
@[simp] theorem Core.updCpy_tcmDirty (c : Core) (f : Cpy → Cpy) : (c.updCpy f).tcmDirty = c.tcmDirty := rfl
@[simp] theorem Core.updCpy_tcmPoison (c : Core) (f : Cpy → Cpy) : (c.updCpy f).tcmPoison = c.tcmPoison := rfl
@[simp] theorem Core.updCpy_tcmOwner (c : Core) (f : Cpy → Cpy) : (c.updCpy f).tcmOwner = c.tcmOwner := rfl
@[simp] theorem Core.updCpy_inbox (c : Core) (f : Cpy → Cpy) : (c.updCpy f).inbox = c.inbox := rfl
@[simp] theorem Core.updCpy_comb (c : Core) (f : Cpy → Cpy) : (c.updCpy f).comb = c.comb := rfl
@[simp] theorem Core.updCpy_ptraps (c : Core) (f : Cpy → Cpy) : (c.updCpy f).ptraps = c.ptraps := rfl
@[simp] theorem Core.updCpy_inflight (c : Core) (f : Cpy → Cpy) : (c.updCpy f).inflight = c.inflight := rfl
@[simp] theorem Core.updCpy_reports (c : Core) (f : Cpy → Cpy) : (c.updCpy f).reports = c.reports := rfl
@[simp] theorem Core.updCpy_tlb (c : Core) (f : Cpy → Cpy) : (c.updCpy f).tlb = c.tlb := rfl
@[simp] theorem Core.updCpy_walkc (c : Core) (f : Cpy → Cpy) : (c.updCpy f).walkc = c.walkc := rfl
@[simp] theorem Core.updCpy_seq (c : Core) (f : Cpy → Cpy) : (c.updCpy f).seq = c.seq := rfl
@[simp] theorem Core.updCpy_asid (c : Core) (f : Cpy → Cpy) : (c.updCpy f).asid = c.asid := rfl
@[simp] theorem Core.updCpy_gang (c : Core) (f : Cpy → Cpy) : (c.updCpy f).gang = c.gang := rfl
@[simp] theorem Core.updCpy_rank (c : Core) (f : Cpy → Cpy) : (c.updCpy f).rank = c.rank := rfl
@[simp] theorem Core.updCpy_placement (c : Core) (f : Cpy → Cpy) : (c.updCpy f).placement = c.placement := rfl
@[simp] theorem Core.updCpy_run (c : Core) (f : Cpy → Cpy) : (c.updCpy f).run = c.run := rfl
@[simp] theorem Core.updCpy_latched (c : Core) (f : Cpy → Cpy) : (c.updCpy f).latched = c.latched := rfl
@[simp] theorem Core.updCpy_ctxStat (c : Core) (f : Cpy → Cpy) : (c.updCpy f).ctxStat = c.ctxStat := rfl
@[simp] theorem Core.updCpy_ctxOp (c : Core) (f : Cpy → Cpy) : (c.updCpy f).ctxOp = c.ctxOp := rfl
@[simp] theorem Core.updCpy_ctxErr (c : Core) (f : Cpy → Cpy) : (c.updCpy f).ctxErr = c.ctxErr := rfl
@[simp] theorem Core.updCpy_savedAt (c : Core) (f : Cpy → Cpy) : (c.updCpy f).savedAt = c.savedAt := rfl
@[simp] theorem Core.updCpy_loadHeld (c : Core) (f : Cpy → Cpy) : (c.updCpy f).loadHeld = c.loadHeld := rfl
@[simp] theorem Core.updCpy_frozen (c : Core) (f : Cpy → Cpy) : (c.updCpy f).frozen = c.frozen := rfl
@[simp] theorem Core.updCpy_freezeLatch (c : Core) (f : Cpy → Cpy) : (c.updCpy f).freezeLatch = c.freezeLatch := rfl
@[simp] theorem Core.updCpy_ebrk (c : Core) (f : Cpy → Cpy) : (c.updCpy f).ebrk = c.ebrk := rfl
@[simp] theorem Core.updCpy_lanes (c : Core) (f : Cpy → Cpy) : (c.updCpy f).lanes = c.lanes := rfl
@[simp] theorem Core.updCpy_updNum (c : Core) (f : Cpy → Cpy) : (c.updCpy f).updNum = c.updNum := rfl
@[simp] theorem Core.updCpy_grants (c : Core) (f : Cpy → Cpy) : (c.updCpy f).grants = c.grants := rfl
@[simp] theorem Core.updCpy_lastGrant (c : Core) (f : Cpy → Cpy) : (c.updCpy f).lastGrant = c.lastGrant := rfl
@[simp] theorem Core.updCpy_cadMiss (c : Core) (f : Cpy → Cpy) : (c.updCpy f).cadMiss = c.cadMiss := rfl
@[simp] theorem Core.updCpy_byteHeld (c : Core) (f : Cpy → Cpy) : (c.updCpy f).byteHeld = c.byteHeld := rfl
@[simp] theorem Core.updCpy_watchHit (c : Core) (f : Cpy → Cpy) : (c.updCpy f).watchHit = c.watchHit := rfl
@[simp] theorem Core.updCpy_lastBar (c : Core) (f : Cpy → Cpy) : (c.updCpy f).lastBar = c.lastBar := rfl

/-! ### What an update writes -/

@[simp] theorem State.coreN_setCoreN (s : State) (n m : Nat) (c : Core) : (s.setCoreN n c).coreN m = if m = n then c else s.coreN m := by
  simp [State.coreN, State.setCoreN]
@[simp] theorem State.coreN_updN (s : State) (n m : Nat) (f : Core → Core) :
    (s.updN n f).coreN m = if m = n then f (s.coreN m) else s.coreN m := by
  by_cases h : m = n <;> simp [State.updN, h]
@[simp] theorem State.core_upd (s : State) (f : Core → Core) : (s.upd f).core = f s.core := by
  simp [State.core, State.upd]
@[simp] theorem State.core_setCore (s : State) (c : Core) : (s.setCore c).core = c := by
  simp [State.core, State.setCore]
@[simp] theorem State.coreN_upd (s : State) (f : Core → Core) (m : Nat) :
    (s.upd f).coreN m = if m = s.cur then f s.core else s.coreN m := by
  by_cases h : m = s.cur <;> simp [State.upd, State.core, h]
@[simp] theorem State.coreN_cur (s : State) : s.coreN s.cur = s.core := rfl
@[simp] theorem State.gangN_setGang (s : State) (g j : Nat) (v : Gang) : (s.setGang g v).gangN j = if j = g then v else s.gangN j := by
  by_cases h : j = g <;> simp [State.gangN, State.setGang, h]
@[simp] theorem State.gangN_setCoreN (s : State) (n : Nat) (c : Core) (g : Nat) : (s.setCoreN n c).gangN g = s.gangN g := rfl
@[simp] theorem State.gangN_updN (s : State) (n : Nat) (f : Core → Core) (g : Nat) : (s.updN n f).gangN g = s.gangN g := rfl
@[simp] theorem State.gangN_upd (s : State) (f : Core → Core) (g : Nat) : (s.upd f).gangN g = s.gangN g := rfl
@[simp] theorem State.coreN_setGang (s : State) (g : Nat) (v : Gang) (n : Nat) : (s.setGang g v).coreN n = s.coreN n := rfl
@[simp] theorem State.core_setGang (s : State) (g : Nat) (v : Gang) : (s.setGang g v).core = s.core := rfl
@[simp] theorem State.dbgOf_setDbg (s : State) (k j : Nat) (v : Dbg) : (s.setDbg k v).dbgOf j = if j = k then v else s.dbgOf j := by
  simp [State.dbgOf, State.setDbg]
@[simp] theorem State.coreN_setDbg (s : State) (k n : Nat) (v : Dbg) : (s.setDbg k v).coreN n = s.coreN n := rfl
@[simp] theorem State.clu_setClu (s : State) (k j : Nat) (v : Cluster) : (s.setClu k v).clu j = if j = k then v else s.clu j := by
  simp [State.clu, State.setClu]
@[simp] theorem State.coreN_setClu (s : State) (k n : Nat) (v : Cluster) : (s.setClu k v).coreN n = s.coreN n := rfl

/-! ### Scalar registers -/

/-- A register that is read as written, `s0` apart (R211). -/
@[simp] theorem regGet_regSet_same (c : Core) (r : Reg) (v : DWord) : regGet (regSet c r v) r = if r = 0 then 0 else v := by
  by_cases h : r = 0
  · rw [regGet, if_pos h, if_pos h]
  · rw [if_neg h, regSet, if_neg h]
    by_cases h1 : c.ctl.priv ≠ 0 ∧ 48 ≤ r.toNat
    · rw [if_pos h1, regGet, if_neg h]; simp only [Core.updCtl_ctl, if_pos h1, smGet_smSet, if_true]
    · rw [if_neg h1]
      by_cases h2 : c.ctl.priv = 0 ∧ c.ctl.inHandler = true ∧ 56 ≤ r.toNat
      · rw [if_pos h2, regGet, if_neg h]; simp only [Core.updCtl_ctl, if_neg h1, if_pos h2, smGet_smSet, if_true]
      · rw [if_neg h2, regGet, if_neg h]; simp only [Core.updCtl_ctl, if_neg h1, if_neg h2, smGet_smSet, if_true]

/-- A write leaves every other register (R211, R241, R356). -/
theorem regGet_regSet_of_ne (c : Core) (r q : Reg) (v : DWord) (h : q ≠ r) : regGet (regSet c r v) q = regGet c q := by
  have hn : q.toNat ≠ r.toNat := fun e => h (BitVec.eq_of_toNat_eq e)
  rw [regSet]
  split
  · rfl
  · split
    · rw [regGet, regGet]; simp only [Core.updCtl_ctl, smGet_smSet, if_neg hn]; rfl
    · split
      · rw [regGet, regGet]; simp only [Core.updCtl_ctl, smGet_smSet, if_neg hn]
      · rw [regGet, regGet]; simp only [Core.updCtl_ctl, smGet_smSet, if_neg hn]

theorem regSet_frame (c : Core) (r : Reg) (v : DWord) :
    (regSet c r v).ctl.pc = c.ctl.pc ∧ (regSet c r v).ctl.fflags = c.ctl.fflags ∧ (regSet c r v).ctl.priv = c.ctl.priv ∧
    (regSet c r v).ctl.inHandler = c.ctl.inHandler ∧ (regSet c r v).hal = c.hal ∧ (regSet c r v).held = c.held ∧
    (regSet c r v).tcm = c.tcm ∧ (regSet c r v).vec = c.vec ∧ (regSet c r v).grd = c.grd ∧ (regSet c r v).str = c.str ∧
    (regSet c r v).cpy = c.cpy ∧ (regSet c r v).ctl.loops = c.ctl.loops := by
  unfold regSet
  split
  · exact ⟨rfl, rfl, rfl, rfl, rfl, rfl, rfl, rfl, rfl, rfl, rfl, rfl⟩
  · split
    · exact ⟨rfl, rfl, rfl, rfl, rfl, rfl, rfl, rfl, rfl, rfl, rfl, rfl⟩
    · split
      · exact ⟨rfl, rfl, rfl, rfl, rfl, rfl, rfl, rfl, rfl, rfl, rfl, rfl⟩
      · exact ⟨rfl, rfl, rfl, rfl, rfl, rfl, rfl, rfl, rfl, rfl, rfl, rfl⟩

@[simp] theorem regSet_zero (c : Core) (v : DWord) : regSet c 0 v = c := by simp [regSet]
@[simp] theorem regGet_zero (c : Core) : regGet c 0 = 0 := by simp [regGet]
@[simp] theorem regGet_setPc (c : Core) (p : VAddr) (r : Reg) : regGet (setPc c p) r = regGet c r := rfl
@[simp] theorem regGet_orFlags (c : Core) (f : BitVec 6) (r : Reg) : regGet (orFlags c f) r = regGet c r := rfl
@[simp] theorem setPc_pc (c : Core) (p : VAddr) : (setPc c p).ctl.pc = p := rfl

end Sys2Proof.Machine
end

