-- ==== Sys2Proof/Laws/Memory.lean ====
section
/-! SUPPORT. The canonical form of the memories: every operation that writes physical memory, a scratchpad or a TCM keeps it,
and every other update of the state leaves it. -/

namespace Sys2Proof.Machine

open Sys2Proof.Safety

/-! ### Lists of cells -/

theorem smWfFrom_filter {α : Type} [DecidableEq α] {d : α} (f : Nat × α → Bool) {lo : Nat} {m : SMap α}
    (h : smWfFrom d lo m = true) : smWfFrom d lo (m.filter f) = true := by
  induction m generalizing lo with
  | nil => rfl
  | cons p t ih =>
    simp only [smWfFrom, Bool.and_eq_true, decide_eq_true_eq] at h
    by_cases hp : f p = true
    · rw [List.filter_cons_of_pos hp]
      simp only [smWfFrom, Bool.and_eq_true, decide_eq_true_eq]
      exact ⟨h.1, ih h.2⟩
    · rw [List.filter_cons_of_neg hp]
      exact ih (smWfFrom_mono _ h.2 (by omega))

/-- A part of a memory in canonical form is in canonical form. -/
theorem Mem.wf_filter {m : Mem} (h : m.wf) (f : Nat × Byte → Bool) : Mem.wf (m.filter f) := smWfFrom_filter f h
theorem Mem.wf_nil : Mem.wf [] := rfl

/-- Steps that each keep the form keep it together. -/
theorem Mem.wf_foldl {β : Type} (l : List β) (f : Mem → β → Mem) (hf : ∀ m b, m.wf → (f m b).wf) {m : Mem} (h : m.wf) :
    (l.foldl f m).wf := by
  induction l generalizing m with
  | nil => exact h
  | cons b t ih => exact ih (hf m b h)

/-- A memory below an address, and one from it on, make one memory. -/
theorem smWfFrom_append {α : Type} [DecidableEq α] {d : α} {lo : Nat} {m n : SMap α} (k : Nat) (hm : smWfFrom d lo m = true)
    (hb : ∀ p ∈ m, p.1 < k) (hn : smWfFrom d 0 n = true) (ha : ∀ p ∈ n, k ≤ p.1) (hl : lo ≤ k) :
    smWfFrom d lo (m ++ n) = true := by
  induction m generalizing lo with
  | nil =>
    cases n with
    | nil => rfl
    | cons p t =>
      simp only [smWfFrom, Bool.and_eq_true, decide_eq_true_eq, List.nil_append] at hn ⊢
      exact ⟨⟨Nat.le_trans hl (ha p (by simp)), hn.1.2⟩, hn.2⟩
  | cons p t ih =>
    simp only [smWfFrom, Bool.and_eq_true, decide_eq_true_eq, List.cons_append] at hm ⊢
    exact ⟨hm.1, ih hm.2 (fun q hq => hb q (by simp [hq])) (hb p (by simp))⟩

/-- No cell of a memory after writes lies outside the cells before and the bytes written. -/
theorem mem_smErase {α : Type} {m : SMap α} {k : Nat} {p : Nat × α} (h : p ∈ smErase m k) : p ∈ m := by
  induction m with
  | nil => exact h
  | cons q t ih =>
    simp only [smErase] at h
    split at h
    · exact List.mem_cons_of_mem _ (ih h)
    · rcases List.mem_cons.1 h with rfl | h
      · exact List.mem_cons_self
      · exact List.mem_cons_of_mem _ (ih h)
theorem mem_smIns {α : Type} {m : SMap α} {k : Nat} {v : α} {p : Nat × α} (h : p ∈ smIns m k v) : p.1 = k ∨ p ∈ m := by
  induction m with
  | nil => simp [smIns] at h; exact .inl (by rw [h])
  | cons q t ih =>
    simp only [smIns] at h
    split at h
    · rcases List.mem_cons.1 h with rfl | h
      · exact .inl rfl
      · exact .inr h
    · rcases List.mem_cons.1 h with rfl | h
      · exact .inr List.mem_cons_self
      · exact (ih h).imp id (List.mem_cons_of_mem _)
theorem mem_memSet {m : Mem} {a : Nat} {b : Byte} {p : Nat × Byte} (h : p ∈ memSet m a b) : p.1 = a ∨ p ∈ m := by
  unfold memSet smSet at h
  split at h
  · exact .inr (mem_smErase h)
  · exact (mem_smIns h).imp id mem_smErase
theorem mem_memPut {m : Mem} {a : Nat} {l : List Byte} {p : Nat × Byte} (h : p ∈ memPut m a l) :
    (a ≤ p.1 ∧ p.1 < a + l.length) ∨ p ∈ m := by
  induction l generalizing m a with
  | nil => exact .inr h
  | cons b t ih =>
    rcases ih h with h | h
    · exact .inl ⟨by omega, by simp only [List.length_cons]; omega⟩
    · rcases mem_memSet h with h | h
      · exact .inl ⟨by omega, by simp only [List.length_cons]; omega⟩
      · exact .inr h

/-! ### Updates of the state -/

theorem memInv_setCoreN {s : State} (h : MemInv s) {n : Nat} {c : Core} (hc : Mem.wf c.tcm) : MemInv (s.setCoreN n c) := by
  refine ⟨h.1, h.2.1, fun k => ?_⟩
  simp only [State.coreN, State.setCoreN, smGet_smPut]
  split
  · exact hc
  · exact h.2.2 k
theorem memInv_updN {s : State} (h : MemInv s) {n : Nat} {f : Core → Core} (hf : Mem.wf (f (s.coreN n)).tcm) : MemInv (s.updN n f) :=
  memInv_setCoreN h hf
/-- An update of a core that leaves its TCM. -/
theorem memInv_updKeep {s : State} (h : MemInv s) {n : Nat} {f : Core → Core} (hf : ∀ c, (f c).tcm = c.tcm) : MemInv (s.updN n f) :=
  memInv_updN h (by rw [hf]; exact h.2.2 n)
theorem memInv_upd {s : State} (h : MemInv s) {f : Core → Core} (hf : ∀ c, (f c).tcm = c.tcm) : MemInv (s.upd f) := memInv_updKeep h hf
theorem memInv_setClu {s : State} (h : MemInv s) {k : Nat} {v : Cluster} (hv : Mem.wf v.spad) : MemInv (s.setClu k v) := by
  refine ⟨h.1, fun j => ?_, h.2.2⟩
  simp only [State.clu, State.setClu, smGet_smPut]
  split
  · exact hv
  · exact h.2.1 j
/-- A state with the same cores and clusters and a memory in canonical form. -/
theorem memInv_ofMem {s t : State} (h : MemInv s) (hm : Mem.wf t.mem) (hc : t.cores = s.cores) (hk : t.clusters = s.clusters) :
    MemInv t := by
  refine ⟨hm, fun k => ?_, fun n => ?_⟩
  · have := h.2.1 k; simpa only [State.clu, hk] using this
  · have := h.2.2 n; simpa only [State.coreN, hc] using this
/-- A state that differs in no memory, no core and no cluster. -/
theorem memInv_same {s t : State} (h : MemInv s) (hm : t.mem = s.mem) (hc : t.cores = s.cores) (hk : t.clusters = s.clusters) :
    MemInv t := memInv_ofMem h (by rw [hm]; exact h.1) hc hk
theorem memInv_writeMem {s : State} (h : MemInv s) (a n v : Nat) : MemInv { s with mem := memWr s.mem a n v } :=
  memInv_ofMem h (Mem.wf_memWr h.1 ..) rfl rfl
theorem memInv_putMem {s : State} (h : MemInv s) (a : Nat) (l : List Byte) : MemInv { s with mem := memPut s.mem a l } :=
  memInv_ofMem h (Mem.wf_memPut h.1 ..) rfl rfl
/-- Words written one after another. -/
theorem memInv_writeWords {s : State} (h : MemInv s) (l : List (Nat × Nat)) (f : Nat × Nat → Nat) (n : Nat) :
    MemInv { s with mem := l.foldl (fun m p => memWr m (f p) n p.1) s.mem } :=
  memInv_ofMem h (Mem.wf_foldl l _ (fun _ _ hm => Mem.wf_memWr hm ..) h.1) rfl rfl

/-! ### The operations of one access -/

theorem memInv_ringAppend {s : State} (h : MemInv s) (w : Who) (c : BitVec 8) (r : Bool) (a : DWord) (f e : BitVec 4) :
    MemInv (ringAppend s w c r a f e) := by
  refine memInv_updKeep (s := { s with mem := _ }) ?_ fun _ => rfl
  exact memInv_ofMem h (Mem.wf_foldl _ _ (fun _ _ hm => Mem.wf_memWr hm ..) h.1) rfl rfl
theorem memInv_report {s : State} (h : MemInv s) (n : Nat) (c : BitVec 8) (v : DWord) : MemInv (report s n c v) := memInv_updKeep h fun _ => rfl
theorem memInv_tlbAdd {s : State} (h : MemInv s) (n : Nat) (t : TlbEntry) : MemInv (tlbAdd s n t) := memInv_updKeep h fun _ => rfl
theorem memInv_clearPoison {s : State} (h : MemInv s) (pa : Nat) : MemInv (clearPoison s pa) := by
  unfold clearPoison; split
  · exact h
  · exact memInv_same h rfl rfl rfl
/-- What a readiness report leaves. -/
theorem checkDone_keeps (s : State) :
    (checkDone s).mem = s.mem ∧ (checkDone s).cores = s.cores ∧ (checkDone s).clusters = s.clusters := by
  unfold checkDone; split <;> exact ⟨rfl, rfl, rfl⟩
theorem notReady_keeps (s : State) (i : Nat) :
    (notReady s i).mem = s.mem ∧ (notReady s i).cores = s.cores ∧ (notReady s i).clusters = s.clusters := checkDone_keeps _
theorem memInv_addPoison {s : State} (h : MemInv s) (pa : Nat) : MemInv (addPoison s pa) := by
  have e : (addPoison s pa).mem = s.mem ∧ (addPoison s pa).cores = s.cores ∧ (addPoison s pa).clusters = s.clusters := by
    unfold addPoison; dsimp only; split
    · exact ⟨rfl, rfl, rfl⟩
    · split
      · exact ⟨rfl, rfl, rfl⟩
      · split
        · split <;> exact ⟨rfl, rfl, rfl⟩
        · split
          · exact ⟨rfl, rfl, rfl⟩
          · split
            · exact notReady_keeps _ _
            · exact ⟨rfl, rfl, rfl⟩
  exact memInv_same h e.1 e.2.1 e.2.2
theorem memInv_watchCheck {s : State} (h : MemInv s) (w : Who) (a n : Nat) (r x : Bool) : MemInv (watchCheck s w a n r x) := by
  unfold watchCheck; split
  · exact memInv_updKeep h fun _ => rfl
  · exact h
theorem memInv_walkAdd {s : State} (h : MemInv s) (n va : Nat) (p : List (Nat × Nat)) : MemInv (walkAdd s n va p) :=
  memInv_updKeep h fun _ => rfl
theorem memInv_chargeDies {s t : State} (h : MemInv s) {n k : Nat} {a b : List Nat} (ht : chargeDies s n k a b = some t) : MemInv t := by
  unfold chargeDies at ht
  split at ht
  · cases ht; exact h
  · dsimp only at ht
    split at ht
    · cases ht; exact memInv_same h rfl rfl rfl
    · cases ht
theorem memInv_charge {s t : State} (h : MemInv s) {n pa k : Nat} {d : Dir} (ht : charge s n pa k d = some t) : MemInv t :=
  memInv_chargeDies h ht
theorem memInv_xlate {s : State} (h : MemInv s) (n : Nat) (pins : List TlbEntry) (va : Nat) : MemInv (xlate s n pins va).1 := by
  unfold xlate
  split
  · exact h
  · dsimp only
    have hs : ∀ b : Bool, MemInv (if b = true then s else s.bumpFree) := by
      intro b; cases b
      · exact memInv_same h rfl rfl rfl
      · exact h
    split
    · exact memInv_walkAdd (memInv_tlbAdd (hs _) ..) ..
    · exact hs _
theorem memInv_resolve {s : State} (h : MemInv s) (w : Who) (pins : List TlbEntry) (sp : BitVec 2) (ea : DWord) (n : Nat) (k : Kind) :
    MemInv (resolve s w pins sp ea n k).1 := by
  unfold resolve
  split
  · exact h
  · split
    · exact h
    · split
      · exact h
      · dsimp only
        have hx := memInv_xlate (memInv_watchCheck h w (ea.extractLsb' 0 56).toNat n k.reads k.writes) w.core pins (ea.extractLsb' 0 56).toNat
        split
        · next e => rw [e] at hx; exact hx
        · next e => rw [e] at hx; exact memInv_ringAppend hx ..
        · next e => rw [e] at hx; exact hx
        · next e =>
          rw [e] at hx
          split
          · exact memInv_ringAppend hx ..
          · exact hx
          · exact hx
theorem memInv_locWrite {s : State} (h : MemInv s) (w : Who) (l : Loc) (n v : Nat) : MemInv (locWrite s w l n v) := by
  cases l with
  | phys pa e =>
    have hm : MemInv { s with mem := memWr s.mem pa n v } := memInv_writeMem h ..
    have hp : MemInv (if n = 32 then clearPoison { s with mem := memWr s.mem pa n v } pa else { s with mem := memWr s.mem pa n v }) := by
      split
      · exact memInv_clearPoison hm pa
      · exact hm
    unfold locWrite
    refine memInv_setCoreN hp ?_
    have := h.2.2 w.core
    by_cases hs : w.src = 0 <;> simpa [hs, Core.updVec, Core.updCtl] using this
  | spad k a => exact memInv_setClu h (Mem.wf_memWr (h.2.1 k) ..)
  | tcm c a => exact memInv_updN h (Mem.wf_memWr (h.2.2 c) ..)

/-- A load keeps the canonical form of every memory. -/
theorem memInv_loadAt {s : State} (h : MemInv s) (w : Who) (pins : List TlbEntry) (sp : BitVec 2) (ea : DWord) (n : Nat) (k : Kind) :
    MemInv (loadAt s w pins sp ea n k).1 := by
  have hr := memInv_resolve h w pins sp ea n k
  unfold loadAt
  split
  · next e => rw [e] at hr; exact hr
  · next e =>
    rw [e] at hr
    split
    · split
      · exact hr
      · next hc =>
        have hc := memInv_charge hr hc
        split
        · exact memInv_ringAppend hc ..
        · split
          · exact hc
          · split
            · exact memInv_ringAppend hc ..
            · exact hc
    · split
      · exact memInv_ringAppend hr ..
      · exact hr

/-- A store keeps the canonical form of every memory. -/
theorem memInv_storeAt {s : State} (h : MemInv s) (w : Who) (pins : List TlbEntry) (sp : BitVec 2) (ea : DWord) (n : Nat) (k : Kind)
    (f : Nat → Nat) : MemInv (storeAt s w pins sp ea n k f).1 := by
  have hr := memInv_resolve h w pins sp ea n k
  unfold storeAt
  split
  · next e => rw [e] at hr; exact hr
  · next e =>
    rw [e] at hr
    split
    · split
      · exact hr
      · next hc =>
        have hc := memInv_charge hr hc
        split
        · exact memInv_report hc ..
        · split
          · exact memInv_report (memInv_ringAppend hc ..) ..
          · exact memInv_locWrite hc ..
    · exact memInv_locWrite hr ..

/-- An atomic keeps the canonical form of every memory. -/
theorem memInv_amoAt {s : State} (h : MemInv s) (w : Who) (pins : List TlbEntry) (sp : BitVec 2) (ea : DWord) (n : Nat)
    (op : Nat → Option Nat) : MemInv (amoAt s w pins sp ea n op).1 := by
  have hr := memInv_resolve h w pins sp ea n .amo
  have go : ∀ (s : State) (l : Loc), MemInv s →
      MemInv (match op (locRead s l n) with
        | some v => (locWrite s w l n v, Acc.val (locRead s l n) none)
        | none => (s, Acc.val (locRead s l n) none)).1 := by
    intro s l hs
    split
    · exact memInv_locWrite hs ..
    · exact hs
  unfold amoAt
  split
  · next e => rw [e] at hr; exact hr
  · next e =>
    rw [e] at hr
    dsimp only
    split
    · split
      · exact hr
      · next hc =>
        have hc := memInv_charge hr hc
        split
        · exact memInv_ringAppend hc ..
        · split
          · exact memInv_ringAppend hc ..
          · exact go _ _ hc
    · split
      · exact memInv_ringAppend hr ..
      · exact go _ _ hr

theorem memInv_fetchCharge {s t : State} (h : MemInv s) {n : Nat} {v : Bool} {a b : VAddr} {pa : Nat}
    (ht : fetchCharge s n v a b pa = some t) : MemInv t := by
  unfold fetchCharge at ht
  extract_lets _ p at ht
  clear_value p
  split at ht
  · cases ht; exact h
  · simp only [Option.map_eq_some_iff] at ht
    obtain ⟨u, hu, rfl⟩ := ht
    exact memInv_updKeep (memInv_charge h hu) fun c => by cases v <;> rfl

theorem memInv_fetchWord {s : State} (h : MemInv s) (w : Who) (v : Bool) (a va : VAddr) : MemInv (fetchWord s w v a va).1 := by
  have hx := memInv_xlate h w.core [] va.toNat
  unfold fetchWord
  split
  · next e => rw [e] at hx; exact hx
  · next e => rw [e] at hx; exact memInv_ringAppend hx ..
  · next e => rw [e] at hx; exact hx
  · next e =>
    rw [e] at hx
    split
    · exact memInv_ringAppend hx ..
    · exact hx
    · dsimp only
      split
      · exact hx
      · next hc =>
        have hc := memInv_fetchCharge hx hc
        split
        · exact memInv_ringAppend hc ..
        · split <;> exact hc

/-- A command processor's write keeps the canonical form. -/
theorem memInv_cpWrite {s t : State} (h : MemInv s) {die : Nat} {asid : BitVec 10} {va n v : Nat}
    (ht : cpWrite s die asid va n v = some t) : MemInv t := by
  unfold cpWrite at ht
  cases hx : cpXlate s die asid va true with
  | none => rw [hx] at ht; cases ht
  | some pa => rw [hx] at ht; cases ht; exact memInv_writeMem h ..

/-! ### Other writers of memory -/

theorem memInv_denWr {s : State} (h : MemInv s) (a n v : Nat) : MemInv (denWr s a n v) := memInv_writeMem h ..
theorem memInv_trcUnit {s : State} (h : MemInv s) (pa : Nat) (ws : List Nat) :
    MemInv { s with mem := (ws.zip (nats 0 4)).foldl (fun m p => memWr m (pa + 8 * p.2) 8 p.1) s.mem } :=
  memInv_ofMem h (Mem.wf_foldl _ _ (fun _ _ hm => Mem.wf_memWr hm ..) h.1) rfl rfl
theorem memInv_recReset {s : State} (h : MemInv s) (pa : Nat) : MemInv (recReset s pa) :=
  memInv_ofMem h (Mem.wf_memWr (Mem.wf_memWr (Mem.wf_memWr (Mem.wf_memWr h.1 ..) ..) ..) ..) rfl rfl
theorem memInv_recArm {s : State} (h : MemInv s) (pa : Nat) (b : DWord) : MemInv (recArm s pa b) := memInv_writeMem h ..
theorem Mem.wf_marchInit {m : Mem} (h : m.wf) (n : Nat) : (marchInit m n).wf :=
  Mem.wf_memPut (Mem.wf_memPut (Mem.wf_memPut h ..) ..) ..

/-- What a power cut leaves of a core, and what an allotment leaves of a scratchpad. -/
theorem Mem.wf_powerCut (c : Core) : Mem.wf c.powerCut.tcm := rfl
theorem Mem.wf_takeUnits {c : Cluster} (h : Mem.wf c.spad) (b u a : Nat) : Mem.wf (takeUnits c b u a).spad := Mem.wf_filter h _
theorem Mem.wf_startCore {s : State} (h : MemInv s) (g : Nat) (t : Gang) (l : Launch) (n r : Nat) :
    Mem.wf (startCore s g t l n r).tcm := Mem.wf_filter (h.2.2 n) _

/-- The TCM that a load brings back holds bytes of the loaded blocks alone, in canonical form. -/
theorem Mem.wf_loadTcm (s : State) (a blocks : Nat) : (loadTcm s a blocks).wf :=
  Mem.wf_foldl _ _ (fun m b hm => by split <;> [exact Mem.wf_memPut hm ..; exact hm]) Mem.wf_nil
theorem loadTcm_below (s : State) (a blocks : Nat) : ∀ p ∈ loadTcm s a blocks, p.1 < 4096 * blocks := by
  have key : ∀ (l : List Nat) (m : Mem), (∀ b ∈ l, b < blocks) → (∀ p ∈ m, p.1 < 4096 * blocks) →
      ∀ p ∈ l.foldl (fun m b => if bitAt s (a + 0x80) b then
        memPut m (4096 * b) (memBytes s.mem (a + 0x81000 + 4096 * b) 4096) else m) m, p.1 < 4096 * blocks := by
    intro l
    induction l with
    | nil => intro m _ hm; exact hm
    | cons b t ih =>
      intro m hb hm
      refine ih _ (fun x hx => hb x (List.mem_cons_of_mem _ hx)) ?_
      dsimp only
      split
      · intro p hp
        have hbb := hb b List.mem_cons_self
        rcases mem_memPut hp with h | h
        · rw [length_memBytes] at h; omega
        · exact hm p h
      · exact hm
  refine key _ [] (fun b hb => ?_) (by simp)
  simp [nats] at hb; omega

/-! ### Reset -/

/-- The memory after reset lists nothing, in canonical form. -/
theorem reset_mem_wf : Mem.wf State.reset.mem := rfl

end Sys2Proof.Machine
end

