-- ==== Sys2Proof/Laws/Ops.lean ====
section
/-! SUPPORT. One lemma for each shared operation of the control core and of the V-stream: everything it can do. Proofs about
an instruction cite these and do not unfold the operation. -/

namespace Sys2Proof.Machine

open Sys2Proof.Safety

/-! ### When an instruction may act -/

theorem ready_mark {s : State} {h : Hal} (r : Ready s h) : ¬ (s.core.ctl.priv ≠ 0 ∧ h ≠ 0) := by
  rcases r.1 with p | p <;> simp [p]

theorem ready_goes {s : State} {h : Hal} (r : Ready s h) : (!waitsOk s.core 0 h || heldBack s.core 0) = false := by
  obtain ⟨-, r3, r2, r9, r0⟩ := r
  cases h3 : h.getLsbD 3 <;> cases h2 : h.getLsbD 2 <;>
    simp_all [waitsOk, heldBack, hWB, hWA, cWB, cWA, cSB, cSA]

/-- What a scalar instruction does where it may act: the body decides. -/
theorem scalar_ready {i : Instr} {h : Hal} {len : VAddr} {body : State → Res} {s : State} (r : Ready s h) :
    scalar i h len body s =
      match body s with
      | .done t => done s h len t
      | .jump p t => jumped s h p t
      | .wait t => waits h t
      | .trap code tval t => trapped s code tval t
      | .trapAfter code tval t => .next (takeTrap (finish t h (s.core.ctl.pc + len)) s.cur 0 code (s.core.ctl.pc + len) tval none)
      | .report r t => .next (takeTrap t s.cur 5 r.code s.core.ctl.pc r.tval none)
      | .own t => .next t := by
  rw [scalar, if_neg (ready_mark r), ready_goes r, Bool.and_false]
  rfl

theorem scalar_done {i : Instr} {h : Hal} {len : VAddr} {body : State → Res} {s t : State} (r : Ready s h)
    (hb : body s = .done t) : scalar i h len body s = done s h len t := by rw [scalar_ready r, hb]
theorem scalar_jump {i : Instr} {h : Hal} {len p : VAddr} {body : State → Res} {s t : State} (r : Ready s h)
    (hb : body s = .jump p t) : scalar i h len body s = jumped s h p t := by rw [scalar_ready r, hb]
theorem scalar_wait {i : Instr} {h : Hal} {len : VAddr} {body : State → Res} {s t : State} (r : Ready s h)
    (hb : body s = .wait t) : scalar i h len body s = waits h t := by rw [scalar_ready r, hb]
theorem scalar_trap {i : Instr} {h : Hal} {len : VAddr} {body : State → Res} {s t : State} {c : BitVec 8} {v : DWord}
    (r : Ready s h) (hb : body s = .trap c v t) : scalar i h len body s = trapped s c v t := by rw [scalar_ready r, hb]
theorem scalar_own {i : Instr} {h : Hal} {len : VAddr} {body : State → Res} {s t : State} (r : Ready s h)
    (hb : body s = .own t) : scalar i h len body s = .next t := by rw [scalar_ready r, hb]

/-- A mark above task privilege is an illegal instruction (R356). -/
theorem scalar_mark {i : Instr} {h : Hal} {len : VAddr} {body : State → Res} {s : State} (hp : s.core.ctl.priv ≠ 0) (hh : h ≠ 0) :
    scalar i h len body s = .next (takeTrap s s.cur 0 0x01 s.core.ctl.pc (encWord i) none) := by
  rw [scalar, if_pos ⟨hp, hh⟩]

/-- An unsatisfied wait stalls an instruction that has taken none. -/
theorem scalar_stall {i : Instr} {h : Hal} {len : VAddr} {body : State → Res} {s : State}
    (hp : ¬ (s.core.ctl.priv ≠ 0 ∧ h ≠ 0)) (ht : s.core.ctl.took = none) (hw : waitsOk s.core 0 h = false) :
    scalar i h len body s = .next (stall s) := by
  rw [scalar, if_neg hp]; simp [ht, hw]

/-- A scalar instruction always answers a next state. -/
theorem scalar_next (i : Instr) (h : Hal) (len : VAddr) (body : State → Res) (s : State) : ∃ t, scalar i h len body s = .next t := by
  unfold scalar; dsimp only
  split
  · exact ⟨_, rfl⟩
  · split
    · exact ⟨_, rfl⟩
    · split <;> exact ⟨_, rfl⟩

theorem regOp_ready {i : Instr} {h : Hal} {len : VAddr} {d : Reg} {v : Core → DWord} {s : State} (r : Ready s h) :
    regOp i h len d v s = done s h len (wrote s d (v s.core)) := by
  rw [regOp, scalar_ready r]; rfl
theorem regOp_next (i : Instr) (h : Hal) (len : VAddr) (d : Reg) (v : Core → DWord) (s : State) : ∃ t, regOp i h len d v s = .next t :=
  scalar_next ..

/-- A system instruction at task privilege traps before anything else (R367). -/
theorem sysOp_task {i : Instr} {h : Hal} {body : State → Res} {s : State} (hp : s.core.ctl.priv = 0) :
    sysOp i h body s = trapped s 0x08 (encWord i) s := by rw [sysOp, if_pos hp]; rfl
theorem sysOp_above {i : Instr} {h : Hal} {body : State → Res} {s : State} (hp : s.core.ctl.priv ≠ 0) :
    sysOp i h body s = scalar i h 4 body s := by rw [sysOp, if_neg hp]
theorem sysOp_next (i : Instr) (h : Hal) (body : State → Res) (s : State) : ∃ t, sysOp i h body s = .next t := by
  unfold sysOp; split
  · exact ⟨_, rfl⟩
  · exact scalar_next ..

/-! ### Posting -/

theorem post_posted {i : Instr} {h : Hal} {e : Nat} {d a b : Reg} {checks : State → DWord → DWord → DWord → DWord → Check250} {s : State}
    (hp : s.core.ctl.priv = 0 ∨ h = 0) (hc : checks s (reg s d) (reg s a) (reg s b) (reg s (a + 1)) = none)
    (hb : heldBack s.core 0 = false) (hq : (queueOf s.core e).length < queueCap e) :
    post i h e d a b checks s = .next (posted s i e d a b) := by
  have hm : ¬ (s.core.ctl.priv ≠ 0 ∧ h ≠ 0) := by rcases hp with p | p <;> simp [p]
  simp only [reg] at hc
  simp only [post, if_neg hm, hc, hb, Bool.false_or]
  rw [if_neg (by simpa using hq)]
  rfl

theorem post_trap {i : Instr} {h : Hal} {e : Nat} {d a b : Reg} {checks : State → DWord → DWord → DWord → DWord → Check250} {s : State}
    {code : BitVec 8} {v : DWord} (hp : s.core.ctl.priv = 0 ∨ h = 0)
    (hc : checks s (reg s d) (reg s a) (reg s b) (reg s (a + 1)) = some (code, v)) :
    post i h e d a b checks s = trapped s code v s := by
  have hm : ¬ (s.core.ctl.priv ≠ 0 ∧ h ≠ 0) := by rcases hp with p | p <;> simp [p]
  simp only [reg] at hc
  simp only [post, if_neg hm, hc]
  rfl

theorem post_next (i : Instr) (h : Hal) (e : Nat) (d a b : Reg) (checks : State → DWord → DWord → DWord → DWord → Check250)
    (s : State) : ∃ t, post i h e d a b checks s = .next t := by
  unfold post; dsimp only
  split
  · exact ⟨_, rfl⟩
  · split
    · exact ⟨_, rfl⟩
    · split <;> exact ⟨_, rfl⟩

/-! ### Members of a convoy -/

theorem member_run {i : Instr} {body : State → Convoy → State × Convoy} {s : State} {cv : Convoy} (h : Running s i cv) :
    member i body s = .next ((body s cv).1.upd fun c => c.updVec fun v =>
      { v with cv := some { (body s cv).2 with todo := (body s cv).2.todo.tail } }) := by
  rw [member, h.1]; simp only [h.2, if_true]

theorem coreMember_run {i : Instr} {body : Core → Convoy → Core × Convoy} {s : State} {cv : Convoy} (h : Running s i cv) :
    coreMember i body s = ran s (body s.core cv).1 (body s.core cv).2 := by
  rw [coreMember, member_run h]; rfl

theorem setCore_core (s : State) (c : Core) : (s.setCore c).core = c := by
  simp [State.core, State.coreN, State.setCore, State.setCoreN]
theorem setCore_upd (s : State) (c : Core) (f : Core → Core) : (s.setCore c).upd f = s.setCore (f c) := by
  show (s.setCore c).setCoreN s.cur (f (s.setCore c).core) = _
  rw [setCore_core]; simp [State.setCore, State.setCoreN]
/-- A member that runs goes on from the state and the convoy that its body gives. -/
theorem member_ran {i : Instr} {body : State → Convoy → State × Convoy} {s : State} {cv : Convoy} (h : Running s i cv) :
    member i body s = ran (body s cv).1 (body s cv).1.core (body s cv).2 := by
  rw [member_run h, ran, setCore_upd]; rfl

/-- The free order of a list is some order of it, and costs no more than choices. -/
theorem shuffle_perm (k : Nat) (s : State) (l acc : List (Nat × Nat)) :
    (shuffle k s l acc).2.Perm (acc ++ l) ∧ { (shuffle k s l acc).1 with free := s.free } = s := by
  induction k generalizing s l acc with
  | zero => exact ⟨.refl _, rfl⟩
  | succ k ih =>
    unfold shuffle
    split
    · exact ⟨.refl _, rfl⟩
    · have hj : s.pick l.length < l.length := Nat.mod_lt _ (by omega)
      obtain ⟨h1, h2⟩ := ih s.bumpFree (l.eraseIdx (s.pick l.length)) (acc ++ [l.getD (s.pick l.length) (0, 0)])
      refine ⟨h1.trans ?_, congrArg (fun t : State => { t with free := s.free }) h2⟩
      rw [List.append_assoc, List.getD_eq_getElem _ _ hj]
      exact (List.getElem_cons_eraseIdx_perm hj).append_left _

/-- A member that is not the next to run changes nothing. -/
theorem member_idle {i : Instr} {body : State → Convoy → State × Convoy} {s : State} (h : ∀ cv, ¬ Running s i cv) :
    member i body s = .next s := by
  unfold member
  split
  · next cv hc => rw [if_neg fun ht => h cv ⟨hc, ht⟩]
  · rfl

theorem member_next (i : Instr) (body : State → Convoy → State × Convoy) (s : State) : ∃ t, member i body s = .next t := by
  unfold member
  split
  · split <;> exact ⟨_, rfl⟩
  · exact ⟨_, rfl⟩
theorem coreMember_next (i : Instr) (body : Core → Convoy → Core × Convoy) (s : State) : ∃ t, coreMember i body s = .next t :=
  member_next ..
theorem vPort_next (i : Instr) (f : VF) (op : VMem) (k : Kind) (s : State) : ∃ t, vPort i f op k s = .next t := by
  unfold vPort
  split
  · split
    · have : ∃ t, vMem i f op (portArg f k) s = .next t := member_next ..
      obtain ⟨t, h⟩ := this
      rw [h]; exact ⟨_, rfl⟩
    · exact ⟨_, rfl⟩
  · exact ⟨_, rfl⟩

/-! ### Events -/

theorem event_due {ok : Bool} {f : State → State} {s : State} (h : ok = true) : event ok f s = .next (f s) := by simp [event, h]
theorem event_idle {ok : Bool} {f : State → State} {s : State} (h : ok = false) : event ok f s = .next s := by simp [event, h]
theorem event_next (ok : Bool) (f : State → State) (s : State) : ∃ t, event ok f s = .next t := ⟨_, rfl⟩

/-! ### Registers, completion, traps -/

theorem reg_zero (s : State) : reg s 0 = 0 := rfl
theorem wrote_zero_core (s : State) (v : DWord) : (wrote s 0 v).core = s.core := by
  simp [wrote, State.upd, State.updN, State.core, State.setCoreN, State.coreN, regSet]

theorem wakePause_pc (k : DWord) (c : Core) : (wakePause k c).ctl.pc = c.ctl.pc := by unfold wakePause; split <;> rfl
theorem bump_pc (c : Core) (x : Nat) : (bump c x).ctl.pc = c.ctl.pc := by unfold bump; split <;> rfl
theorem signalOne_pc (k : DWord) (c : Core) (x : Nat) : (signalOne k c x).ctl.pc = c.ctl.pc := by
  rw [signalOne, bump_pc]; split
  · exact wakePause_pc k c
  · rfl
theorem signal_pc (k : DWord) (c : Core) (e : Nat) (h : Hal) : (signal k c e h).ctl.pc = c.ctl.pc := by
  cases h1 : hSB h <;> cases h2 : hSA h <;> simp [signal, h1, h2, signalOne_pc]
theorem takeOne_pc (c : Core) (x : Nat) : (takeOne c x).ctl.pc = c.ctl.pc := by unfold takeOne; split <;> rfl
theorem takeWaits_pc (c : Core) (e : Nat) (h : Hal) : (takeWaits c e h).ctl.pc = c.ctl.pc := by
  cases h1 : hWB h <;> cases h2 : hWA h <;> simp [takeWaits, h1, h2, takeOne_pc]

theorem takeOnce_pc (c : Core) (h : Hal) : (takeOnce c h).ctl.pc = c.ctl.pc := by
  unfold takeOnce; split
  · rfl
  · exact takeWaits_pc c 0 h

theorem tookDone_pc (c : Core) : (tookDone c).ctl.pc = c.ctl.pc := by unfold tookDone; split <;> rfl

/-- The PC after an instruction. -/
theorem finish_pc (s : State) (h : Hal) (p : VAddr) : (finish s h p).core.ctl.pc = p := by
  have := takeOnce_pc (setPc s.core p) h
  simp_all [finish, tookDone_pc, State.upd, State.updN, State.core, State.setCoreN, State.coreN, signal_pc, setPc, Core.updCtl]

/-- The entry of a trap from task privilege (R364). -/
theorem takeTrap_task {s : State} {n : Nat} {src : BitVec 3} {code : BitVec 8} {epc : VAddr} {tval : DWord} {pf : Option DWord}
    (h : (s.coreN n).ctl.priv = 0) : takeTrap s n src code epc tval pf =
      trace (s.updN n fun c => enterTrap c src code epc tval pf) 0x03 n epc 0 (src.toNat * 2 ^ 16 + code.toNat) := by
  rw [takeTrap]; simp [h]

end Sys2Proof.Machine
end

