-- ==== Sys2Proof/Tests/Slice0.lean ====
section
/-! SUPPORT. Tests: words written out from the encoding tables of the spec and what they decode to, ill-formed instructions, and
single steps on small states. Every expected value is from the tables, the examples or the rules of spec/, worked by hand. -/

namespace Sys2Proof.Tests

set_option Elab.async false

open Sys2Proof Sys2Proof.Machine

/-! ### One word, or pair of words, for each instruction of either stream, its fields written out from the tables named -/

/-- R175, R188. -/
theorem test_decode_int_a :
    decodeC 0x904546A0 0x00000000 = some (.add 9 5 17 42) ∧
    decodeC 0x904546A1 0x00000000 = some (.sub 9 5 17 42) ∧
    decodeC 0x904546A2 0x00000000 = some (.mul 9 5 17 42) ∧
    decodeC 0x904546A3 0x00000000 = some (.mulh 9 5 17 42) ∧
    decodeC 0x904546A4 0x00000000 = some (.mulhn 9 5 17 42) ∧
    decodeC 0x904546A5 0x00000000 = some (.div 9 5 17 42) ∧
    decodeC 0x904546A6 0x00000000 = some (.divn 9 5 17 42) ∧
    decodeC 0x904546A7 0x00000000 = some (.rem 9 5 17 42) ∧
    decodeC 0x904546A8 0x00000000 = some (.remn 9 5 17 42) ∧
    decodeC 0x904546A9 0x00000000 = some (.and 9 5 17 42) ∧
    decodeC 0x904546AA 0x00000000 = some (.or 9 5 17 42) ∧
    decodeC 0x904546AB 0x00000000 = some (.xor 9 5 17 42) ∧
    decodeC 0x904546AC 0x00000000 = some (.sll 9 5 17 42) ∧
    decodeC 0x904546AD 0x00000000 = some (.srl 9 5 17 42) ∧
    decodeC 0x904546AE 0x00000000 = some (.sra 9 5 17 42) ∧
    decodeC 0x904546AF 0x00000000 = some (.slt 9 5 17 42) := by
  decide +kernel

/-- R188. -/
theorem test_decode_int_b :
    decodeC 0x908546A0 0x00000000 = some (.sltn 9 5 17 42) ∧
    decodeC 0x908546A1 0x00000000 = some (.min 9 5 17 42) ∧
    decodeC 0x908546A2 0x00000000 = some (.max 9 5 17 42) ∧
    decodeC 0x908546A3 0x00000000 = some (.minn 9 5 17 42) ∧
    decodeC 0x908546A4 0x00000000 = some (.maxn 9 5 17 42) ∧
    decodeC 0x90854405 0x00000000 = some (.clz 9 5 17) ∧
    decodeC 0x90854406 0x00000000 = some (.ctz 9 5 17) ∧
    decodeC 0x90854407 0x00000000 = some (.popc 9 5 17) := by
  decide +kernel

/-- R188. -/
theorem test_decode_ptr_float :
    decodeC 0x90C546A0 0x00000000 = some (.adda 9 5 17 42) ∧
    decodeC 0x90C546A1 0x00000000 = some (.tagset 9 5 17 42) ∧
    decodeC 0x90C54402 0x00000000 = some (.tagget 9 5 17) ∧
    decodeC 0x910546A0 0x00000000 = some (.fadd 9 5 17 42) ∧
    decodeC 0x910546A1 0x00000000 = some (.fmul 9 5 17 42) ∧
    decodeC 0x910546A2 0x00000000 = some (.fmin 9 5 17 42) ∧
    decodeC 0x910546A3 0x00000000 = some (.fmax 9 5 17 42) ∧
    decodeC 0x910546A4 0x00000000 = some (.fcmpEq 9 5 17 42) ∧
    decodeC 0x910546A5 0x00000000 = some (.fcmpLt 9 5 17 42) ∧
    decodeC 0x910546A6 0x00000000 = some (.fcmpLe 9 5 17 42) := by
  decide +kernel

/-- R188. -/
theorem test_decode_sync :
    decodeC 0x914044B0 0x00000000 = some (.barinit 9 17 11) ∧
    decodeC 0x914544B1 0x00000000 = some (.barinitCad 9 5 17 11) ∧
    decodeC 0x914000B2 0x00000000 = some (.bararr 9 11) ∧
    decodeC 0x914000B3 0x00000000 = some (.barwait 9 11) ∧
    decodeC 0x914000B4 0x00000000 = some (.pend 9 11) ∧
    decodeC 0x914000B5 0x00000000 = some (.pendCad 9 11) ∧
    decodeC 0x914001B6 0x00000000 = some (.tkwait 9 27) ∧
    decodeC 0x914501B7 0x00000000 = some (.tkpoll 9 5 27) ∧
    decodeC 0x91804400 0x00000000 = some (.vstart 9 17) ∧
    decodeC 0x91804401 0x00000000 = some (.vpush 9 17) ∧
    decodeC 0x91850002 0x00000000 = some (.vpop 9 5) ∧
    decodeC 0x91800003 0x00000000 = some (.vsync 9) ∧
    decodeC 0x919400B4 0x00000000 = some (.inpop 9 20 11) ∧
    decodeC 0x918500B5 0x00000000 = some (.inpeek 9 5 11) ∧
    decodeC 0x918046A6 0x00000000 = some (.aiset 9 17 42) ∧
    decodeC 0x91800007 0x00000000 = some (.aret 9) ∧
    decodeC 0x91C00000 0x00000000 = some (.ecall 9) ∧
    decodeC 0x91C00001 0x00000000 = some (.ebreak 9) ∧
    decodeC 0x91C00002 0x00000000 = some (.pause 9) := by
  decide +kernel

/-- R175, R189. -/
theorem test_decode_imm :
    decodeC 0x920546A5 0x00000000 = some (.addi 9 5 17 0x2A5) ∧
    decodeC 0x924546A5 0x00000000 = some (.andi 9 5 17 0x2A5) ∧
    decodeC 0x928546A5 0x00000000 = some (.ori 9 5 17 0x2A5) ∧
    decodeC 0x92C546A5 0x00000000 = some (.xori 9 5 17 0x2A5) ∧
    decodeC 0x93054425 0x00000000 = some (.slli 9 5 17 0x25) ∧
    decodeC 0x93454425 0x00000000 = some (.srli 9 5 17 0x25) ∧
    decodeC 0x93854425 0x00000000 = some (.srai 9 5 17 0x25) ∧
    decodeC 0x93C546A5 0x00000000 = some (.slti 9 5 17 0x2A5) ∧
    decodeC 0x940545CC 0x00000000 = some (.fcvt 9 5 17 3 4 6) ∧
    decodeC 0x94454665 0x00000000 = some (.ld 9 5 17 2 1 0x25) ∧
    decodeC 0x94854665 0x00000000 = some (.ldn 9 5 17 2 1 0x25) ∧
    decodeC 0x94C54665 0x00000000 = some (.st 9 5 17 2 1 0x25) ∧
    decodeC 0x950546A5 0x00000000 = some (.jalr 9 5 17 0x2A5) ∧
    decodeC 0x954546A5 0x00000000 = some (.lpset 9 5 17 0x2A5) ∧
    decodeC 0x95850003 0x00000000 = some (.lpidx 9 5 3) ∧
    decodeC 0x95C00004 0x00000000 = some (.fence 9 4) ∧
    decodeC 0x96050140 0x00000000 = some (.kget 9 5 0x140) ∧
    decodeC 0x96404540 0x00000000 = some (.kset 9 17 0x140) ∧
    decodeC 0x96804540 0x00000000 = some (.kbis 9 17 0x140) ∧
    decodeC 0x96C04540 0x00000000 = some (.kbic 9 17 0x140) := by
  decide +kernel

/-- R175, R187. -/
theorem test_decode_branch :
    decodeC 0x9705A5C3 0x00000000 = some (.li 9 5 0xA5C3) ∧
    decodeC 0x9745A5C3 0x00000000 = some (.lis 9 5 0xA5C3) ∧
    decodeC 0x9785A5C3 0x00000000 = some (.jal 9 5 0xA5C3) ∧
    decodeC 0x980546A5 0x00000000 = some (.beq 9 5 17 0x2A5) ∧
    decodeC 0x984546A5 0x00000000 = some (.bne 9 5 17 0x2A5) ∧
    decodeC 0x988546A5 0x00000000 = some (.blt 9 5 17 0x2A5) ∧
    decodeC 0x98C546A5 0x00000000 = some (.bge 9 5 17 0x2A5) ∧
    decodeC 0x990546A5 0x00000000 = some (.bltn 9 5 17 0x2A5) ∧
    decodeC 0x994546A5 0x00000000 = some (.bgen 9 5 17 0x2A5) ∧
    decodeC 0x998502A5 0x00000000 = some (.lpend 9 5 0x2A5) := by
  decide +kernel

/-- R188, R190. -/
theorem test_decode_ordered :
    decodeC 0x99C546A0 0x07358155 = some (.amo 9 5 17 42 11 ⟨3, true, false, 1, 2, 0x155⟩) ∧
    decodeC 0x99C546A1 0x06981355 = some (.amocas 9 5 17 42 9 ⟨3, false, true, 0, 3, 0x155⟩) ∧
    decodeC 0x99C046A2 0x03500155 = some (.waitge 9 17 42 ⟨1, true, false, 2, 2, 0x155⟩) ∧
    decodeC 0x99C54403 0x09280155 = some (.ldOrdered 9 5 17 ⟨4, true, false, 1, 1, 0x155⟩) ∧
    decodeC 0x99C54404 0x00600155 = some (.ldnOrdered 9 5 17 ⟨0, false, false, 3, 0, 0x155⟩) ∧
    decodeC 0x99C54405 0x04980155 = some (.stOrdered 9 5 17 ⟨2, false, true, 0, 3, 0x155⟩) := by
  decide +kernel

/-- R256 to R267. -/
theorem test_decode_stream :
    decodeC 0x9A0046A0 0x0D900000 = some (.qbase 9 17 42 13 2 1) ∧
    decodeC 0x9A0546A1 0x0DA00000 = some (.qdim 9 5 17 42 13 2 true) ∧
    decodeC 0x9A004402 0x0DA80000 = some (.qfmt 9 17 13 10 2) ∧
    decodeC 0x9A004403 0x0D000000 = some (.qstart 9 17 13) ∧
    decodeC 0x9A000004 0x0D000000 = some (.qstop 9 13) ∧
    decodeC 0x9A004405 0x0DB60000 = some (.qstat 9 17 13 2 27) ∧
    decodeC 0x9A004406 0x03757000 = some (.qfill 9 17 (.stream 13) (.rank 21) 3 4) ∧
    decodeC 0x9A004407 0x0DA50000 = some (.qrow 9 17 13 0xA5) ∧
    decodeC 0x9A004408 0x0D6ABB6E = some (.qstore 9 17 13 true 0x155 true 2 27 3 true) ∧
    decodeC 0x9A404400 0x03680000 = some (.gupd 9 17 3 6 2) ∧
    decodeC 0x9A400001 0x0A53C000 = some (.gclr 9 0xA5 0x3C) ∧
    decodeC 0x9A400002 0x0A53C000 = some (.gdone 9 0xA5 0x3C) ∧
    decodeC 0x9A400003 0x0AADA000 = some (.glim 9 0x155 0x5A) ∧
    decodeC 0x9A400004 0x00000000 = some (.gchk 9) := by
  decide +kernel

/-- R268. -/
theorem test_decode_copy :
    decodeC 0x9A8546A0 0x0DA69F6D = some (.xcopy 9 5 17 42 ⟨27, 9, 20, 31, 3, 1, 2, true⟩) ∧
    decodeC 0x9A8546A1 0x0DA69F69 = some (.xfill 9 5 17 42 ⟨27, 9, 20, 31, 3, 1, 0, true⟩) ∧
    decodeC 0x9A8546A2 0x0DA69F60 = some (.xtag 9 5 17 42 ⟨27, 9, 20, 31, 3, 0, 0, false⟩) ∧
    decodeC 0x9A8546A3 0x0DA69F68 = some (.xtagrd 9 5 17 42 ⟨27, 9, 20, 31, 3, 1, 0, false⟩) ∧
    decodeC 0x9A854AA4 0x0DA69F6D = some (.xgath 9 5 18 42 ⟨27, 9, 20, 31, 3, 1, 2, true⟩) ∧
    decodeC 0x9A854AA5 0x0DA69F6D = some (.xscat 9 5 18 42 ⟨27, 9, 20, 31, 3, 1, 2, true⟩) ∧
    decodeC 0x9A854AA6 0x0DA69F6D = some (.xsadd 9 5 18 42 ⟨27, 9, 20, 31, 3, 1, 2, true⟩) ∧
    decodeC 0x9A854AA7 0x0DA69F73 = some (.xbcast 9 5 18 42 ⟨27, 9, 20, 31, 3, 2, 1, true⟩) ∧
    decodeC 0x9A8546A8 0x0DA69F6D = some (.xred 9 5 17 42 ⟨27, 9, 20, 31, 3, 1, 2, true⟩) ∧
    decodeC 0x9A8546A9 0x0DA69F65 = some (.xenq 9 5 17 42 ⟨27, 9, 20, 31, 3, 0, 2, true⟩) ∧
    decodeC 0x9A8046AA 0x0DA69F60 = some (.xpref 9 17 42 ⟨27, 9, 20, 31, 3, 0, 0, false⟩) := by
  decide +kernel

/-- R278 to R282, R367. -/
theorem test_decode_system :
    decodeC 0x9AC04400 0x0D000000 = some (.stbind 9 17 13) ∧
    decodeC 0x9AC00001 0x08000000 = some (.stflush 9 0 true) ∧
    decodeC 0x9AC046A2 0x08000000 = some (.stread 9 17 42 2) ∧
    decodeC 0x9AC046A3 0x04000000 = some (.streset 9 17 42 1) ∧
    decodeC 0x9AC046A4 0x00000000 = some (.starm 9 17 42) ∧
    decodeC 0x9FC00000 0x00000000 = some (.eret 9) ∧
    decodeC 0x9FC00001 0x00000000 = some (.wfi 9) ∧
    decodeC 0x9FC346A2 0x00000000 = some (.tlbinv 9 3 17 42) ∧
    decodeC 0x9FC24403 0x00000000 = some (.tlbflush 9 2 17) ∧
    decodeC 0x9FC046A4 0x00000000 = some (.ctxsave 9 17 42) ∧
    decodeC 0x9FC04405 0x00000000 = some (.ctxload 9 17) ∧
    decodeC 0x9FC50006 0x00000000 = some (.ctxwait 9 5) ∧
    decodeC 0x9FC046A7 0x00000000 = some (.halt 9 17 42) := by
  decide +kernel

/-- R178 to R182, R192. -/
theorem test_decode_v_arith :
    decodeV 0x904C1A00 0x0C0F8259 = some (.vsetvl ⟨9, .ereg 13, none, .ereg 7, .ereg 9, false, false, true⟩) ∧
    decodeV 0x905DFE00 0x0A954659 = some (.vsetvli ⟨9, .absent, none, .absent, .absent, false, false, true⟩ 0x2A55 0b011001) ∧
    decodeV 0x90B1915E 0x06814B2D = some (.vadd 3 ⟨9, .view (.row 200), (some ⟨(.col 350), true⟩), .view (.col 320), .view (.diag 300), true, false, true⟩) ∧
    decodeV 0x90F1915E 0x06814B2D = some (.vsub 3 ⟨9, .view (.row 200), (some ⟨(.col 350), true⟩), .view (.col 320), .view (.diag 300), true, false, true⟩) ∧
    decodeV 0x9131915E 0x06814B2D = some (.vmul 3 ⟨9, .view (.row 200), (some ⟨(.col 350), true⟩), .view (.col 320), .view (.diag 300), true, false, true⟩) ∧
    decodeV 0x9151915E 0x06814B2D = some (.vfma 1 ⟨9, .view (.row 200), (some ⟨(.col 350), true⟩), .view (.col 320), .view (.diag 300), true, false, true⟩) ∧
    decodeV 0x91B1915E 0x06814B2D = some (.vmin 3 ⟨9, .view (.row 200), (some ⟨(.col 350), true⟩), .view (.col 320), .view (.diag 300), true, false, true⟩) ∧
    decodeV 0x91F1915E 0x06814B2D = some (.vmax 3 ⟨9, .view (.row 200), (some ⟨(.col 350), true⟩), .view (.col 320), .view (.diag 300), true, false, true⟩) ∧
    decodeV 0x92268081 0x0C3DBFD2 = some (.vabs 2 ⟨9, .view (.col 320), (some ⟨(.diag 129), false⟩), .port 14, .absent, false, true, false⟩) ∧
    decodeV 0x92668081 0x0C3DBFD2 = some (.vneg 2 ⟨9, .view (.col 320), (some ⟨(.diag 129), false⟩), .port 14, .absent, false, true, false⟩) ∧
    decodeV 0x929A58FA 0x0191BFE1 = some (.vrcp 1 ⟨9, .view (.diag 300), (some ⟨(.row 250), true⟩), .view (.row 200), .absent, false, false, true⟩) ∧
    decodeV 0x92DA58FA 0x0191BFE1 = some (.vrsqrt 1 ⟨9, .view (.diag 300), (some ⟨(.row 250), true⟩), .view (.row 200), .absent, false, false, true⟩) ∧
    decodeV 0x931A58FA 0x0191BFE1 = some (.vsqrt 1 ⟨9, .view (.diag 300), (some ⟨(.row 250), true⟩), .view (.row 200), .absent, false, false, true⟩) ∧
    decodeV 0x935A58FA 0x0191BFE1 = some (.vexp2 1 ⟨9, .view (.diag 300), (some ⟨(.row 250), true⟩), .view (.row 200), .absent, false, false, true⟩) ∧
    decodeV 0x939A58FA 0x0191BFE1 = some (.vlog2 1 ⟨9, .view (.diag 300), (some ⟨(.row 250), true⟩), .view (.row 200), .absent, false, false, true⟩) ∧
    decodeV 0x93DA58FA 0x0191BFE1 = some (.vsig 1 ⟨9, .view (.diag 300), (some ⟨(.row 250), true⟩), .view (.row 200), .absent, false, false, true⟩) ∧
    decodeV 0x941A58FA 0x0191BFE1 = some (.vtanh 1 ⟨9, .view (.diag 300), (some ⟨(.row 250), true⟩), .view (.row 200), .absent, false, false, true⟩) ∧
    decodeV 0x945A58FA 0x0191BFE1 = some (.vsilu 1 ⟨9, .view (.diag 300), (some ⟨(.row 250), true⟩), .view (.row 200), .absent, false, false, true⟩) := by
  decide +kernel

/-- R178 to R182, R192. -/
theorem test_decode_v_element :
    decodeV 0x9481915E 0x0681836A = some (.vsel ⟨9, .view (.row 200), (some ⟨(.col 350), true⟩), .view (.col 320), .ereg 13, false, true, false⟩) ∧
    decodeV 0x94C19000 0x0681E95A = some (.vand ⟨9, .view (.row 200), none, .view (.col 320), .imm 165, false, true, false⟩) ∧
    decodeV 0x95019000 0x0681E95A = some (.vor ⟨9, .view (.row 200), none, .view (.col 320), .imm 165, false, true, false⟩) ∧
    decodeV 0x95419000 0x0681E95A = some (.vxor ⟨9, .view (.row 200), none, .view (.col 320), .imm 165, false, true, false⟩) ∧
    decodeV 0x95819081 0x0681E956 = some (.vshl ⟨9, .view (.row 200), (some ⟨(.diag 129), false⟩), .view (.col 320), .imm 165, true, true, false⟩) ∧
    decodeV 0x95919081 0x0681E956 = some (.vshr ⟨9, .view (.row 200), (some ⟨(.diag 129), false⟩), .view (.col 320), .imm 165, true, true, false⟩) ∧
    decodeV 0x95A19081 0x0681E956 = some (.vsra ⟨9, .view (.row 200), (some ⟨(.diag 129), false⟩), .view (.col 320), .imm 165, true, true, false⟩) ∧
    decodeV 0x95C19000 0x06814B1B = some (.vcmpEq 0 ⟨9, .view (.row 200), none, .view (.col 320), .view (.diag 300), false, true, true⟩) ∧
    decodeV 0x96119000 0x06814B1B = some (.vcmpLt 1 ⟨9, .view (.row 200), none, .view (.col 320), .view (.diag 300), false, true, true⟩) ∧
    decodeV 0x96619000 0x06814B1B = some (.vcmpLe 2 ⟨9, .view (.row 200), none, .view (.col 320), .view (.diag 300), false, true, true⟩) ∧
    decodeV 0x96B19000 0x06814B1B = some (.vcmpNe 3 ⟨9, .view (.row 200), none, .view (.col 320), .view (.diag 300), false, true, true⟩) ∧
    decodeV 0x96CC1B5E 0x0681BFE9 = some (.vmpop ⟨9, .ereg 13, (some ⟨(.col 350), true⟩), .view (.col 320), .absent, false, false, true⟩) ∧
    decodeV 0x96DC1B5E 0x0681BFE9 = some (.vmfirst ⟨9, .ereg 13, (some ⟨(.col 350), true⟩), .view (.col 320), .absent, false, false, true⟩) ∧
    decodeV 0x9701915E 0x06814B29 = some (.vmlogAnd ⟨9, .view (.row 200), (some ⟨(.col 350), true⟩), .view (.col 320), .view (.diag 300), false, false, true⟩) ∧
    decodeV 0x9711915E 0x06814B29 = some (.vmlogOr ⟨9, .view (.row 200), (some ⟨(.col 350), true⟩), .view (.col 320), .view (.diag 300), false, false, true⟩) ∧
    decodeV 0x9721915E 0x06814B29 = some (.vmlogXor ⟨9, .view (.row 200), (some ⟨(.col 350), true⟩), .view (.col 320), .view (.diag 300), false, false, true⟩) ∧
    decodeV 0x9731915E 0x06814B29 = some (.vmlogAndn ⟨9, .view (.row 200), (some ⟨(.col 350), true⟩), .view (.col 320), .view (.diag 300), false, false, true⟩) ∧
    decodeV 0x9741915E 0x0681E969 = some (.vcvt ⟨9, .view (.row 200), (some ⟨(.col 350), true⟩), .view (.col 320), .imm 165, false, false, true⟩) ∧
    decodeV 0x9751915E 0x0681E969 = some (.vcvtSat ⟨9, .view (.row 200), (some ⟨(.col 350), true⟩), .view (.col 320), .imm 165, false, false, true⟩) ∧
    decodeV 0x9781915E 0x06818369 = some (.vquant ⟨9, .view (.row 200), (some ⟨(.col 350), true⟩), .view (.col 320), .ereg 13, false, false, true⟩) ∧
    decodeV 0x97C1915E 0x06818369 = some (.vbquant ⟨9, .view (.row 200), (some ⟨(.col 350), true⟩), .view (.col 320), .ereg 13, false, false, true⟩) ∧
    decodeV 0x9801915E 0x06818369 = some (.vdequant ⟨9, .view (.row 200), (some ⟨(.col 350), true⟩), .view (.col 320), .ereg 13, false, false, true⟩) ∧
    decodeV 0x9841915E 0x06818369 = some (.vpack ⟨9, .view (.row 200), (some ⟨(.col 350), true⟩), .view (.col 320), .ereg 13, false, false, true⟩) ∧
    decodeV 0x9881915E 0x06818369 = some (.vunpack ⟨9, .view (.row 200), (some ⟨(.col 350), true⟩), .view (.col 320), .ereg 13, false, false, true⟩) := by
  decide +kernel

/-- R178 to R182, R192. -/
theorem test_decode_v_reduce :
    decodeV 0x98C190FA 0x0A59BFE3 = some (.vredAdd 0 ⟨9, .view (.row 200), (some ⟨(.row 250), true⟩), .view (.diag 300), .absent, false, true, true⟩) ∧
    decodeV 0x98D190FA 0x0A59BFE3 = some (.vredMax 0 ⟨9, .view (.row 200), (some ⟨(.row 250), true⟩), .view (.diag 300), .absent, false, true, true⟩) ∧
    decodeV 0x98E190FA 0x0A59BFE3 = some (.vredMin 0 ⟨9, .view (.row 200), (some ⟨(.row 250), true⟩), .view (.diag 300), .absent, false, true, true⟩) ∧
    decodeV 0x990190FA 0x0A58D023 = some (.vredAdd 1 ⟨9, .view (.row 200), (some ⟨(.row 250), true⟩), .view (.diag 300), .view (.col 320), false, true, true⟩) ∧
    decodeV 0x991190FA 0x0A58D023 = some (.vredMax 1 ⟨9, .view (.row 200), (some ⟨(.row 250), true⟩), .view (.diag 300), .view (.col 320), false, true, true⟩) ∧
    decodeV 0x992190FA 0x0A58D023 = some (.vredMin 1 ⟨9, .view (.row 200), (some ⟨(.row 250), true⟩), .view (.diag 300), .view (.col 320), false, true, true⟩) ∧
    decodeV 0x994190FA 0x0A58D023 = some (.vredAdd 2 ⟨9, .view (.row 200), (some ⟨(.row 250), true⟩), .view (.diag 300), .view (.col 320), false, true, true⟩) ∧
    decodeV 0x995190FA 0x0A58D023 = some (.vredMax 2 ⟨9, .view (.row 200), (some ⟨(.row 250), true⟩), .view (.diag 300), .view (.col 320), false, true, true⟩) ∧
    decodeV 0x996190FA 0x0A58D023 = some (.vredMin 2 ⟨9, .view (.row 200), (some ⟨(.row 250), true⟩), .view (.diag 300), .view (.col 320), false, true, true⟩) ∧
    decodeV 0x99719000 0x0A58D019 = some (.vredMaxn ⟨9, .view (.row 200), none, .view (.diag 300), .view (.col 320), false, false, true⟩) ∧
    decodeV 0x9981915E 0x0A58D02A = some (.vredMinn ⟨9, .view (.row 200), (some ⟨(.col 350), true⟩), .view (.diag 300), .view (.col 320), false, true, false⟩) ∧
    decodeV 0x9991915E 0x0A58D02A = some (.vredAnd ⟨9, .view (.row 200), (some ⟨(.col 350), true⟩), .view (.diag 300), .view (.col 320), false, true, false⟩) ∧
    decodeV 0x99A1915E 0x0A58D02A = some (.vredOr ⟨9, .view (.row 200), (some ⟨(.col 350), true⟩), .view (.diag 300), .view (.col 320), false, true, false⟩) ∧
    decodeV 0x99B1915E 0x0A58D02A = some (.vredXor ⟨9, .view (.row 200), (some ⟨(.col 350), true⟩), .view (.diag 300), .view (.col 320), false, true, false⟩) ∧
    decodeV 0x99C190FA 0x0A59BFE3 = some (.vscanAdd 0 ⟨9, .view (.row 200), (some ⟨(.row 250), true⟩), .view (.diag 300), .absent, false, true, true⟩) ∧
    decodeV 0x99D190FA 0x0A59BFE3 = some (.vscanMax 0 ⟨9, .view (.row 200), (some ⟨(.row 250), true⟩), .view (.diag 300), .absent, false, true, true⟩) ∧
    decodeV 0x99E190FA 0x0A59BFE3 = some (.vscanMin 0 ⟨9, .view (.row 200), (some ⟨(.row 250), true⟩), .view (.diag 300), .absent, false, true, true⟩) ∧
    decodeV 0x9A0190FA 0x0A59BFE3 = some (.vscanAdd 1 ⟨9, .view (.row 200), (some ⟨(.row 250), true⟩), .view (.diag 300), .absent, false, true, true⟩) ∧
    decodeV 0x9A1190FA 0x0A59BFE3 = some (.vscanMax 1 ⟨9, .view (.row 200), (some ⟨(.row 250), true⟩), .view (.diag 300), .absent, false, true, true⟩) ∧
    decodeV 0x9A2190FA 0x0A59BFE3 = some (.vscanMin 1 ⟨9, .view (.row 200), (some ⟨(.row 250), true⟩), .view (.diag 300), .absent, false, true, true⟩) ∧
    decodeV 0x9A4190FA 0x0A59BFE3 = some (.vscanAdd 2 ⟨9, .view (.row 200), (some ⟨(.row 250), true⟩), .view (.diag 300), .absent, false, true, true⟩) ∧
    decodeV 0x9A5190FA 0x0A59BFE3 = some (.vscanMax 2 ⟨9, .view (.row 200), (some ⟨(.row 250), true⟩), .view (.diag 300), .absent, false, true, true⟩) ∧
    decodeV 0x9A6190FA 0x0A59BFE3 = some (.vscanMin 2 ⟨9, .view (.row 200), (some ⟨(.row 250), true⟩), .view (.diag 300), .absent, false, true, true⟩) ∧
    decodeV 0x9A719000 0x0A59BFD9 = some (.vscanMaxn ⟨9, .view (.row 200), none, .view (.diag 300), .absent, false, false, true⟩) ∧
    decodeV 0x9A81915E 0x0A59BFEA = some (.vscanMinn ⟨9, .view (.row 200), (some ⟨(.col 350), true⟩), .view (.diag 300), .absent, false, true, false⟩) ∧
    decodeV 0x9A91915E 0x0A59BFEA = some (.vscanAnd ⟨9, .view (.row 200), (some ⟨(.col 350), true⟩), .view (.diag 300), .absent, false, true, false⟩) ∧
    decodeV 0x9AA1915E 0x0A59BFEA = some (.vscanOr ⟨9, .view (.row 200), (some ⟨(.col 350), true⟩), .view (.diag 300), .absent, false, true, false⟩) ∧
    decodeV 0x9AB1915E 0x0A59BFEA = some (.vscanXor ⟨9, .view (.row 200), (some ⟨(.col 350), true⟩), .view (.diag 300), .absent, false, true, false⟩) := by
  decide +kernel

/-- R178 to R182, R192. -/
theorem test_decode_v_move :
    decodeV 0x9AC190FA 0x0A59BFE3 = some (.vcompress ⟨9, .view (.row 200), (some ⟨(.row 250), true⟩), .view (.diag 300), .absent, false, true, true⟩) ∧
    decodeV 0x9B0190FA 0x0A59BFE7 = some (.vexpand ⟨9, .view (.row 200), (some ⟨(.row 250), true⟩), .view (.diag 300), .absent, true, true, true⟩) ∧
    decodeV 0x9B4190FA 0x0A59E961 = some (.vslideUp ⟨9, .view (.row 200), (some ⟨(.row 250), true⟩), .view (.diag 300), .imm 165, false, false, true⟩) ∧
    decodeV 0x9B5190FA 0x0A598361 = some (.vslideDown ⟨9, .view (.row 200), (some ⟨(.row 250), true⟩), .view (.diag 300), .ereg 13, false, false, true⟩) ∧
    decodeV 0x9B819000 0x0A58D019 = some (.vperm ⟨9, .view (.row 200), none, .view (.diag 300), .view (.col 320), false, false, true⟩) ∧
    decodeV 0x9BC19000 0x0C1BBFD9 = some (.vbcst ⟨9, .view (.row 200), none, .ereg 13, .absent, false, false, true⟩) ∧
    decodeV 0x9C01915E 0x0DFFBFEF = some (.vid ⟨9, .view (.row 200), (some ⟨(.col 350), true⟩), .absent, .absent, true, true, true⟩) ∧
    decodeV 0x9C419000 0x0681BFD9 = some (.vmove ⟨9, .view (.row 200), none, .view (.col 320), .absent, false, false, true⟩) ∧
    decodeV 0x9C819000 0x0DFFBFD9 = some (.vrand ⟨9, .view (.row 200), none, .absent, .absent, false, false, true⟩) ∧
    decodeV 0x9C919000 0x0681BFD9 = some (.vdrop ⟨9, .view (.row 200), none, .view (.col 320), .absent, false, false, true⟩) ∧
    decodeV 0x9CCDFF5E 0x0681C3E9 = some (.vstat ⟨9, .absent, (some ⟨(.col 350), true⟩), .view (.col 320), .imm 15, false, false, true⟩) := by
  decide +kernel

/-- R178 to R182, R192. -/
theorem test_decode_v_memory :
    decodeV 0x9D01915E 0x0C1B80E8 = some (.vld 0 ⟨9, .view (.row 200), (some ⟨(.col 350), true⟩), .ereg 13, .ereg 3, false, false, false⟩) ∧
    decodeV 0x9D51915E 0x0C1B80E8 = some (.vst 1 ⟨9, .view (.row 200), (some ⟨(.col 350), true⟩), .ereg 13, .ereg 3, false, false, false⟩) ∧
    decodeV 0x9DA1915E 0x0C1AD028 = some (.vgath 2 ⟨9, .view (.row 200), (some ⟨(.col 350), true⟩), .ereg 13, .view (.col 320), false, false, false⟩) ∧
    decodeV 0x9DF1915E 0x0C1AD028 = some (.vscat 3 ⟨9, .view (.row 200), (some ⟨(.col 350), true⟩), .ereg 13, .view (.col 320), false, false, false⟩) ∧
    decodeV 0x9E01915E 0x0C1AD028 = some (.vsaddI 0 ⟨9, .view (.row 200), (some ⟨(.col 350), true⟩), .ereg 13, .view (.col 320), false, false, false⟩) ∧
    decodeV 0x9E51915E 0x0C1AD028 = some (.vsaddF 1 ⟨9, .view (.row 200), (some ⟨(.col 350), true⟩), .ereg 13, .view (.col 320), false, false, false⟩) ∧
    decodeV 0x9E819081 0x0C3DBFD7 = some (.vldq ⟨9, .view (.row 200), (some ⟨(.diag 129), false⟩), .port 14, .absent, true, true, true⟩) ∧
    decodeV 0x9E919081 0x0C3DBFD1 = some (.vstq ⟨9, .view (.row 200), (some ⟨(.diag 129), false⟩), .port 14, .absent, false, false, true⟩) := by
  decide +kernel

/-- R178 to R182, R192. -/
theorem test_decode_v_control :
    decodeV 0x9EC19000 0x0DFFBFD9 = some (.vrel ⟨9, .view (.row 200), none, .absent, .absent, false, false, true⟩) ∧
    decodeV 0x9EDDFE00 0x0DFFC119 = some (.vfence ⟨9, .absent, none, .absent, .imm 4, false, false, true⟩) ∧
    decodeV 0x9EEDFE00 0x0DFFBFD9 = some (.vhalt ⟨9, .absent, none, .absent, .absent, false, false, true⟩) ∧
    decodeV 0x9EFDFE00 0x0DFFE959 = some (.vtrap ⟨9, .absent, none, .absent, .imm 165, false, false, true⟩) ∧
    decodeV 0x9F0C1A00 0x0C0F8259 = some (.eadd ⟨9, .ereg 13, none, .ereg 7, .ereg 9, false, false, true⟩) ∧
    decodeV 0x9F1C1A00 0x0C0FE959 = some (.eaddi ⟨9, .ereg 13, none, .ereg 7, .imm 165, false, false, true⟩) ∧
    decodeV 0x9F2C1A00 0x0C0F8259 = some (.esub ⟨9, .ereg 13, none, .ereg 7, .ereg 9, false, false, true⟩) ∧
    decodeV 0x9F3C1A00 0x0C0F8259 = some (.emul ⟨9, .ereg 13, none, .ereg 7, .ereg 9, false, false, true⟩) ∧
    decodeV 0x9F4C1A00 0x0A970E99 = some (.eli ⟨9, .ereg 13, none, .absent, .absent, false, false, true⟩ 0x2A5C3A) ∧
    decodeV 0x9F5C1A00 0x0DFFBFD9 = some (.epop ⟨9, .ereg 13, none, .absent, .absent, false, false, true⟩) ∧
    decodeV 0x9F6DFE00 0x0C1BBFD9 = some (.epush ⟨9, .absent, none, .ereg 13, .absent, false, false, true⟩) ∧
    decodeV 0x9F7C1A00 0x058BBFD9 = some (.eget ⟨9, .ereg 13, none, .absent, .absent, false, false, true⟩ 0x2C5) ∧
    decodeV 0x9F8C1A00 0x0A970E99 = some (.vbr ⟨9, .ereg 13, none, .absent, .absent, false, false, true⟩ 0x2A5C3A) ∧
    decodeV 0x9F9DFF5E 0x0A970EA9 = some (.vbrm ⟨9, .absent, (some ⟨(.col 350), true⟩), .absent, .absent, false, false, true⟩ 0x2A5C3A) ∧
    decodeV 0x9FADFF5E 0x0A970EA9 = some (.vbrd ⟨9, .absent, (some ⟨(.col 350), true⟩), .absent, .absent, false, false, true⟩ 0x2A5C3A) ∧
    decodeV 0x9FBDFE00 0x00000019 = some (.vjoin ⟨9, .absent, none, .absent, .absent, false, false, true⟩) ∧
    decodeV 0x9FCDFE00 0x0A970E99 = some (.vjal ⟨9, .absent, none, .absent, .absent, false, false, true⟩ 0x2A5C3A) ∧
    decodeV 0x9FDDFE00 0x0DFFBFD9 = some (.vret ⟨9, .absent, none, .absent, .absent, false, false, true⟩) := by
  decide +kernel

/-! ### Ill-formed instructions, one for each check (R182, R183, R189 to R191, R258 to R272) -/

/-- Number fields out of range (check 4 of R183): `inpop` below `s4` and off a multiple of 4, a rounding mode of 4 in `fcvt`,
loops 6 and 7, scope 5. -/
theorem test_illformed_numbers :
    (Instr.inpop 0 0 0).wf = false ∧ (Instr.inpop 0 6 0).wf = false ∧ (Instr.inpop 0 4 0).wf = true ∧
    (Instr.fcvt 0 1 1 4 0 0).wf = false ∧ (Instr.fcvt 0 1 1 3 0 0).wf = true ∧ (Instr.lpset 0 6 1 0).wf = false ∧
    (Instr.lpset 0 5 1 0).wf = true ∧ (Instr.lpidx 0 1 7).wf = false ∧ (Instr.lpend 0 6 0).wf = false ∧
    (Instr.fence 0 5).wf = false ∧ (Instr.fence 0 4).wf = true := by decide

/-- The ordering fields of R190: a scope without an ordering bit, `rl` on loads and `waitge`, `aq` on stores, sizes of atomics,
F32 operations of 8 bytes, an operation above 0xB. -/
theorem test_illformed_ordered :
    (Instr.ldOrdered 0 1 1 ⟨1, false, false, 0, 2, 0⟩).wf = false ∧ (Instr.ldOrdered 0 1 1 ⟨1, true, false, 0, 2, 0⟩).wf = true ∧
    (Instr.ldOrdered 0 1 1 ⟨1, false, true, 0, 2, 0⟩).wf = false ∧ (Instr.ldnOrdered 0 1 1 ⟨1, true, true, 0, 2, 0⟩).wf = false ∧
    (Instr.stOrdered 0 1 1 ⟨1, true, false, 0, 2, 0⟩).wf = false ∧ (Instr.stOrdered 0 1 1 ⟨5, false, true, 0, 2, 0⟩).wf = false ∧
    (Instr.waitge 0 1 1 ⟨0, false, false, 0, 3, 0⟩).wf = false ∧ (Instr.waitge 0 1 1 ⟨1, false, true, 0, 2, 0⟩).wf = false ∧
    (Instr.amo 0 1 1 1 0 ⟨0, false, false, 0, 1, 0⟩).wf = false ∧ (Instr.amo 0 1 1 1 9 ⟨0, false, false, 0, 3, 0⟩).wf = false ∧
    (Instr.amo 0 1 1 1 9 ⟨0, false, false, 0, 2, 0⟩).wf = true ∧ (Instr.amo 0 1 1 1 12 ⟨0, false, false, 0, 2, 0⟩).wf = false ∧
    (Instr.amocas 0 1 1 1 1 ⟨0, false, false, 0, 0, 0⟩).wf = false := by decide

/-- The bodies of the posted and the statistics instructions (R256 to R272, R280). -/
theorem test_illformed_posted :
    (Instr.qbase 0 1 0 0 0 1).wf = false ∧ (Instr.qdim 0 1 1 1 0 3 false).wf = false ∧ (Instr.qfmt 0 1 0 0 3).wf = false ∧
    (Instr.qfill 0 1 (.stream 0) (.stream 0) 0 0).wf = false ∧ (Instr.qfill 0 1 (.rank 24) (.stream 0) 1 0).wf = false ∧
    (Instr.qfill 0 1 (.stream 1) (.stream 0) 0 1).wf = false ∧ (Instr.qfill 0 1 (.stream 1) (.stream 0) 5 0).wf = false ∧
    (Instr.qstore 0 1 0 false 256 false 0 0 0 false).wf = false ∧ (Instr.qstore 0 1 0 true 384 false 0 0 0 false).wf = false ∧
    (Instr.qstore 0 1 0 false 0 false 1 0 0 false).wf = false ∧ (Instr.qstore 0 1 0 false 0 false 0 1 0 false).wf = false ∧
    (Instr.gupd 0 1 3 3 3).wf = false ∧ (Instr.gupd 0 1 3 1 0).wf = false ∧ (Instr.gupd 0 1 0 0 0).wf = false ∧
    (Instr.gclr 0 200 56).wf = false ∧ (Instr.gclr 0 200 55).wf = true ∧ (Instr.gdone 0 255 1).wf = false ∧
    (Instr.glim 0 384 0).wf = false ∧ (Instr.glim 0 383 127).wf = true ∧
    (Instr.xcopy 0 1 1 1 ⟨0, 0, 0, 0, 5, 0, 0, false⟩).wf = false ∧ (Instr.xfill 0 1 1 1 ⟨0, 0, 0, 0, 0, 0, 1, false⟩).wf = false ∧
    (Instr.xtag 0 1 1 1 ⟨0, 0, 0, 0, 0, 1, 0, false⟩).wf = false ∧ (Instr.xtagrd 0 1 1 1 ⟨0, 0, 0, 0, 0, 0, 0, true⟩).wf = false ∧
    (Instr.xgath 0 1 1 1 ⟨0, 0, 0, 0, 0, 0, 0, false⟩).wf = false ∧ (Instr.xbcast 0 1 2 1 ⟨0, 0, 0, 0, 0, 1, 0, false⟩).wf = false ∧
    (Instr.xenq 0 1 1 1 ⟨0, 0, 0, 0, 0, 1, 0, false⟩).wf = false ∧ (Instr.xpref 0 1 1 ⟨0, 0, 0, 0, 0, 0, 1, false⟩).wf = false ∧
    (Instr.stflush 0 1 true).wf = false := by decide

/-- A V-stream instruction with its operands, unmasked and with no policy bit. -/
def vf (d a b : Spec) (m : Option Mask := none) : VF := ⟨0, d, m, a, b, false, false, true⟩
def yv (i : BitVec 8) : Spec := .view (.row i)

/-- The operands of the V-stream (R178, R179, R182, R191, R192, R292): an operand that is missing or too many, a mask that is
missing or too many, an index out of range, a policy bit without a destination view, a type or a configuration that is not there. -/
theorem test_illformed_vector :
    (Instr.vadd 0 (vf (yv 0) (yv 1) .absent)).wf = false ∧ (Instr.vneg 0 (vf (yv 0) (yv 1) (yv 2))).wf = false ∧
    (Instr.vadd 0 (vf (yv 0) (yv 1) (yv 2))).wf = true ∧ (Instr.vsel (vf (yv 0) (yv 1) (yv 2))).wf = false ∧
    (Instr.vsel (vf (yv 0) (yv 1) (yv 2) (some ⟨.row 3, false⟩))).wf = true ∧
    (Instr.vrel (vf (yv 0) .absent .absent (some ⟨.row 3, false⟩))).wf = false ∧
    (Instr.vadd 0 (vf (.view (.col 384)) (yv 1) (yv 2))).wf = false ∧ (Instr.vadd 0 (vf (.view (.diag 384)) (yv 1) (yv 2))).wf = false ∧
    (Instr.vadd 0 (vf (yv 0) (yv 1) (yv 2) (some ⟨.col 400, false⟩))).wf = false ∧
    (Instr.vmpop { vf (.ereg 1) (yv 1) .absent with tailAgn := true }).wf = false ∧
    (Instr.vcompress { vf (yv 0) (yv 1) .absent (some ⟨.row 3, false⟩) with maskAgn := true }).wf = false ∧
    (Instr.vfma 2 (vf (yv 0) (yv 1) (yv 2))).wf = false ∧ (Instr.vabs 3 (vf (yv 0) (yv 1) .absent)).wf = false ∧
    (Instr.vrcp 2 (vf (yv 0) (yv 1) .absent)).wf = false ∧ (Instr.vredAdd 3 (vf (yv 0) (yv 1) .absent)).wf = false ∧
    (Instr.vsetvli (vf (.ereg 1) .absent .absent) 8 3).wf = false ∧ (Instr.vsetvli (vf (.ereg 1) .absent .absent) 8 0x30).wf = false ∧
    (Instr.vsetvl (vf (.ereg 1) (.ereg 2) (.imm 0x42))).wf = false ∧
    (Instr.vsetvl (vf (.ereg 1) (.ereg 2) (.imm 0x02))).wf = true := by decide

/-- Words that are no instruction (R183): major 0, an unallocated major and function, a field that is not zero where it is not
used, a second word with a nibble, a barrier of 16, a destination of kind 3 and index 0x20. -/
theorem test_words_refused :
    decodeC 0x00000000 0 = none ∧ decodeC 0x0B000000 0 = none ∧ decodeC 0x00800008 0 = none ∧ decodeC 0x00840015 0 = none ∧
    decodeC 0x0A400004 0x10000000 = none ∧ decodeC 0x0A400004 0 = some (.gchk 0) ∧ decodeC 0x01400102 0 = none ∧
    decodeC 0x014000F2 0 = some (.bararr 0 15) ∧ decodeV 0 0 = none ∧ decodeV 0x008C4000 0x00040059 = none ∧
    (decodeV 0x00800000 0x00040059).isSome = true := by decide

end Sys2Proof.Tests
end

