-- ==== Sys2Proof/Tests/Witness.lean ====
section
/-! SUPPORT. States and operands that meet the hypotheses of the statements, clause by clause at the ends of their ranges, so
that no statement is empty. -/

namespace Sys2Proof.Tests

set_option Elab.async false

open Sys2Proof Sys2Proof.Machine Sys2Proof.Safety

/-- A gang of ranks at cores 0 and 1, in its period, with a counted and a cadence barrier. -/
def gang0 : Gang where
  launch := 1
  asid := 5
  g := 2
  cores := [0, 1]
  tcmBlocks := 1
  spUnits := 1
  tokens := 4
  barriers := 2
  bar := [(0, { expected := 1 }), (1, { expected := 2, cadence := true, len := 10, start := 5 })]

/-- A control core at task privilege, with registers. -/
def ctl0 (s : SMap DWord) : Ctl := { priv := 0, s := s, pc := 0x1000 }
/-- A core of that gang: counters of one signal on each side that instructions wait on. -/
def core0 (s : SMap DWord) : Core := { ctl := ctl0 s, gang := 192, asid := 5, run := .run, hal := [(1, 1), (8, 1)] }
/-- The module with one core at work. -/
def mk (c : Core) : State :=
  { State.reset with clocksOn := true, ready := 0x3FFFFFFFFFF, gangs := [(192, gang0)], cores := [(0, c)], clock := 20 }
/-- The module with a task's registers. -/
def task (s : SMap DWord) : State := mk (core0 s)
/-- The module with a supervisor's registers, and no task. -/
def sup (s : SMap DWord) : State := mk { ctl := { ctl0 s with priv := 1 }, run := .run }

/-- The next state of an outcome, if there is one. -/
def next? (o : Out) : Option State := match o with | .next t => some t | _ => none
/-- The words, and the encodings of a convoy, that a fetch answers with. -/
def words? (f : CFetch) : Option (Word × Word) := match f with | .words a b => some (a, b) | _ => none
def encs? (f : CvFetch) : Option (List DWord) := match f with | .encs l => some l | _ => none
/-- The module with a counted class whose allowances are spent, for the tasks of class 0. -/
def spent (s : State) : State := { s with classes := [(0, { kind := true, cperiod := 1 })] }
/-- The state after the choice of a turn, with its core acting. -/
def turned (s : State) (n : Nat) : State := { (nextTurn s).2 with cur := n }

/-! ### Instructions of the C-stream -/

/-- The instruction words of R175 in place at the PC: `addi 5, 4, -3`. -/
def placed : State := State.reset.withFetchWord 32 0x020513FD

theorem witness_StepRunsDecoded :
    placed.powered = true ∧ (nextTurn placed).1 = .control 0 ∧ issues (turned placed 0) 0 = true ∧
    words? (fetchC (turned placed 0) 0).2 = some (0x020513FD, 0) ∧ decodeC 0x020513FD 0 = some (.addi 0 5 4 (-3)) := by
  decide +kernel

/-- Words that are no instruction, a PC that has no translation, and one in HBM where the class has no bytes left. -/
theorem witness_StepRunsDecoded_traps :
    (let s := State.reset.withFetchWord 32 0
     (nextTurn s).1 = .control 0 ∧ issues (turned s 0) 0 = true ∧ words? (fetchC (turned s 0) 0).2 = some (0, 0) ∧
     decodeC 0 0 = none) ∧
    (let s := placed.updN 0 fun c => c.updCtl fun k => { k with pc := 0x1000 }
     (nextTurn s).1 = .control 0 ∧ issues (turned s 0) 0 = true ∧ (fetchC (turned s 0) 0).2 = .fault 0x03 0x1000) ∧
    (let s := spent { (placed.updN 0 fun c => { c with gang := 192 }) with
        gangs := [(192, gang0)], ready := 0x3FFFFFFFFFF, mem := memWr placed.mem 0x8000008000 8 0x1073 }
     (nextTurn s).1 = .control 0 ∧ issues (turned s 0) 0 = true ∧ (fetchC (turned s 0) 0).2 = .held 0) := by
  decide +kernel

theorem witness_EveryInstructionAnswers :
    State.reset.powered = true ∧
    (let s := { State.reset with powered := false }
     s.powered = false ∧ (nextTurn s).1 ≠ .event .powerOn) ∧
    (let s := { State.reset with powered := false, agenda := [(0, .event .powerOn)] }
     (nextTurn s).1 = .event .powerOn) := by decide +kernel

theorem witness_StepKeepsMemoryCanonical :
    let s := { State.reset with mem := [(0, 1), (5, 2)] }
    MemInv s ∧ (next? (step s)).isSome = true :=
  ⟨⟨rfl, fun _ => rfl, fun _ => rfl⟩, by decide +kernel⟩

theorem witness_RegisterBanks :
    let c := core0 [(48, 5), (63, 7)]
    c.ctl.priv = 0 ∧ c.ctl.inHandler = false ∧ (1 : BitVec 2) ≠ 0 ∧ 48 ≤ (48 : Reg).toNat ∧ 48 ≤ (63 : Reg).toNat := by decide

/-- Counters at their ends: full on one signalled side, one below full on the other. -/
def fullCore : Core := { core0 [] with hal := [(0, 62), (1, 1), (8, 63), (9, 63)] }

theorem witness_CompletionAndWaits :
    (heldGet fullCore 8 = 0 ∧ heldGet fullCore 1 = 0 ∧ heldGet fullCore 9 = 0 ∧ heldGet fullCore 0 = 0 ∧
      halGet fullCore 0 < 63 ∧ ¬ halGet fullCore 9 < 63 ∧ fullCore.ctl.took = none ∧
      (0 < halGet fullCore 8 ∧ halGet fullCore 8 ≤ 63) ∧ 0 < halGet fullCore 1 ∧ halGet fullCore 1 ≤ 63) ∧
    ((sup []).core.ctl.priv ≠ 0 ∧ (1 : Hal) ≠ 0) ∧
    (let s := mk { core0 [] with hal := [] }
     s.core.ctl.priv = 0 ∧ s.core.ctl.took = none ∧ (8 : Hal).getLsbD 3 = true ∧ halGet s.core 8 = 0 ∧ (4 : Hal).getLsbD 2 = true ∧ halGet s.core 1 = 0) ∧
    0 < heldGet (mk { core0 [] with held := [(9, 1)] }).core 9 ∧ 0 < heldGet (mk { core0 [] with held := [(0, 1)] }).core 0 := by
  decide +kernel

/-- Instructions of several forms with a wait that is not there, or behind a held increment. -/
theorem witness_CompletionAndWaits_forms :
    ((Tables.waitsHere (task []) (.ld 8 3 1 2 0 0) ∧ Tables.waitsHere (task []) (.st 4 3 1 2 0 0) ∧ Tables.waitsHere (task []) (.beq 8 1 2 5) ∧
      Tables.waitsHere (task []) (.kget 4 3 0x000) ∧ Tables.waitsHere (sup []) (.kget 0 3 0x200) ∧ Tables.waitsHere (sup []) (.wfi 0)) ∧
     Tables.nibble (.ld 8 3 1 2 0 0) = 8 ∧ Tables.nibble (.st 4 3 1 2 0 0) = 4 ∧ Tables.nibble (.wfi 0) = 0) ∧
    (let s := mk { core0 [] with hal := [] }
     s.core.ctl.priv = 0 ∧ s.core.ctl.took = none ∧ (8 : Hal).getLsbD 3 = true ∧ halGet s.core 8 = 0 ∧ (4 : Hal).getLsbD 2 = true ∧
     halGet s.core 1 = 0 ∧ 0 < heldGet (mk { (sup []).core with held := [(9, 1)] }).core 9 ∧ (sup []).core.ctl.priv ≠ 0) ∧
    (Instr.isC (.add 1 3 1 2) = true ∧ Tables.nibble (.add 1 3 1 2) ≠ 0) := by
  refine ⟨⟨⟨rfl, rfl, rfl, rfl, rfl, ?_⟩, rfl, rfl, rfl⟩, by decide +kernel, rfl, by decide⟩
  exact (by decide : (sup []).core.ctl.priv ≠ 0)

/-- An instruction with every mark, and one above task privilege without any. -/
theorem ready_task (s : SMap DWord) : Ready (task s) 0xF :=
  ⟨.inl rfl, fun _ => by simp [task, mk, core0, State.core, State.coreN, State.reset, smGet, halGet],
    fun _ => by simp [task, mk, core0, State.core, State.coreN, State.reset, smGet, halGet], rfl, rfl⟩
theorem ready_sup (s : SMap DWord) : Ready (sup s) 0 := ⟨.inr rfl, fun h => absurd h (by decide), fun h => absurd h (by decide), rfl, rfl⟩

theorem witness_IntegerInstructions : Ready (task [(1, 0x7FFFFFFFFFFFFFFF)]) 0xF ∧ Ready (sup []) 0 := ⟨ready_task _, ready_sup _⟩

theorem witness_DivisionCorners :
    Ready (task []) 0xF ∧ reg (task [(1, 5)]) 2 = 0 ∧
    (let s := task [(1, 0x8000000000000000), (2, BitVec.allOnes 64)]
     reg s 1 = 0x8000000000000000 ∧ reg s 2 = BitVec.allOnes 64) ∧
    (let s := task [(1, 0x8000000000000000), (2, 1)]
     reg s 2 ≠ 0 ∧ ¬ (reg s 1 = 0x8000000000000000 ∧ reg s 2 = BitVec.allOnes 64)) :=
  ⟨ready_task _, by decide +kernel⟩

theorem witness_ScalarFloat :
    Ready (task [(1, 0x3F800000), (2, 0x7F800000)]) 0xF ∧ 0x7F7FFFFF / 2 ^ 23 % 256 ≠ 255 ∧ 0x80000000 / 2 ^ 23 % 256 ≠ 255 :=
  ⟨ready_task _, by decide⟩

/-- Operands of each kind that the sums, the minima and the conversions distinguish. -/
theorem witness_ScalarFloat_values :
    (let m := 2 ^ 31
     let inf := 0x7F800000
     0x3F800000 % m < inf ∧ Tables.units f32 0x3F800000 + Tables.units f32 1 ≠ 0 ∧ Tables.units f32 0x3F800000 * Tables.units f32 1 ≠ 0 ∧
     Tables.units f32 0x3F800000 + Tables.units f32 0xBF800000 = 0 ∧ Tables.units f32 m * Tables.units f32 1 = 0 ∧ inf < 0x7FC00000 % m ∧
     0xFF800000 % m = inf ∧ 0x7F800000 / m ≠ 0xFF800000 / m) ∧
    (0x7F800000 < 0xFFC00000 % 2 ^ 31 ∧ ¬ 0x7F800000 < 0x7F800000 % 2 ^ 31) ∧
    (3 : BitVec 3).toNat < 4 ∧ (∀ p ∈ Tables.formats, Tables.mag p.2.1 1 ≤ p.2.2.1 ∧ Tables.units p.2.1 1 ≠ 0 ∧ Tables.mag p.2.1 0 = 0) ∧
    (∀ p ∈ Tables.formats, p.1.toNat < 4 → p.2.2.1 < Tables.mag p.2.1 p.2.2.2.2 ∧ p.2.2.2.1 ≠ some (Tables.mag p.2.1 p.2.2.2.2) ∧
      p.2.2.2.1 = some (Tables.mag p.2.1 (p.2.2.1 + 1))) ∧
    ((5 : DWord).setWidth 32).toInt ≠ 0 := by decide +kernel

theorem witness_BranchResults :
    Ready (task [(1, BitVec.allOnes 64), (2, 0)]) 0xF ∧
    (let s := task [(1, BitVec.allOnes 64), (2, 0)]
     ¬ reg s 1 = reg s 2 ∧ reg s 1 ≠ reg s 2 ∧ (reg s 1).toInt < (reg s 2).toInt ∧ ¬ (reg s 2).toInt ≤ (reg s 1).toInt ∧
     ¬ (reg s 1).toNat < (reg s 2).toNat ∧ (reg s 2).toNat ≤ (reg s 1).toNat ∧ reg s 1 = reg s 1 ∧
     (reg s 2).toInt ≤ (reg s 2).toInt ∧ ¬ (reg s 2).toInt < (reg s 1).toInt ∧ (reg s 2).toNat < (reg s 1).toNat ∧
     ¬ (reg s 1).toNat ≤ (reg s 2).toNat) := ⟨ready_task _, by decide +kernel⟩

theorem witness_JumpsAndLoopSet :
    Ready (task [(1, 0x00FFFFFFFFFFFFFC)]) 0xF ∧
    (let t := reg (task [(1, 0x00FFFFFFFFFFFFFD)]) 1 + (0 : BitVec 10).signExtend 64 * 4
     t.toNat % 4 ≠ 0) ∧
    (let t := reg (task [(1, 0x00FFFFFFFFFFFFFC)]) 1 + (1 : BitVec 10).signExtend 64 * 4
     t.toNat % 4 = 0 ∧ 2 ^ 56 ≤ t.toNat) ∧
    (let t := reg (task [(1, 0x00FFFFFFFFFFFFFC)]) 1 + (0 : BitVec 10).signExtend 64 * 4
     t.toNat % 4 = 0 ∧ t.toNat < 2 ^ 56) := ⟨ready_task _, by decide +kernel⟩

/-- A task at `lpend`, with loop 3 in a state. -/
def looping (active : Bool) (left : BitVec 32) : State :=
  mk { core0 [] with ctl := { ctl0 [] with loops := [(3, { active := active, remaining := left, index := 7, start := 0xFFC })] } }

theorem witness_LoopEndResults :
    Ready (task []) 0xF ∧ (loopGet (looping false 2).core 3).active = false ∧
    (let l := loopGet (looping true 1).core 3
     let pc := (looping true 1).core.ctl.pc
     l.active = true ∧ pc + (0x3FE : BitVec 10).signExtend 56 * 4 ≠ l.start ∧ pc + (0x3FF : BitVec 10).signExtend 56 * 4 = l.start ∧
     l.remaining = 1) ∧ (loopGet (looping true 2).core 3).remaining ≠ 1 := ⟨ready_task _, by decide +kernel⟩

/-! ### Memory, barriers and tokens -/

/-- A task whose TCM holds bytes at the end of its allotment. -/
def memTask (s : SMap DWord) : State := mk { core0 s with tcm := memPut [] 0xFF8 [0x81, 2, 3, 4, 5, 6, 7, 0x88] }
def ord2 : MemOrd := ⟨2, true, true, 2, 2, 0⟩
/-- That task with an entry for a record in HBM in a combining buffer: sent by a flush, and held by a class without bytes. -/
def combTask (s : SMap DWord) : State := (memTask s).upd fun c => { c with comb := [(0, [{ id := 1, base := 0 }])] }
/-- That task with a page in HBM at address 0, of a class with so many units of HBM left. -/
def hbmTask (left : Nat) : State :=
  let m := fetchTables.foldl (fun m p => memWr m p.1 8 p.2) []
  { combTask [(1, 0)] with classes := [(0, { kind := true, cperiod := 1, hbmLeft := [(0, left)] })], asidtab := 0x8000000000,
                           mem := memWr (memWr m 0x8000000050 8 0x8000004001) 0x8000008000 8 0x1073 }
/-- That task with one page, whose leaf is `leaf`, at address 0. -/
def leafTask (leaf : Nat) (s : SMap DWord) : State :=
  let m := fetchTables.foldl (fun m p => memWr m p.1 8 p.2) []
  { memTask s with asidtab := 0x8000000000, mem := memWr (memWr m 0x8000000050 8 0x8000004001) 0x8000008000 8 leaf }
/-- Its page in SRAM of die 0, with tags; and in that of die 1, to which no mesh edge leads. -/
def tagTask (s : SMap DWord) : State := leafTask 0x8000009573 s
def farTask (s : SMap DWord) : State := { leafTask 0x8100009573 s with ready := 0x3FFFFFFFF }
theorem combTask_open : Tables.relOpen ord2 (combTask [(1, 0xFF8)]) := fun _ _ => by decide +kernel
theorem combTask_held : ¬ Tables.relOpen ord2 (spent (combTask [(1, 0xFF8)])) := fun h => absurd (h rfl (by decide)) (by decide +kernel)

theorem witness_AccessEffects :
    let s := memTask []
    let w := cWho s
    (loadAt s w [] 2 0xFF8 8 .load).2 = .val 0x8807060504030281 none ∧
    (let r := storeAt s w [] 2 0xFF8 8 .store fun _ => 1
     r.2 = .done ∧ (r.1.coreN w.core).inflight.length = (s.coreN w.core).inflight.length) ∧
    (amoAt s w [] 2 0xFF8 4 fun v => some (v + 1)).2 = .val 0x04030281 none ∧
    (amoAt s w [] 2 0xFFC 4 fun _ => none).2 = .val 0x88070605 none ∧
    (loadAt s w [] 2 0x1000 8 .load).2 = .fault 0x08 0x1000 ∧ (storeAt s w [] 2 0xFFC 8 .store fun _ => 1).2 = .fault 0x02 0xFFC ∧
    (amoAt (tagTask []) w [] 0 0x5000000000000000 4 fun _ => none).2 = .fault 0x05 0x5000000000000000 ∧
    (loadAt (tagTask []) w [] 0 0x5000000000000000 4 .load).2 = .val 0 (some (0, 5)) ∧
    (let r := storeAt (tagTask []) w [] 0 0x5000000000000000 8 .store fun _ => 1
     r.2 = .done ∧ r.1.core.inflight = [⟨0x06, 0x5000000000000000⟩] ∧ (tagTask []).core.inflight = []) ∧
    (let r := storeAt (farTask []) w [] 0 0xFF8 8 .store fun _ => 1
     r.2 = .done ∧ r.1.core.inflight = [⟨0x08, 0xFF8⟩]) ∧
    ((loadAt (hbmTask 0) w [] 0 0 8 .load).2 = .held ∧ (storeAt (hbmTask 0) w [] 0 0 8 .store fun _ => 1).2 = .held) := by decide +kernel

theorem witness_LoadsAndStores :
    Ready (memTask [(1, 0xFF8)]) 0xF ∧
    (let s := memTask [(1, 0xFF8), (2, 0x1122334455667788)]
     let m : MemOrd := ⟨2, true, true, 2, 3, 0⟩
     (Tables.cLoad s 2 (Tables.ciEa s 1 2 3 0) 8).2 = .val 0x8807060504030281 none ∧
     (Tables.cLoad s 2 (Tables.ordEa s 1 m) 8).2 = .val 0x8807060504030281 none ∧
     (Tables.cLoad s 2 (Tables.ciEa s 1 2 3 1) 8).2 = .fault 0x08 0x1000 ∧
     (Tables.cStore s 2 (Tables.ciEa s 1 2 3 0) 8 2).2 = .done ∧ (Tables.cStore s 2 (Tables.ordEa s 1 m) 8 2).2 = .done ∧
     (Tables.cStore s 2 (Tables.ciEa s 1 2 3 1) 8 2).2 = .fault 0x08 0x1000 ∧
     (Tables.cStore s 2 (Tables.ordEa s 1 { m with off := 1 }) 8 2).2 = .fault 0x02 0xFF9) ∧
    (Tables.cStore (combTask [(1, 0xFF8)]) 2 (Tables.ordEa (combTask [(1, 0xFF8)]) 1 ord2) 4 2).2 = .done ∧
    (Tables.cStore (spent (combTask [(1, 0xFF8)])) 2 (Tables.ordEa (combTask [(1, 0xFF8)]) 1 ord2) 4 2).2 = .done ∧
    (let s' := Tables.relState ord2 (combTask [(1, 0xFF8)])
     s'.core.comb ≠ (combTask []).core.comb ∧ (Tables.cStore s' 2 (Tables.ordEa s' 1 ord2) 4 2).2 = .done) ∧
    Tables.relOpen ord2 (combTask [(1, 0xFF8)]) ∧ ¬ Tables.relOpen ord2 (spent (combTask [(1, 0xFF8)])) := by
  refine ⟨ready_task _, by decide +kernel, by decide +kernel, by decide +kernel, ?_, combTask_open, combTask_held⟩
  unfold Tables.relState; decide +kernel

/-- A store that a byte budget holds, at once and after its release has flushed. -/
theorem witness_LoadsAndStores_held :
    let ea (s : State) := Tables.ordEa s 1 { ord2 with space := 0 }
    let m : MemOrd := { ord2 with space := 0 }
    (Tables.cStore (hbmTask 0) 0 (Tables.ciEa (hbmTask 0) 1 0 3 0) 8 2).2 = .held ∧ (Tables.cStore (hbmTask 0) 0 (ea (hbmTask 0)) 4 2).2 = .held ∧
    (Tables.cLoad (hbmTask 0) 0 (ea (hbmTask 0)) 4).2 = .held ∧
    (Tables.cStore (hbmTask 2) 0 (ea (hbmTask 2)) 4 2).2 = .done ∧ combEmpty ((flushAll (hbmTask 2) 0).coreN 0) = true ∧
    (let s' := Tables.relState m (hbmTask 2)
     (Tables.cStore s' 0 (Tables.ordEa s' 1 m) 4 2).2 = .held) := by
  decide +kernel

theorem witness_StoreFrame :
    let s := memTask [(1, 0xFF8), (2, 0x1122334455667788)]
    let ea := Tables.ciEa s 1 2 3 0
    Ready s 0xF ∧ (next? (exec (.st 0xF 2 1 2 3 0) s)).isSome = true ∧ (resolve s (cWho s) [] 2 ea 8 .store).2.toOption = some (.tcm 0 0xFF8) ∧
    (Tables.cStore s 2 ea 8 2).2 = .done ∧ (Tables.cStore s 2 ea 8 2).1.core.inflight.length = s.core.inflight.length :=
  ⟨ready_task _, by decide +kernel⟩

/-- Stores that are dropped, for their tag and for want of a path. -/
theorem witness_StoreFrame_dropped :
    (∀ s ∈ [tagTask [(1, 0x5000000000000000)], farTask [(1, 0)]],
      let ea := Tables.ciEa s 1 0 3 0
      (next? (exec (.st 0xF 2 1 0 3 0) s)).isSome = true ∧ (Tables.cStore s 0 ea 8 2).2 = .done ∧
      (Tables.cStore s 0 ea 8 2).1.core.inflight.length ≠ s.core.inflight.length) := by decide +kernel

/-- A release that flushes before its store. -/
theorem witness_StoreFrame_release :
    let s := combTask [(1, 0xFF8)]
    let r := Tables.relState ord2 s
    Ready s 0xF ∧ Tables.relOpen ord2 s ∧ (Tables.cStore s 2 (Tables.ordEa s 1 ord2) 4 2).2 = .done ∧
    (Tables.cStore r 2 (Tables.ordEa r 1 ord2) 4 2).2 = .done ∧
    (Tables.cStore r 2 (Tables.ordEa r 1 ord2) 4 2).1.core.inflight.length = r.core.inflight.length ∧
    (resolve r (cWho r) [] 2 (Tables.ordEa r 1 ord2) 4 .store).2.toOption = some (.tcm 0 0xFF8) ∧
    (next? (exec (.stOrdered 0xF 2 1 ord2) s)).isSome = true := by
  refine ⟨⟨.inl rfl, fun _ => by decide +kernel, fun _ => by decide +kernel, rfl, rfl⟩, combTask_open, ?_⟩
  unfold Tables.relState; decide +kernel

theorem witness_LocalLoadStore :
    let s := memTask [(1, 0xFF8)]
    let g := s.gangOf s.cur
    Ready s 0xF ∧ g.tcmBlocks * 4096 = 0x1000 ∧ g.spUnits * 127 * 32 = 0xFE0 ∧ (0xFFF : DWord).toNat % 8 ≠ 0 ∧
    ((0x1000 : DWord).toNat % 8 = 0 ∧ 0x1000 ≤ (0x1000 : DWord).toNat) ∧ ((0xFF8 : DWord).toNat % 8 = 0 ∧ (0xFF8 : DWord).toNat < 0x1000) ∧
    ((0xFE0 : DWord).toNat % 8 = 0 ∧ 0xFE0 ≤ (0xFE0 : DWord).toNat) ∧ (0xFD8 : DWord).toNat < 0xFE0 ∧
    locPoison s 0 (.tcm 0 0xFF8) = false ∧ locPoison s 0 (.spad 0 0xFD8) = false := ⟨ready_task _, by decide +kernel⟩

theorem witness_AtomicResults :
    let s := memTask [(1, 0xFF8), (2, 0x04030281), (3, 0xFFC)]
    let ea := Tables.ordEa s 1 ord2
    Ready s 0xF ∧ ord2.size = 2 ∧ (11 : BitVec 4).toNat < 12 ∧
    (amoAt s (cWho s) [] 2 ea 4 fun old => some (Tables.amoNew 32 11 (BitVec.ofNat 32 old) ((reg s 2).setWidth 32)).toNat).2 = .val 0x04030281 none ∧
    (amoAt s (cWho s) [] 2 (ea + 8) 4 fun old => some old).2 = .fault 0x08 0x1000 ∧
    (amoAt s (cWho s) [] 2 ea 4 fun old => if old = 0x04030281 then some 1 else none).2 = .val 0x04030281 none ∧
    (amoAt s (cWho s) [] 2 (ea + 4) 4 fun old => if old = 0x04030281 then some 1 else none).2 = .val 0x88070605 none ∧
    (amoAt s (cWho s) [] 2 (ea + 2) 4 fun old => if old = 0x04030281 then some 1 else none).2 = .fault 0x02 0xFFA ∧
    (let f := combTask [(1, 0xFF8)]
     let s' := Tables.relState ord2 f
     (amoAt f (cWho f) [] 2 ea 4 fun _ => some 1).2 = .val 0x04030281 none ∧ (amoAt s' (cWho s') [] 2 ea 4 fun _ => some 1).2 = .val 0x04030281 none ∧
     (amoAt (spent f) (cWho (spent f)) [] 2 ea 4 fun _ => some 1).2 = .val 0x04030281 none) ∧
    Tables.relOpen ord2 (combTask [(1, 0xFF8)]) ∧ ¬ Tables.relOpen ord2 (spent (combTask [(1, 0xFF8)])) := by
  refine ⟨ready_task _, by decide +kernel, by decide +kernel, by decide +kernel, by decide +kernel, by decide +kernel, by decide +kernel,
    by decide +kernel, ?_, combTask_open, combTask_held⟩
  unfold Tables.relState; decide +kernel

theorem witness_WaitAndFence :
    let s := memTask [(1, 0xFF8)]
    let r := Tables.cLoad s 2 (Tables.ordEa s 1 ord2) 4
    Ready s 0xF ∧ r.2 = .val 0x04030281 none ∧ (0x04030281 + 2 ^ 32 - 0x04030281 % 2 ^ 32) % 2 ^ 32 < 2 ^ 31 ∧
    ¬ (0x04030281 + 2 ^ 32 - 0x04030282 % 2 ^ 32) % 2 ^ 32 < 2 ^ 31 ∧
    (Tables.cLoad s 2 (Tables.ordEa s 1 { ord2 with off := 8 }) 4).2 = .fault 0x08 0x1000 ∧
    s.core.inflight = [] ∧ s.core.reports = [] ∧ (mk { core0 [] with inflight := [⟨6, 1⟩] }).core.inflight ≠ [] ∧
    (mk { core0 [] with reports := [⟨6, 1⟩, ⟨8, 2⟩] }).core.reports = ⟨6, 1⟩ :: [⟨8, 2⟩] := ⟨ready_task _, by decide +kernel⟩

theorem witness_GangBarriers :
    let s := task [(1, 2), (2, 65535), (3, 3), (4, 65536)]
    let g := s.gangOf s.cur
    Ready s 0xF ∧ g.g = 2 ∧ g.barriers = 2 ∧ (1 ≤ (reg s 1).toNat ∧ (reg s 1).toNat ≤ g.g) ∧ ¬ (reg s 3).toNat ≤ g.g ∧ ¬ 1 ≤ (reg s 0).toNat ∧
    (reg s 2).toNat ≤ 65535 ∧ ¬ (reg s 4).toNat ≤ 65535 ∧ (1 : BitVec 4).toNat < g.barriers ∧ ¬ (2 : BitVec 4).toNat < g.barriers ∧
    wpGet s.core 1 ≠ some (barGet g 1).phase ∧
    (let t := mk { core0 [] with ctl := { ctl0 [] with waitPoints := [(1, some 0)] } }
     wpGet t.core 1 = some (barGet (t.gangOf 0) 1).phase) := ⟨ready_task _, by decide +kernel⟩

/-- A quiet task, the last to arrive at a counted barrier and at a cadence one whose cadence ends now. -/
def lastIn (clk : DWord) : State :=
  { task [] with gangs := [(192, { gang0 with bar := [(0, { expected := 1 }), (1, { (barGet gang0 1) with arrivals := 1 })] })], clock := clk }

theorem witness_GangBarriers_pend :
    Ready (lastIn 15) 0xF ∧ (lastIn 15).core.ctl.pendArrived = false ∧ (pendQuiet (lastIn 15).core = true ∧ (lastIn 15).core.reports = []) ∧
    (lastIn 15).recs = [] ∧
    (let v := barGet ((lastIn 15).gangOf (lastIn 15).cur) 0
     (0 : BitVec 4).toNat < ((lastIn 15).gangOf (lastIn 15).cur).barriers ∧ v.expected ≤ v.arrivals + 1 ∧ v.cadence = false) ∧
    (let v := barGet ((lastIn 15).gangOf (lastIn 15).cur) 1
     (1 : BitVec 4).toNat < ((lastIn 15).gangOf (lastIn 15).cur).barriers ∧ v.expected ≤ v.arrivals + 1 ∧ v.cadence = true ∧
     v.start.toNat + v.len = (lastIn 15).clock.toNat) :=
  ⟨⟨.inl rfl, fun _ => by decide +kernel, fun _ => by decide +kernel, rfl, rfl⟩, by decide +kernel⟩

/-- A task at `pend` or `pend.cad`: arrived before, tested before, its copy engine at work, at a clock. -/
def pending (arrived tested busy : Bool) (clk : DWord) : State :=
  { mk { core0 [] with ctl := { ctl0 [] with pendArrived := arrived, cadTested := tested },
                       cpy := if busy then { queue := [{ instr := .vsync 0 }] } else {} } with clock := clk }

theorem witness_PendInstructions :
    Ready (pending false false false 20) 0xF ∧
    (let s := pending false false false 20
     let f := flushAll s s.cur
     s.core.ctl.pendArrived = false ∧ 0 < (s.gangOf s.cur).barriers ∧ (barGet (s.gangOf s.cur) 0).cadence = false ∧
     (barGet (s.gangOf s.cur) 1).cadence = true ∧ pendQuiet f.core = true ∧ f.core.reports = [] ∧
     (barGet (f.gangOf s.cur) 0).expected ≤ (barGet (f.gangOf s.cur) 0).arrivals + 1 ∧
     (barGet (f.gangOf s.cur) 1).arrivals + 1 < (barGet (f.gangOf s.cur) 1).expected) ∧
    (let s := pending false false true 15
     pendQuiet (flushAll s s.cur).core = false ∧ s.core.ctl.cadTested = false ∧
     (barGet (s.gangOf s.cur) 1).start.toNat + (barGet (s.gangOf s.cur) 1).len ≤ s.clock.toNat) ∧
    (let s := pending false true false 15
     s.core.ctl.cadTested = true ∧ pendQuiet (flushAll s s.cur).core = true) ∧
    ¬ (2 : BitVec 4).toNat < ((pending false false false 20).gangOf 0).barriers ∧
    (let s := pending false false false 14
     s.clock.toNat < (barGet (s.gangOf s.cur) 1).start.toNat + (barGet (s.gangOf s.cur) 1).len) ∧
    (let s := pending true false false 20
     s.core.ctl.pendArrived = true ∧ wpGet s.core 0 ≠ some (barGet (s.gangOf s.cur) 0).phase ∧
     wpGet (s.upd fun c => wpPut c 0 (some 0)).core 0 = some (barGet (s.gangOf s.cur) 0).phase) ∧
    (let s := pending false true false 15
     let f := flushAll { s with gangs := [(192, { gang0 with bar := [(1, { (barGet gang0 1) with arrivals := 1 })] })] } 0
     (barGet (f.gangOf 0) 1).cadence = true ∧ (barGet (f.gangOf 0) 1).expected ≤ (barGet (f.gangOf 0) 1).arrivals + 1) ∧
    (let s := (pending false true false 15).upd fun c => { c with reports := [⟨6, 1⟩, ⟨8, 2⟩] }
     pendQuiet (flushAll s s.cur).core = true ∧ (flushAll s s.cur).core.reports = ⟨6, 1⟩ :: [⟨8, 2⟩] ∧ s.core.ctl.cadTested = true) ∧
    -- an arrival that is not the last, after its test and at it; a core at work after its test; a report at the test
    (∀ tested : Bool,
     let s := pending false tested false 15
     let f := flushAll s s.cur
     s.core.ctl.cadTested = tested ∧ pendQuiet f.core = true ∧ f.core.reports = [] ∧ (barGet (s.gangOf s.cur) 1).cadence = true ∧
     (barGet (s.gangOf s.cur) 1).start.toNat + (barGet (s.gangOf s.cur) 1).len ≤ s.clock.toNat ∧
     (barGet (f.gangOf s.cur) 1).arrivals + 1 < (barGet (f.gangOf s.cur) 1).expected) ∧
    (let s := pending false true true 15
     s.core.ctl.cadTested = true ∧ pendQuiet (flushAll s s.cur).core = false) ∧
    (let f := flushAll (lastIn 15) 0
     (lastIn 15).core.ctl.cadTested = false ∧ pendQuiet f.core = true ∧ f.core.reports = [] ∧
     (barGet (f.gangOf 0) 1).expected ≤ (barGet (f.gangOf 0) 1).arrivals + 1) ∧
    (let s := (pending false false false 15).upd fun c => { c with reports := [⟨6, 1⟩] }
     pendQuiet (flushAll s s.cur).core = true ∧ (flushAll s s.cur).core.reports = ⟨6, 1⟩ :: [] ∧ s.core.ctl.cadTested = false) :=
  ⟨⟨.inl rfl, fun _ => by decide +kernel, fun _ => by decide +kernel, rfl, rfl⟩, by decide +kernel⟩

theorem witness_TokenResults :
    let s := task []
    Ready s 0xF ∧ (3 : BitVec 5).toNat < (s.gangOf s.cur).tokens ∧ ¬ (4 : BitVec 5).toNat < (s.gangOf s.cur).tokens ∧
    slotBusy s.core 3 = false ∧ slotBusy (mk { core0 [] with cpy := { tok := [(3, { pending := true })] } }).core 3 = true ∧
    s.core.inflight = [] ∧ s.core.reports = [] ∧ (mk { core0 [] with reports := [⟨6, 1⟩] }).core.reports = ⟨6, 1⟩ :: [] :=
  ⟨ready_task _, by decide +kernel⟩

/-! ### Vector interface, arrival, environment, control registers -/

theorem witness_EngineInterface :
    let s := task [(1, 0x00FFFFFFFFFFFFF8), (2, 0x00FFFFFFFFFFFFFC), (3, 0x0100000000000000)]
    Ready s 0xF ∧ (reg s 2).toNat % 8 ≠ 0 ∧ ((reg s 3).toNat % 8 = 0 ∧ 2 ^ 56 ≤ (reg s 3).toNat) ∧
    ((reg s 1).toNat % 8 = 0 ∧ (reg s 1).toNat < 2 ^ 56) ∧ (s.core.vec.halted = true ∧ s.core.vec.cv = none) ∧
    (mk { core0 [] with vec := { halted := false } }).core.vec.halted = false ∧ s.core.c2v.length < 8 ∧
    8 ≤ (mk { core0 [] with c2v := [0, 1, 2, 3, 4, 5, 6, 7] }).core.c2v.length ∧ s.core.v2c = [] ∧
    (mk { core0 [] with v2c := [7] }).core.v2c = 7 :: [] ∧ inboxGet s.core 15 = [] ∧
    inboxGet (mk { core0 [] with inbox := [(15, [5])] }).core (15 : BitVec 4).toNat = 5 :: [] ∧ 4 ≤ (60 : Reg).toNat ∧ (60 : Reg).toNat % 4 = 0 ∧
    (4 : Reg).toNat % 4 = 0 := ⟨ready_task _, by decide +kernel⟩

/-- The mask bits of slots at or above the gang's four tokens are the ones that trap. -/
theorem witness_ArrivalAndEnvironment :
    let s := task [(1, 0x2002), (2, 0x0100000000000000), (3, 0x00FFFFFFFFFFFFFC), (4, 0x0001000000000000), (5, 0x0000800000000000), (6, 0xFFFFF), (63, 1)]
    let bad (m : DWord) (k : Nat) : Prop := k < 32 ∧ m.getLsbD (16 + k) = true ∧ (s.gangOf s.cur).tokens ≤ k
    Ready s 0xF ∧ (¬ (reg s 1).toNat % 4 = 0) ∧ ((reg s 2).toNat % 4 = 0 ∧ ¬ (reg s 2).toNat < 2 ^ 56) ∧
    ((reg s 3).toNat % 4 = 0 ∧ (reg s 3).toNat < 2 ^ 56) ∧ ¬ (reg s 4).toNat < 2 ^ 48 ∧
    ((reg s 5).toNat < 2 ^ 48 ∧ bad (reg s 5) 31 ∧ ∀ j, j < 31 → ¬ bad (reg s 5) j) ∧ ((reg s 6).toNat < 2 ^ 48 ∧ ∀ k, ¬ bad (reg s 6) k) ∧
    s.core.ctl.inHandler = false ∧ (mk { core0 [] with ctl := { ctl0 [] with inHandler := true } }).core.ctl.inHandler = true ∧
    (reg s 63 ≠ 0 ∧ reg s 63 ≠ 2) ∧ reg (task []) 63 = 0 ∧ reg (task [(63, 2)]) 63 = 2 := by
  refine ⟨ready_task _, by decide +kernel, by decide +kernel, by decide +kernel, by decide +kernel, by decide +kernel, ⟨by decide +kernel, ?_⟩,
    by decide +kernel⟩
  intro k
  by_cases h : k < 32
  · have : ∀ k, k < 32 → ¬ (k < 32 ∧ (0xFFFFF : DWord).getLsbD (16 + k) = true ∧ 4 ≤ k) := by decide +kernel
    exact this k h
  · exact fun hb => h hb.1

theorem witness_BreakAndPause :
    (let s := task []
     ((s.dbgOf (clusterOf s.cur)).claim.getLsbD (s.cur % 24) ≠ true) ∧ s.core.ctl.pauseEnd = none) ∧
    (let s := { task [] with dbg := [(0, { claim := 1 })] }
     (s.dbgOf (clusterOf s.cur)).claim.getLsbD (s.cur % 24) = true ∧ s.core.ebrkAt ≠ some s.core.ctl.pc ∧
     (s.dbgOf (clusterOf s.cur)).frozen = false ∧ (s.dbgOf (clusterOf s.cur)).pending = false ∧
     (s.upd fun c => { c with ebrk := [(0, some 0x1000)] }).core.ebrkAt = some s.core.ctl.pc) ∧
    (let s := mk { core0 [] with ctl := { ctl0 [] with pauseEnd := some 20 } }
     s.core.ctl.pauseEnd = some 20 ∧ (20 : DWord).toNat ≤ s.clock.toNat ∧ s.clock.toNat < (21 : DWord).toNat ∧
     (18 : DWord) + 1 < 20 ∧ halGet s.core 1 < 63 ∧ halGet s.core 8 < 63) := by decide +kernel

/-- Each of the four cases of an access, at the ends of the ranges of register numbers. -/
theorem witness_ControlAccess :
    Ready (task []) 0xF ∧ Ready (sup []) 0 ∧
    ((0x200 ≤ (0x200 : BitVec 10).toNat ∧ (task []).core.ctl.priv = 0) ∧ (0x300 ≤ (0x3FF : BitVec 10).toNat ∧ (sup []).core.ctl.priv ≠ 2)) ∧
    (KForm.set ∉ kForms 0x001 ∧ ¬ 0x200 ≤ 0x001) ∧
    (KForm.get ∈ kForms 0x010 ∧ KForm.get ∈ kForms 0x016 ∧ vecQuiet (task []).core = true ∧
      vecQuiet (mk { core0 [] with vec := { halted := false } }).core = false) ∧
    (KForm.set ∈ kForms 0x000 ∧ KForm.bis ∈ kForms 0x000 ∧ KForm.bic ∈ kForms 0x000) :=
  ⟨ready_task _, ready_sup _, by decide +kernel⟩

/-! ### Posted instructions, statistics, system instructions -/

/-- Operands that pass the checks of a posted form, and a queue at its last entry and full. -/
theorem witness_PostedInstructions :
    let s := task [(1, 0x100), (2, 0x40), (3, 8)]
    let full (n : Nat) : State := mk { core0 [(1, 0x100), (2, 0x40), (3, 8)] with
      str := { queue := List.replicate n { instr := .vsync 0 } }, grd := { queue := List.replicate n { instr := .vsync 0 } } }
    let f : CopyF := ⟨3, 1, 2, 3, 2, 2, 2, false⟩
    (s.core.ctl.priv = 0 ∧ heldGet s.core 9 = 0 ∧ heldGet s.core 0 = 0 ∧ (queueOf s.core 1).length < 16) ∧
    firstFail [formOnly s 0 (reg s 2), formOnly s 0 (reg s 3)] = none ∧
    firstFail [chk ((reg s 0).toNat == 0 || decide (65535 < (reg s 0).toNat)) 0x01 (reg s 0)] = some (0x01, 0) ∧
    ((queueOf (full 15).core 1).length < 16 ∧ ¬ (queueOf (full 16).core 1).length < 16) ∧
    ((queueOf (full 63).core 2).length < 64 ∧ ¬ (queueOf (full 64).core 2).length < 64) ∧
    firstFail [xCheck .copy f s (reg s 1) (reg s 2) (reg s 3) 0] = none ∧
    firstFail [xCheck .copy { f with c3 := 4 } s (reg s 1) (reg s 2) (reg s 3) 0] ≠ none := by decide +kernel

theorem witness_CopyChecks :
    let f : CopyF := ⟨3, 1, 2, 3, 2, 2, 2, false⟩
    let s := task []
    f.rb = false ∧ (0x0000010000000008 : DWord).extractLsb' 40 24 ≠ 0 ∧
    ((7 : DWord).extractLsb' 40 24 = 0 ∧ ((7 : DWord).extractLsb' 0 40).toNat % 8 ≠ 0) ∧
    (((8 : DWord).extractLsb' 0 40).toNat % 8 = 0 ∧ (0xFFC : DWord).toNat % 8 ≠ 0 ∧ (0xFF8 : DWord).toNat % 8 = 0) ∧
    rangeCheck s 2 0xFF8 8 = none ∧ rangeCheck s 2 0xFF8 16 ≠ none ∧ (3 : BitVec 5).toNat < (s.gangOf s.cur).tokens ∧
    ¬ (4 : BitVec 5).toNat < (s.gangOf s.cur).tokens ∧ { f with rb := true }.rb = true ∧
    (let w (k : Nat) : DWord := BitVec.ofNat 64 (k * 2 ^ 40 + 7)
     fmtScaled ((w 7).extractLsb' 40 4) = true ∧
     fmtScaled ((w 0).extractLsb' 40 4) = false ∧ 8 * ((w 0).extractLsb' 0 40).toNat % fmtBits ((w 0).extractLsb' 40 4) ≠ 0 ∧
     fmtScaled ((w 9).extractLsb' 40 4) = false ∧ 8 * ((w 9).extractLsb' 0 40).toNat % fmtBits ((w 9).extractLsb' 40 4) = 0) := by decide +kernel

/-- A fill whose chunk of 64 units ends with the TCM. -/
theorem witness_CopyFill :
    let f : CopyF := ⟨3, 1, 2, 3, 2, 2, 2, false⟩
    let fl : Flight := { p := { instr := .xfill 0 1 2 3 f, d := 0xC00, a := 7, b := 0x400, started := true }, waits := [], k := 64, chunk := 128 }
    f.dsp = 2 ∧ f.rb = false ∧ fl.got = none ∧ fl.k < fl.chunk ∧ fl.chunk ≤ fl.k + 64 ∧ fl.p.d.toNat % 8 = 0 ∧
    fl.p.d.toNat + 8 * fl.chunk ≤ ((task []).gangOf 0).tcmBlocks * 4096 ∧ fl.p.d.toNat + 8 * fl.chunk < 2 ^ 64 := by decide +kernel

/-- A task with a record table of three records on die 0. -/
def recTask (s : SMap DWord) : State := mk { core0 s with ctl := { ctl0 s with rtseg := [(0, 0x0000000300000010)] } }

theorem witness_Statistics :
    let s := recTask [(1, 2), (2, 0x00900000), (3, 3), (4, 0x1FFFFF), (5, 0x200000), (6, 0xF80)]
    Ready s 0xF ∧ ((reg s 4).toNat < 2 ^ 21 ∧ s.core.str.queue.length < 16) ∧ 2 ^ 21 ≤ (reg s 5).toNat ∧
    ((reg s 1).toNat < 2 ^ 20 ∧ recAddr s.core ((reg s 1).setWidth 20) = some 0x8000000900 ∧ armOk (reg s 2) = true) ∧
    recAddr s.core ((reg s 3).setWidth 20) = none ∧
    ((reg s 6).toNat % 8 = 0 ∧ (reg s 6).toNat + 128 ≤ (s.gangOf s.cur).tcmBlocks * 4096 ∧ (reg s 6).toNat + 128 ≤ 2 ^ 64) ∧
    recBad s s.cur 0x8000000900 = false ∧ counted s s.cur = false ∧ usable s (dieOf s.cur) 0x8000000900 = true ∧
    usable { s with ready := 0 } 2 0x8000000900 = false ∧
    (let f := combTask []
     combEmpty (flushAll f f.cur).core = true ∧ combEmpty (flushAll (spent f) f.cur).core = false ∧
     (let own (i : BitVec 20) (_ : Nat) (e : Comb) : Bool := e.id == i
      combClear (flushComb (spent f) f.cur (own 2)).core (own 2) = true ∧ combClear (flushComb (spent f) f.cur (own 1)).core (own 1) = false)) :=
  ⟨ready_task [], by decide +kernel⟩

/-- A supervisor of a task, and one without, with the slots of the gang in the den. -/
def slotted (gang : Nat) (s : SMap DWord) : State :=
  { mk { core0 s with gang := gang, ctl := { ctl0 s with priv := 1 } } with
    gangs := [(192, { gang0 with slots := [denDefault 0, denDefault 0 + 0x200000] })] }
/-- Nothing in flight holds a pin, and no trace a page. -/
theorem slotted_free (g : Nat) (s : SMap DWord) :
    (∀ m, ((slotted g s).coreN m).cpy.flight = [] ∧ ((slotted g s).coreN m).vec.cv = none) ∧ ∀ k, ((slotted g s).dbgOf k).trcPins = [] := by
  refine ⟨fun n => ?_, fun _ => rfl⟩
  by_cases h : n = 0
  · subst h; exact ⟨rfl, rfl⟩
  · simp [slotted, mk, State.coreN, smGet, Ne.symm h]

theorem witness_SystemPrivilege :
    (task []).core.ctl.priv = 0 ∧ Ready (slotted 192 []) 0 ∧ Ready (slotted 0 []) 0 ∧
    (let s := slotted 192 [(1, 0x008004800000), (2, 1023), (4, 1)]
     s.core.ctl.priv ≠ 0 ∧ s.cur < 192 ∧ (reg s 2).toNat < 2 ^ 10 ∧ (reg s 1).toNat % 4096 = 0 ∧ slotOwner s (reg s 1).toNat = some (192, 0) ∧
     (reg s 4).toNat < 2 ∧ (s.gangN 192).asid = s.core.asid ∧ s.core.hasTask = true ∧ s.core.ctxOp = none) ∧
    (let s := slotted 0 []
     s.core.hasTask = false ∧ s.core.ctxOp = none ∧
     slotOk { s with mem := memWr [] (denDefault 0) 8 (2 * 2 ^ 56 + 5 * 2 ^ 32) } (denDefault 0) (s.gangN 192).asid (s.gangN 192).tcmBlocks = true) ∧
    ((slotted 192 []).upd fun c => c.updCtl fun k => { k with event := 8 }).core.ctl.event ≠ 0 ∧
    ((∀ m, ((slotted 192 []).coreN m).cpy.flight = [] ∧ ((slotted 192 []).coreN m).vec.cv = none) ∧ ∀ k, ((slotted 192 []).dbgOf k).trcPins = []) :=
  have r (g : Nat) : Ready (slotted g []) 0 := ⟨.inr rfl, fun h => absurd h (by decide), fun h => absurd h (by decide), rfl, rfl⟩
  ⟨rfl, r _, r _, by decide +kernel, by decide +kernel, by decide +kernel, slotted_free _ _⟩

theorem witness_TrapEntry :
    (task []).core.ctl.priv = 0 ∧ ((sup []).core.ctl.priv = 1 ∧ (sup []).core.ctl.nest = false) ∧
    (let s := mk { core0 [] with ctl := { ctl0 [] with priv := 1, nest := true } }
     s.core.ctl.priv = 1 ∧ s.core.ctl.nest = true ∧ s.core.hasTask = true) ∧ State.reset.core.ctl.priv = 2 ∧
    (sup []).core.hasTask = false ∧
    (let s := { mk { core0 [] with ctl := { ctl0 [] with priv := 1 } } with
                launches := [(1, { queue := 0, asid := 5, id := 1, desc := [], home := 0, prio := 0, waiting := [], total := 1 })] }
     let g := s.gangOf 0
     s.core.ctl.priv = 1 ∧ s.core.ctl.nest = false ∧ s.core.hasTask = true ∧ g.life = .resident ∧ g.why = none ∧ gangHeld s g = false ∧
     (smFind s.launches g.launch).isSome = true) := by decide +kernel

theorem witness_EretRestores :
    let at' (pp : BitVec 2) (src : BitVec 3) (e v : VAddr) : Ctl :=
      { ctl0 [] with priv := 1, ppriv := pp, csrc := src, epc := e, vtrec := v }
    let s := mk { core0 [] with ctl := at' 0 1 0x4000 0x8000 }
    Ready (mk { core0 [] with ctl := at' 0 1 0x4000 0x8000 }) 0 ∧ s.core.ctl.priv ≠ 0 ∧
    (s.core.ctl.ppriv = 0 ∧ s.core.ctl.csrc = 1 ∧ s.core.ctl.vtrec.toNat % 4 = 0 ∧ s.core.ctl.epc.toNat % 8 = 0) ∧
    s.core.latched = false ∧ (0x8002 : VAddr).toNat % 4 ≠ 0 ∧ (0x4004 : VAddr).toNat % 8 ≠ 0 ∧ (0x4004 : VAddr).toNat % 4 = 0 ∧
    ¬ ((at' 1 1 0 0).ppriv = 0 ∧ (at' 1 1 0 0).csrc = 1) ∧
    -- a posted fault of each engine, with its instruction at the head
    (∀ e ∈ [2, 3, 4], ((BitVec.ofNat 64 (e * 2 ^ 55 + 0xFFFFFFFFFFFF)).extractLsb' 55 3).toNat = e ∧ (2 ≤ (4 : BitVec 3).toNat ∧ (4 : BitVec 3).toNat ≤ 4)) ∧
    (let w : Posted := { instr := .qrow 0 1 4 12, fault := some 4 }
     let q : Posted := { instr := .qstat 0 1 4 2 3, fault := some 4 }
     let g : Posted := { instr := .gupd 0 1 3 3 1, fault := some 0 }
     ({ queue := [w] } : Str).queue = w :: [] ∧ w.fault = some 4 ∧ (∀ h a n sp tk, w.instr ≠ .qstat h a n sp tk) ∧
     q.instr = .qstat 0 1 4 2 3 ∧ g.instr = .gupd 0 1 3 3 1) ∧
    -- a return with a request latched, and with a save of the handler under way
    (let t := { s with cores := [(0, { s.core with latched := true })] }
     t.core.hasTask = true ∧ t.core.ctl.ppriv = 0 ∧ t.core.latched = true ∧ (t.gangOf t.cur).why ≠ some .ctxsave) ∧
    (let t := { s with cores := [(0, { s.core with latched := true, ctxOp := some (0x8800, true, false) })], gangs := [(192, { gang0 with why := some .ctxsave })] }
     (t.gangOf t.cur).why = some .ctxsave ∧ t.core.ctxOp ≠ none) :=
  ⟨⟨.inr rfl, fun h => absurd h (by decide), fun h => absurd h (by decide), rfl, rfl⟩, by decide +kernel, by decide +kernel, by decide +kernel,
    by decide +kernel, by decide +kernel, by decide +kernel, by decide +kernel, by decide +kernel, ⟨rfl, rfl, fun _ _ _ _ _ => by simp, rfl, rfl⟩,
    by decide +kernel, by decide +kernel⟩

theorem witness_SystemInstructions :
    Ready (sup []) 0 ∧
    (let s := sup [(1, 0x2000), (2, 1023), (3, 1024), (4, 1025)]
     s.core.ctl.priv ≠ 0 ∧ s.core.ctl.event = 0 ∧ 2 ^ 10 ≤ (reg s 3).toNat ∧ (reg s 2).toNat < 2 ^ 10 ∧ (reg s 3).toNat = 2 ^ 10 ∧ 2 ^ 10 < (reg s 4).toNat ∧
     (∀ n, pinHeld (s.coreN n) (fun t => t.covers 1023 0x2000) = false) ∧ ∀ k, (s.dbgOf k).trcPins.any (fun t => t.covers 1023 0x2000) = false) ∧
    (mk { core0 [] with ctl := { ctl0 [] with priv := 1, event := 1 } }).core.ctl.event ≠ 0 := by
  refine ⟨ready_sup _, ⟨by decide +kernel, by decide +kernel, by decide +kernel, by decide +kernel, by decide +kernel, by decide +kernel, fun n => ?_,
    fun _ => rfl⟩, by decide +kernel⟩
  by_cases h : n = 0
  · subst h; rfl
  · simp [sup, mk, State.coreN, smGet, Ne.symm h, pinHeld]

theorem witness_ContextInstructions :
    let s := slotted 192 [(1, 0x0080048FF000), (2, 0x008004800000), (3, 1), (4, 2)]
    s.core.ctl.priv ≠ 0 ∧ 2 ≤ (reg s 4).toNat ∧ (reg s 3).toNat < 2 ∧ slotOwner s (denDefault 0) = some (192, 0) ∧
    (denDefault 0) % 4096 = 0 ∧ slotOwner s (denDefault 0 + 4096) = none ∧ (denDefault 0 + 1) % 4096 ≠ 0 ∧ (s.gangN 192).asid = s.core.asid ∧
    s.core.hasTask = true ∧ s.core.ctxOp = none ∧ (slotted 0 []).core.hasTask = false ∧
    (slotted 0 [(1, 0x008004800000)]).core.ctxOp = none ∧ ((s.upd fun c => { c with asid := 6 }).gangN 192).asid ≠ (s.upd fun c => { c with asid := 6 }).core.asid ∧
    (s.upd fun c => { c with ctxOp := some (denDefault 0, true, false) }).core.ctxOp ≠ none ∧ slotOk s (denDefault 0) 5 1 = false ∧
    slotOk { s with mem := memWr [] (denDefault 0) 8 (2 * 2 ^ 56 + 5 * 2 ^ 32) } (denDefault 0) 5 1 = true := by decide +kernel

theorem witness_HaltResults :
    Ready State.reset 0 ∧ State.reset.core.ctl.priv = 2 ∧ ((1 : Reg) ≠ 0) ∧
    (let s := sup [(1, 0), (2, 1), (3, 2), (4, 3)]
     s.core.ctl.priv = 1 ∧ reg s 1 = 0 ∧ reg s 2 = 1 ∧ reg s 3 = 2 ∧ 2 < (reg s 4).toNat ∧ s.core.ctl.ppriv = 0 ∧ s.core.hasTask = false) ∧
    (let s := mk { core0 [(2, 0x8800)] with savedAt := some 0x8800, ctl := { ctl0 [(2, 0x8800)] with priv := 1, ppriv := 1 } }
     s.core.hasTask = true ∧ s.core.savedAt = some (reg s 2).toNat ∧ s.core.ctl.ppriv ≠ 0 ∧ exitReady s.core = true ∧ s.recs = []) ∧
    (let s := mk { core0 [] with str := { queue := [{ instr := .qstop 0 1 }] }, ctl := { ctl0 [] with priv := 1 } }
     s.core.hasTask = true ∧ exitIdle s.core = false ∧ s.core.latched = false ∧ (s.upd fun c => { c with latched := true }).core.latched = true) :=
  ⟨⟨.inr rfl, fun h => absurd h (by decide), fun h => absurd h (by decide), rfl, rfl⟩, by decide +kernel⟩

theorem witness_RegisterOnlyFrame :
    let s := task [(1, 5), (2, 7)]
    Ready s 0xF ∧ (next? (exec (.add 0xF 3 1 2) s)).isSome = true ∧ (next? (exec (.fadd 0xF 3 1 2) s)).isSome = true ∧
    (next? (exec (.fcvt 0xF 3 1 0 0 0) s)).isSome = true ∧ (next? (exec (.lpidx 0xF 3 7) s)).isSome = true := ⟨ready_task _, by decide +kernel⟩

/-! ### The V-stream -/

/-- An instruction's fields: destination row 4, sources rows 0 and 2, mask row 6. -/
def vf0 : VF := ⟨0, .view (.row 4), some ⟨.row 6, false⟩, .view (.row 0), .view (.row 2), false, false, true⟩
/-- A convoy of one member at its last run, from element `lo` to `hi`. -/
def convoy0 (i : Instr) (lo hi : Nat) : Convoy where
  pc := 0x4000
  next := 0x4008
  members := [i]
  encs := [0]
  restartable := true
  v0 := 0
  n := 6
  lo := lo
  hi := hi
  todo := [i]
  last := true
  e := [(1, 0x40), (2, 5), (3, 8)]
/-- A vector engine with 6 elements of a width, an element of the mask and of the fragment missing. -/
def vcore (sew : BitVec 2) : Core :=
  { core0 [] with
    vec := { halted := false, vl := 6, sew := sew, frag := BitVec.allOnes 12288 &&& ~~~0x20#12288 }
    grd := { cells := [(0, 0x3F800000), (1, 5), (768, 3), (2304, 1), (2305, 1), (2306, 1)] } }
/-- The module with a convoy in flight. -/
def vrun (sew : BitVec 2) (_i : Instr) (cv : Convoy) : State := let c := vcore sew; mk { c with vec := { c.vec with cv := some cv } }

/-- A convoy of any one instruction is running. -/
theorem running (sew : BitVec 2) (i : Instr) (lo hi : Nat) : Running (vrun sew i (convoy0 i lo hi)) i (convoy0 i lo hi) := ⟨rfl, rfl⟩

theorem witness_VectorArithmetic :
    Running (vrun 2 (.vadd 2 vf0) (convoy0 (.vadd 2 vf0) 0 6)) (.vadd 2 vf0) (convoy0 (.vadd 2 vf0) 0 6) := running ..

/-- An element of each kind that the statement distinguishes: selected, not selected, outside the fragment, in the tail, outside
the run. -/
theorem witness_VectorElementWise :
    let i : Instr := .vadd 2 vf0
    let c := vcore 2
    vf0.d = .view (.row 4) ∧ vCount c i vf0 = 6 ∧ vCount c i vf0 ≤ vMax c 32 (.row 4) ∧
    (inFrag c 0 = true ∧ maskSel c i vf0 0 = true) ∧ (inFrag c 4 = true ∧ maskSel c i vf0 4 = false) ∧ inFrag c 5 = false ∧
    6 < vMax c 32 (.row 4) ∧ (∀ k, k < 2 → ¬ (2 ≤ k ∧ k < 6)) ∧ ((32 : Nat) = 8 ∨ (32 : Nat) = 16 ∨ (32 : Nat) = 32) := by decide +kernel

theorem witness_VectorSelectAndCount :
    (∀ i ∈ [Instr.vsel vf0, .vid vf0, .vrand vf0, .vdrop vf0], Running (vrun 2 i (convoy0 i 0 6)) i (convoy0 i 0 6)) ∧
    (let f := { vf0 with d := .ereg 7 }
     f.d = .ereg 7 ∧ (convoy0 (.vmpop f) 0 6).lo = 0 ∧ vCount (vcore 2) (.vmpop f) f ≤ (convoy0 (.vmpop f) 0 6).hi ∧
     (∀ k, k < 6 → isActive (vcore 2) (.vmfirst f) f k = true → srcElem (vcore 2) (convoy0 (.vmfirst f) 0 6) 32 f.a k % 2 = 1 → k = 1)) :=
  ⟨fun i _ => running 2 i 0 6, by decide +kernel⟩

theorem witness_ConversionResults :
    let f (b : BitVec 8) : VF := { vf0 with b := .imm b }
    (∀ i ∈ [Instr.vcvt (f 0x80), .vcvtSat (f 0), .vdequant (f 3), .vunpack (f 5)], Running (vrun 2 i (convoy0 i 0 6)) i (convoy0 i 0 6)) ∧
    ((immOf (f 0x80).b).extractLsb' 5 3).toNat = 4 ∧ (f 3).a = .view (.row 0) :=
  ⟨fun i _ => running 2 i 0 6, by decide⟩

/-- Control registers whose record is of each listed format. -/
theorem witness_VectorQuantise :
    let f : VF := { vf0 with b := .ereg 2 }
    let g : VF := { vf0 with b := .imm 0x43 }
    (∀ i ∈ [Instr.vquant f, .vbquant g, .vpack g], Running (vrun 2 i (convoy0 i 0 6)) i (convoy0 i 0 6)) ∧
    (∀ k ∈ [3, 4, 5, 9], (cfgFmt (BitVec.ofNat 32 (recWord ((List.replicate 128 (0 : Byte)).set 22 (BitVec.ofNat 8 (16 * k))) 5))).toNat = k) ∧
    fmtFloat ((immOf g.b).extractLsb' 0 4) ≠ none ∧ ((immOf g.b).extractLsb' 4 3).toNat = 4 ∧ { g with tailAgn := true }.tailAgn = true ∧ g.d = .view (.row 4) :=
  ⟨fun i _ => running 2 i 0 6, by decide +kernel⟩

theorem witness_ReductionResults :
    let f : VF := { vf0 with d := .ereg 7 }
    (∀ i ∈ [Instr.vredAdd 2 f, .vscanAdd 2 vf0, .vredXor vf0, .vscanXor vf0], Running (vrun 2 i (convoy0 i 0 6)) i (convoy0 i 0 6)) ∧
    f.d = .ereg 7 ∧ vf0.d = .view (.row 4) ∧ vf0.b ≠ .absent ∧ { vf0 with b := .absent }.b = Spec.absent := ⟨fun i _ => running 2 i 0 6, by decide⟩

theorem witness_IntegerTree :
    0 < 8 ∧ [none, some 0, none, some 255].length ≤ 16384 ∧ (∀ x ∈ [none, some 0, none, some 255], ∀ v, x = some v → v < 2 ^ 8) ∧ (∀ x ∈ [(none : Option Nat)], ∀ v, x = some v → v < 2 ^ 8) := by
  refine ⟨by decide, by decide, ?_, ?_⟩ <;> simp

theorem witness_VectorMovement :
    let f : VF := { vf0 with b := .ereg 2 }
    (∀ i ∈ [Instr.vslideUp f, .vslideDown f, .vperm vf0, .vbcst vf0, .vexpand vf0, .vcompress vf0, .vstat f],
      Running (vrun 2 i (convoy0 i 0 6)) i (convoy0 i 0 6)) ∧ vf0.d = .view (.row 4) ∧ f.b = .ereg 2 := ⟨fun i _ => running 2 i 0 6, by decide⟩

theorem witness_VectorMemory :
    let f : VF := { vf0 with a := .ereg 1, b := .absent }
    let p : VF := { vf0 with a := .port 4, b := .absent }
    (∀ i ∈ [Instr.vld 2 f, .vst 2 f, .vgath 2 f, .vscat 2 f, .vsaddI 2 f, .vsaddF 2 f, .vldq p, .vstq p],
      Running (vrun 2 i (convoy0 i 0 6)) i (convoy0 i 0 6)) ∧ f.a = .ereg 1 ∧ f.d = .view (.row 4) ∧ (p.a = .port 4 ∧ p.d = .view (.row 4)) ∧
    (let cv := convoy0 (.vst 2 f) 0 6
     cv.probe = false ∧ { cv with probe := true }.probe = true ∧ cv.mem = false ∧ cv.part = none ∧ { cv with mem := true, mlo := 2 }.mem = true ∧
     (vcore 2).vec.strec.getLsbD 20 = false ∧ (0x100000 : DWord).getLsbD 20 = true) ∧
    (let i : Instr := .vsaddF 2 f
     let cv := convoy0 i 0 6
     ((Tables.memTodo i f (vcore 2) cv).map fun k => (strideArg 2 f .amo (vrun 2 i cv) cv k).ea).Nodup ∧
     Tables.memTodo i f (vcore 2) cv = [0, 1, 2]) := ⟨fun i _ => running 2 i 0 6, by decide +kernel⟩

/-- A core with indices in row 2 and a walk in its TCM, and a convoy of three elements in flight on it. -/
def tcmCore : Core :=
  strPut { core0 [] with vec := { halted := false, vl := 6, sew := 2, frag := BitVec.allOnes 12288 }
                         grd := { cells := [(768, 3), (769, 0xFFFFFFFF), (770, 0)] } } 4
    { base := 0xFF0, sp := 2, count := [(0, 6)], stride := [(0, -1)], fmt := 0, target := 1, active := true }
def tcmConvoy (i : Instr) (base : DWord) : Convoy := { convoy0 i 0 3 with e := [(9, base)], qpos := some (4, 5) }
def tcmRun (i : Instr) (base : DWord) : State :=
  let c := tcmCore
  mk { c with vec := { c.vec with cv := some (tcmConvoy i base) } }
/-- Elements of an instruction that lie apart in the allotment. -/
def tcmFit (i : Instr) (f : VF) (addr : Nat → Int) (l : List Nat) : Bool :=
  l.all (fun k => decide (k < vCount tcmCore i f) && decide (0 ≤ addr k) && decide (addr k % 4 = 0) && decide (addr k < 0x1000)) &&
    decide (l.map addr).Nodup

/-- Elements at the end of the allotment, by a stride, by an index of both signs, and along a walk. -/
theorem witness_VectorMemory_tcm :
    let f : VF := { vf0 with a := .ereg 9, b := .imm 0xF8 }
    let g : VF := { vf0 with a := .ereg 9, b := .view (.row 2) }
    let p : VF := { vf0 with a := .port 4, b := .absent }
    (∀ (i : Instr) (b : DWord), Running (tcmRun i b) i (tcmConvoy i b)) ∧
    (∀ i ∈ [Instr.vst 2 f, .vscat 2 g, .vldq p], let cv := tcmConvoy i 0xFF0
      cv.probe = false ∧ cv.mem = false ∧ cv.beyond = [] ∧ cv.cmask = 0 ∧ cv.mlo ≤ cv.lo ∧ eregGet cv.e 9 = 0xFF0) ∧
    (tcmCore.vec.strip = [] ∧ tcmCore.tcmPoison = [] ∧ ((tcmRun (.vldq p) 0).gangOf 0).tcmBlocks * 4096 = 0x1000) ∧
    (vSew tcmCore = 32 ∧ (0xF8 : BitVec 8).toInt = -8) ∧ tcmFit (.vst 2 f) f (fun k => (0xFFC : Nat) + k * (-8 : Int)) [0, 1, 2] = true ∧
    tcmFit (.vscat 2 g) g (fun k => (0xFF0 : Nat) + toS 32 (elemGet tcmCore.grd (.row 2) 32 k) * 4) [0, 1, 2] = true ∧
    (let r := strGet tcmCore 4
     r.sp = 2 ∧ fmtBytes r.fmt = 4 ∧ tcmFit (.vstq p) p (fun k => (r.addr ((5 + (k - 0)) % r.total)).1.toNat) [0, 1, 2] = true) := by
  refine ⟨fun i b => ⟨rfl, rfl⟩, by decide +kernel, by decide +kernel, by decide +kernel, by decide +kernel, by decide +kernel, by decide +kernel⟩

/-- A load whose last element ends with the allotment. -/
theorem witness_VectorTcmLoad :
    let f : VF := { vf0 with a := .ereg 9, b := .absent }
    let i : Instr := .vld 2 f
    let cv := { convoy0 i 0 6 with e := [(9, 0xFE8)] }
    let s := vrun 2 i cv
    let base := (eregGet cv.e 9).toNat
    Running s i cv ∧ cv.probe = false ∧ cv.mem = false ∧ cv.mlo ≤ cv.lo ∧ cv.cmask = 0 ∧ s.core.vec.strip = [] ∧ vCount s.core i f ≤ vMax s.core (vSew s.core) (.row 4) ∧
    base % 4 = 0 ∧ base + 4 * cv.hi ≤ (s.gangOf s.cur).tcmBlocks * 4096 ∧ base + 4 * cv.hi < 2 ^ 64 ∧
    ∀ k, k < 6 → (base + 4 * k) / 8 ∉ s.core.tcmPoison := ⟨⟨rfl, rfl⟩, by decide +kernel⟩

theorem witness_ScalarMembers :
    let f : VF := { vf0 with d := .ereg 15, a := .ereg 0, b := .ereg 2 }
    -- the forms without an A operand, and that without a D operand
    let g : VF := { f with a := .absent, b := .absent }
    let p : VF := { f with d := .absent, b := .absent }
    (∀ i ∈ [Instr.eadd f, .esub f, .emul f, .eaddi { f with b := .imm 0x80 }, .eli g 0x200000, .eget g 0x010, .epop g, .epush p],
      Running (vrun 2 i (convoy0 i 0 6)) i (convoy0 i 0 6)) ∧ f.d = .ereg 15 ∧ f.a = .ereg 0 ∧ f.b = .ereg 2 ∧
    g.d = .ereg 15 ∧ p.a = .ereg 0 :=
  ⟨fun i _ => running 2 i 0 6, by decide⟩

/-- Selected elements with and without others, and a full sett. -/
theorem witness_VectorControl :
    let f : VF := { vf0 with d := .ereg 2 }
    let g : VF := { vf0 with d := .absent, a := .ereg 1, b := .imm 0x2A }
    (∀ i ∈ [Instr.vsetvli g 6 2, .vsetvl g], Running (vrun 2 i (convoy0 i 0 6)) i (convoy0 i 0 6)) ∧ (g.d = .absent ∧ g.a = .ereg 1 ∧ g.b = .imm 0x2A) ∧
    (∀ i ∈ [Instr.vbr f 3, .vbrm f 3, .vjal f 3, .vret f, .vbrd f 3, .vjoin f, .vsetvli f 6 2, .vsetvl f, .vhalt f, .vtrap f, .vrel vf0, .vfence f],
      Running (vrun 2 i (convoy0 i 0 6)) i (convoy0 i 0 6)) ∧
    (let cv := convoy0 (.vbr f 3) 0 6
     eregGet cv.e 2 ≠ 0 ∧ eregGet cv.e 4 = 0) ∧
    (Tables.selected (vcore 2) (.vbrd f 3) f true 0 ∧ Tables.selected (vcore 2) (.vbrd f 3) f false 4) ∧
    (∀ k, ¬ Tables.selected { vcore 2 with vec := { vl := 0, sew := 2 } } (.vbrd f 3) f true k) ∧
    (let e : SettE := { pc := 0x7000, set := 3 }
     (List.replicate 7 e).length < 8 ∧ 8 ≤ (List.replicate 8 e).length ∧ e.running = false ∧ { e with running := true }.running = true) ∧
    ({ (vcore 2).vec with ret := [(0x9000, 5)] } : Vec).ret = (0x9000, 5) :: [] := by
  refine ⟨fun i _ => running 2 i 0 6, by decide, fun i _ => running 2 i 0 6, by decide +kernel, ⟨⟨by decide +kernel, by decide +kernel, by decide +kernel⟩,
    by decide +kernel, by decide +kernel, by decide +kernel⟩, fun k h => ?_, by decide +kernel⟩
  exact absurd h.1 (Nat.not_lt_zero k)

theorem witness_RetirementCommits :
    let i : Instr := .vrel vf0
    let cv := convoy0 i 0 6
    let s := vrun 2 i cv
    (s.coreN 0).vec.cv = some cv ∧ cv.last = true ∧ (s.coreN 0).frozen = false ∧ (s.coreN 0).run ≠ .free ∧ cv.ovf = none ∧
    cv.brdFull = false ∧ cv.vtrap = none ∧ cv.contrib = [] ∧ cv.fence = none ∧ cv.watch = none ∧ cv.fails = [] ∧ (s.coreN 0).vec.brdMark = false := by
  decide +kernel

/-- V-stream code at address 0 of ASID 0, before an engine that may issue it. -/
def vcode (l : List Word) : State :=
  let s := State.reset.withFetchWord 64 0
  { s with agenda := [], mem := memPut s.mem 0x8000009000 (l.flatMap fun (w : Word) => leBytes w.toNat 4) }.upd fun c =>
    { c with hal := [(4, 1), (7, 1)], ctl := { c.ctl with priv := 0 }, vec := { c.vec with halted := false, vl := 6, img := none } }
/-- The convoy that is fetched, and that its engine may look at it. -/
def issued (l : List Word) (n : Nat) : Prop :=
  let s := vcode l
  (encs? (fetchConvoy 0 4 s (s.coreN 0).vec.pc []).2).map List.length = some n ∧ engOk (s.coreN 0) = true ∧
    heldBack (s.coreN 0) 3 = false ∧ (s.coreN 0).vec.halted = false ∧ (s.coreN 0).vec.trapped = false ∧ (s.coreN 0).vec.cv = none ∧
    (s.coreN 0).vec.after = [] ∧ bkptFind s 0 true 0 0 = none

/-- A convoy that passes, and one whose group runs over the rows of the grid. -/
theorem witness_ConvoyIssue :
    let good : Instr := .vadd 2 ⟨0xC, .view (.row 4), none, .view (.row 0), .view (.row 2), false, false, true⟩
    let bad : Instr := .vadd 2 ⟨0, .view (.row 255), none, .view (.row 0), .view (.row 2), false, false, true⟩
    let early (c : Core) (l : List Word) : Option (BitVec 8 × DWord) :=
      let e : List DWord := [(l.getD 1 0) ++ (l.getD 0 0)]
      (order2 e).or ((order3 c ((e.filterMap decEnc).zip e)).or (order4 c ((e.filterMap decEnc).zip e)))
    issued (encode good) 1 ∧ early ((vcode []).coreN 0) (encode good) = none ∧
    (let c := (vcode (encode good)).coreN 0
     let m2 := [good].zip ((encs? (fetchConvoy 0 4 (vcode (encode good)) c.vec.pc []).2).getD [])
     let cv := mkConvoy (vcode (encode good)) 0 [] [good]
     mayIssue c [good] cv false = true ∧ order6 c m2 = none ∧ codes (vcode (encode good)) 0 cv m2 = [] ∧ [good].any eFromGrid = false ∧
     cPorts c m2 = none ∧ order6Sett c m2 = none ∧ heldGet c 4 = 0 ∧ heldGet c 7 = 0 ∧
     c.vec.stop.waits = false ∧ c.vec.brdMark = false ∧ popsOf [good] = 0) ∧
    issued (encode bad) 1 ∧ early { (vcode []).coreN 0 with vec := { (vcore 2).vec with grp := 1 } } (encode bad) ≠ none := by
  refine ⟨?_, by decide +kernel, by decide +kernel, ?_, by decide +kernel⟩ <;> (unfold issued; decide +kernel)

/-! ### Events -/

/-- A `qfill` of two steps at the head of the stream queue, with an active register and a queue of entries before it. -/
def filling (mask : BitVec 24) (n : Nat) : State :=
  let r : StreamReg := { base := 0x40, sp := 2, count := [(0, 512)], stride := [(0, 4)], fmt := 2, active := true, mcast := mask }
  let p : Posted := { instr := .qfill 0 1 (.stream 4) (.stream 4) 1 1, a := 2, waited := true, started := true }
  mk { core0 [] with str := { q := [(4, r)], queue := [p], qa := List.replicate n { fmt := 2, elems := [] } } }
def fillFlight : Flight :=
  { p := { instr := .xfill 0 1 2 3 ⟨3, 1, 2, 3, 2, 2, 2, false⟩, started := true, b := 64 }, waits := [] }

theorem witness_SignalAndFillEvents :
    (let c := { core0 [] with hal := [(0, 62), (9, 63)], held := [(0, 1), (9, 1)] }
     0 < heldGet c 0 ∧ halGet c 0 < 63 ∧ c.frozen = false ∧ heldGet c 5 = 0 ∧ 63 ≤ halGet c 9) ∧
    (let tok : SMap Token := [(3, { pending := true, scope := 2 })]
     tokReady { core0 [] with cpy := { tok := tok } } 3 = true ∧ tokReady { core0 [] with cpy := { tok := tok, flight := [fillFlight] } } 3 = false) ∧
    ((core0 []).vec.prof = none ∧ ({ (core0 []).vec with prof := some (0x4000, 2, 1, 9) } : Vec).prof ≠ none) ∧
    (let s := filling 0 15
     let p := s.core.str.queue.headD { instr := .gchk 0 }
     let r := strGet s.core 4
     strReady s.core = some p ∧ sideOf p false = some (.stream 4, 2) ∧ sideDone p false < 2 ∧ fillBad s.core p = none ∧ r.mcast = 0 ∧
     (sideQueue s.core false).length < 16) ∧ (strGet (filling 3 16).core 4).mcast ≠ 0 ∧
    ((1 : BitVec 3) ≠ 0 ∧ (strGet (core0 []) 4).illegal 0 = true ∧ (0 : BitVec 5).toNat = (core0 []).rank) ∧ strReady (core0 []) = none ∧
    (let c := { core0 [] with cpy := { flight := [fillFlight] } }
     (flReady (mk c) 0).find? (flSlot · == 3) = some fillFlight ∧ flForms fillFlight = true ∧ cpyAlive c = true ∧
     xView fillFlight.p.instr = some (.fill, 0, ⟨3, 1, 2, 3, 2, 2, 2, false⟩)) := by
  decide +kernel

/-- A `gupd` on half 1, whose rows are in state G, with just the entries of an update. -/
theorem witness_GridEvents :
    let p : Posted := { instr := .gupd 0 1 3 3 1, a := 1, waited := true, started := true }
    let e : QEntry := { fmt := 3, elems := [] }
    let rows : SMap RowSt := (List.range 128).map fun i => (i, .g)
    let (na, nb) := shapeOf 3 1
    let c := { core0 [] with grd := { queue := [p], rows := rows }, str := { qa := List.replicate na e, qb := List.replicate nb e } }
    let u : Upd := { qa := [], qb := [], half := 1, int := false, cols := 384, rows := 128, num := 0, pc := 0, last := true, h := 0 }
    (grdReady c = some p ∧ p.prog < p.a.toNat ∧ (∀ i ∈ halfRows 1, rowGet c.grd i = .g) ∧ na ≤ c.str.qa.length ∧ nb ≤ c.str.qb.length ∧
      (∀ x ∈ c.str.qa.take na, x.fmt = 3) ∧ ∀ x ∈ c.str.qb.take nb, x.fmt = 3) ∧
    (u.cols ≤ 384 ∧ u.half ≠ 3 ∧ grdAlive (core0 []) = true ∧ (core0 []).grd.issued = [] ∧ (∀ x ∈ [u], x.last = true)) ∧
    (let d := { core0 [] with grd := { rows := [(3, .gr), (255, .gr)], issued := [u] } }
     engOk d = true ∧ rowGet d.grd 255 = .gr ∧ (∀ x ∈ d.grd.issued, halfHas x.half 255 = false) ∧
     ∀ j, j < 255 → rowGet d.grd j ≠ .gr ∨ ∃ x ∈ d.grd.issued, halfHas x.half j = true) := by decide +kernel

theorem witness_GridAndStreamEngines :
    let c := { core0 [] with grd := { rows := [(254, .g), (255, .g)] } }
    (∀ i, (254 : BitVec 8).toNat ≤ i → i ≤ (254 : BitVec 8).toNat + (1 : BitVec 8).toNat → rowGet c.grd i = .g) ∧ c.grd.issued = [] ∧
    (254 : BitVec 8).toNat + (1 : BitVec 8).toNat < 256 ∧ (1 : Reg) ≠ 0 := by
  refine ⟨fun i h k => ?_, rfl, by decide, by decide⟩
  have h' : i = 254 ∨ i = 255 := by
    simp at h k; omega
  rcases h' with rfl | rfl <;> rfl

/-- A task at an instruction at address 0. -/
def atInstr (i : Instr) (f : Core → Core) : State :=
  let s := State.reset.withFetchWord 64 0
  { s with agenda := [], clock := 100, gangs := [(0, { gang0 with cores := [0] })],
           mem := memPut s.mem 0x8000009000 ((encode i).flatMap fun (w : Word) => leBytes w.toNat 4) }.upd fun c =>
    f { c with ctl := { c.ctl with priv := 0 } }

theorem witness_CoreEvents :
    (let t : PTrap := ⟨1, 0x0B, 0x4000, 5, 0⟩
     dueTrap { core0 [] with ptraps := [(1, some t)] } = some t) ∧ dueTrap (core0 []) = none ∧
    (let s := atInstr (.li 0 1 2) fun c => c.updCtl fun k => { k with arrHandler := 0x6000, arrMask := BitVec.allOnes 48, arrPend := 0x800000000000 }
     arrivalNow s 0 = true ∧ s.core.ctl.arrPend.getLsbD 47 = true ∧ ∀ j, j < 47 → s.core.ctl.arrPend.getLsbD j = false) ∧
    (let m : Mail := { src := 1, dst := 0, inbox := 15, data := 77, asid := 5, ack := false, slot := 1, addr := 0 }
     [m, { m with granted := true }].find? (fun m => m.dst == 0 && m.inbox == (15 : BitVec 4).toNat && m.granted && !m.arrived) =
       some { m with granted := true } ∧ m.ack = false) ∧
    (⟨0, 3⟩ : Ack) ∈ [(⟨0, 3⟩ : Ack)] ∧ (core0 []).frozen = false ∧ { core0 [] with inflight := [⟨6, 1⟩] }.inflight = ⟨6, 1⟩ :: [] ∧
    (let f : CopyF := ⟨3, 1, 2, 3, 2, 2, 2, false⟩
     let fl : Flight := { p := { instr := .xenq 0 1 2 3 f, partA := [(1, 0), (2, 0), (3, 0), (4, 0)] }, waits := [] }
     let c := { core0 [] with cpy := { flight := [fl] } }
     flGet c 3 = some fl ∧ xView fl.p.instr = some (.enq, 0, f) ∧ cpyAlive c = true ∧ fl.p.partA.length = 4 ∧ fl.stopped = false) := by decide +kernel

theorem witness_CoreAndWaitEvents :
    (∀ i ∈ [Instr.waitge 0 1 2 { ord2 with rl := false }, .pause 0, .pendCad 0 1],
      let s := atInstr i id
      ctlAlive s.core = true ∧ s.core.ctl.exiting = false ∧ s.core.ctl.exitOwed = false ∧ s.core.latched = false ∧ instrAt s 0 = some i ∧ dueTrap s.core = none) ∧
    (let s := atInstr (.pause 0) fun c => c.updCtl fun k => { k with pauseEnd := some 100 }
     s.core.ctl.pauseEnd = some 100 ∧ (100 : DWord).toNat ≤ s.clock.toNat) ∧
    (let s := atInstr (.pendCad 0 1) id
     s.core.ctl.pendArrived = false ∧ s.core.ctl.cadTested = false ∧ cadenceOver { s with cur := 0 } 1 = true) := by decide +kernel

/-- A queue of two entries at address 0 of ASID 0, with a control block at 0x800. -/
def queue0 : Queue where
  asid := 0
  ctl := 0x800
  cls := 0
  ceiling := 3
  deadlineEnd := false
  home := 0
  vector := 1
  ring := 0
  ringLog := 1
  flog := 0x900
  flogLog := 0
  mlog := 0xA00
  mlogLog := 0
def posting (tail g : Nat) : State :=
  let s := State.reset.withFetchWord 64 0
  let at' (m : Mem) (o n v : Nat) : Mem := memWr m (0x8000009000 + o) n v
  { s with agenda := [], ready := 0x3FFFFFFFFFF, queues := [(3, queue0)],
           mem := at' (at' (at' (at' s.mem 0x800 4 tail) 24 8 g) 112 8 9) 0x840 4 0x77 }
def launch0 : Launch where
  queue := 3
  asid := 0
  id := 9
  desc := [0x1000, 0, 0, 2, 0, 0x77, 0, 0, 0x100000003, 0, 0, 0, 0, 0, 9, 0]
  home := 0
  prio := 0
  waiting := [(0, 0, 1)]
  total := 1

theorem witness_CommandProcessors :
    (let s := posting 2 24
     smFind s.queues 3 = some queue0 ∧ queue0.live = true ∧ queue0.qstatus = 0 ∧ readyBit s 38 = true ∧
     cpRead s 0 0 0x800 4 = some 2 ∧ 2 = (BitVec.ofNat 32 2 - queue0.head).toNat ∧ 0 < 2 ∧ 2 ≤ 2 ^ queue0.ringLog ∧
     (readEntry s queue0).map descOk = some true ∧ ringCancelled queue0 ((descWord (mkLaunch s 3 queue0 ((readEntry s queue0).getD [])) 5).setWidth 32) = false ∧
     ringCancelled { queue0 with cancels := [(0x77, 1)] } 0x77 = true ∧
     cpRead s 0 0 (0x800 + 0x40) 4 = some 0x77 ∧ BitVec.ofNat 32 0x77 ≠ queue0.cancelAck) ∧
    (readEntry (posting 2 25) queue0).map descOk = some false ∧ cpRead (posting 3 24) 0 0 0x800 4 = some 3 ∧ 2 ^ queue0.ringLog < 3 ∧
    readEntry (posting 1 24) { queue0 with ring := 0x10000 } = none ∧ cpRead (posting 0 24) 0 0 0x800 4 = some 0 ∧
    (let s := { posting 0 24 with cores := [], launches := [(1, launch0)] }
     readyBit State.reset 38 = false ∧ (candidates (markHeld s 0) 0).length = 1 ∧
     (candidates (markHeld s 0) 0).map (fun c => (place (markHeld s 0) 0 c).isSome) = [true]) ∧
    -- a guaranteed launch that finds no room is held, and one behind it waits
    (let big (g : Nat) : Launch := { launch0 with desc := launch0.desc.set 3 (BitVec.ofNat 64 (g + 2 ^ 51)) }
     let s := { posting 0 24 with cores := [], launches := [(1, big 20), (2, big 1)],
                                  gangs := [(192, { gang0 with guaranteed := true, g := 6 }), (193, { gang0 with guaranteed := true, g := 6, cluster := 1 })] }
     guarWaits 0 (big 20) = true ∧ guarRoom s 0 20 = false ∧ (smFind (markHeld s 0).launches 1).map (·.held) = some [0] ∧
     (∀ p ∈ (markHeld s 0).launches, p.1 = 2 → dF p.2.desc 3 51 1 = 1)) ∧
    ([5, 2].Nodup ∧ [5, 2].length = dF launch0.desc 3 0 5) := by decide +kernel

/-- A request in the management block. -/
def asking (op : Nat) (args : List Nat) : State :=
  let m := memWr (memWr [] State.reset.mgmtBase 4 1) (State.reset.mgmtBase + 0x10) 8 op
  { State.reset with ready := 0x3FFFFFFFFFF, asidtab := 0x8000000000,
                     mem := (args.zip (List.range args.length)).foldl (fun m p => memWr m (State.reset.mgmtBase + 0x18 + 8 * p.2) 8 p.1) m }

theorem witness_ManagementBlock :
    (let s := asking 1 [7, 0x8000010000, 16, 0, 0, 262144]
     readyBit s 38 = true ∧ memRd s.mem s.mgmtBase 4 = (memRd s.mem (s.mgmtBase + 8) 4 + 1) % 2 ^ 32 ∧ runBad s s.mgmtBase 256 = false ∧
     (memRd s.mem (s.mgmtBase + 4) 4 = 0 ∧ memRd s.mem (s.mgmtBase + 13) 3 = 0 ∧ memRd s.mem (s.mgmtBase + 0x80) 128 = 0) ∧
     memRd ({ s with mem := memWr s.mem (s.mgmtBase + 0xF8) 8 1 } : State).mem (s.mgmtBase + 0x80) 128 ≠ 0 ∧
     memRd s.mem (s.mgmtBase + 0x10) 8 = 1 ∧ (mgmtOp s).toOption.isSome = true ∧
     Tables.apart (asidEntry s (BitVec.ofNat 10 (mgmtArg s 0))) 16 s.mgmtBase 0x80) ∧
    (mgmtOp { asking 2 [7] with segs := [(28, 0), (29, 0), (30, 0), (31, 0)] }).toOption.isSome = true ∧
    (mgmtOp (asking 3 [15, 1, 65535, 5, 6])).toOption.isSome = true ∧ (mgmtOp (asking 4 [0])).toOption.isSome = false ∧
    (mgmtOp { asking 5 [3] with queues := [(3, queue0)] }).toOption.isSome = true ∧ (mgmtOp (asking 6 [])).toOption.isSome = false ∧
    memRd State.reset.mem State.reset.mgmtBase 4 = memRd State.reset.mem (State.reset.mgmtBase + 8) 4 := by
  unfold Tables.apart; decide +kernel

/-! ### Gangs, fabric, debug, power -/

/-- A gang with both its cores, at a clock. -/
def gangAt (g : Gang) (clk : DWord) : State :=
  { mk (core0 []) with gangs := [(192, g)], clock := clk, cores := [(0, core0 []), (1, { core0 [] with rank := 1 })] }
/-- A core that has stopped for its gang. -/
def stopped (exited : Bool) (r : Nat) : Core := { core0 [] with run := .stopped, latched := true, rank := r, ctl := { ctl0 [] with exited := exited } }
/-- A stopping gang, the save of rank 0 at a point, that of rank 1 committed or not. -/
def saveAt (op : Option (Nat × Bool × Bool)) (err : Bool) (other : Option Nat) (items : Bool) : State :=
  { gangAt { gang0 with life := .stopping, why := some .budget, slots := [denDefault 0, denDefault 0 + 0x200000] } 20 with
    cores := [(0, { stopped false 0 with ctxOp := op, ctxErr := err }), (1, { stopped false 1 with savedAt := other })]
    mem := if items then memWr [] (denDefault 0 + 0x30) 8 1 else [] }
/-- A saved guaranteed task of `g` ranks that is due on a cluster with four free cores and an elastic gang. -/
def reserving (g : Nat) (life : Life) : State :=
  { gangAt gang0 6000 with
    gangs := [(192, gang0), (193, { gang0 with guaranteed := true, life := life, period := 2, g := g, cores := [], resumeAt := 1 })]
    cores := (List.range 24).map fun i => (i, { core0 [] with run := if i < 2 then .run else if i < 20 then .stopped else .free }) }
/-- A rank whose exit has nothing left to wait for, beside one that is still there or has exited. -/
def exiting (other : Bool) : State :=
  { gangAt gang0 20 with cores := [(0, { core0 [] with ctl := { ctl0 [] with exiting := true } }), (1, stopped other 1)] }

/-- A launch of one guaranteed task of `g` ranks that waits on die 0. -/
def fresh (g : Nat) : Launch :=
  { launch0 with desc := launch0.desc.set 3 (g + 2 ^ 51), waiting := [] }

theorem witness_BudgetEvents :
    (let g := { gang0 with period := 1, cycles := 7 }
     smHas (gangAt g 6000).gangs 192 = true ∧ g.period ≠ 0 ∧ gangFrozen (gangAt g 6000) g = false ∧
     g.curPeriod < (6000 - g.base : DWord).toNat / (g.period * 6000) ∧ (5999 - g.base : DWord).toNat / (g.period * 6000) ≤ g.curPeriod ∧
     { g with ranOut := some 0 }.ranOut = some 0 ∧ g.ranOut = none ∧ g.life = .resident ∧ g.why = none ∧ g.doom = none ∧
     gangHeld (gangAt g 6000) g = false ∧
     ∀ m ∈ g.cores, dueTrap ((gangAt g 6000).coreN m) = none) ∧
    (let c : Machine.Class := { cperiod := 1 }
     c.num < (6000 : DWord).toNat / (c.cperiod * 6000) ∧ (5999 : DWord).toNat / (c.cperiod * 6000) ≤ c.num ∧ c.newFields = none ∧
     ({ newFields := some (true, 0, 5, 6) } : Machine.Class).cperiod = 0) ∧
    (let s := { mk { core0 [] with byteHeld := some (1, 5) } with classes := [(0, { kind := true })] }
     (s.coreN 0).byteHeld = some (1, 5) ∧ (s.coreN 0).hasTask = true ∧ (s.cls (classOf s 0)).kind = true ∧ (s.gangOf 0).reported10 = false) := by
  decide +kernel

theorem witness_GangLife :
    (let s := { gangAt { gang0 with life := .loading } 20 with cores := [(0, stopped false 0), (1, stopped true 1)] }
     Machine.loaded s 192 = true ∧ (s.gangN 192).why = none ∧ Machine.loaded (gangAt gang0 20) 192 = false) ∧
    (let s := gangAt { gang0 with period := 1 } 20
     smHas s.gangs 192 = true ∧ whyHolds s 192 .budget = true ∧ gangHeld s (s.gangN 192) = false ∧ (s.gangN 192).life = .resident ∧
     whyHolds s 192 .deadline = false) ∧
    (let need (s : State) : Nat := keptCores s 0 - ((freeCores s 0).length +
      ((gangsIn s 0).filter fun p => p.2.life == .stopping).foldl (fun a p => a + p.2.g) 0)
     reservationDue (reserving 4 .saved) 193 = true ∧ reservationDue (reserving 4 .resident) 193 = false ∧
      freshDue (reserving 4 .resident) = [] ∧ need (reserving 4 .saved) = 0 ∧ need (reserving 5 .saved) = 1 ∧
      ((gangsIn (reserving 5 .saved) 0).filter fun p => p.2.life == .resident && !p.2.guaranteed) = [(192, gang0)] ∧
      (reserving 5 .saved).gangN 192 = gang0 ∧ gang0.why = none ∧ gangHeld (reserving 5 .saved) gang0 = false ∧
      (reserving 5 .saved |>.gangN 193).cluster = 0 ∧
      (let s := { reserving 5 .resident with launches := [(1, { (fresh 5) with waiting := [(0, 0, 1)] })] }
       reservationDue s 193 = false ∧ freshDue s = [(0, 5)] ∧ need s = 1)) ∧
    (let s := exiting false
     let c := s.coreN 0
     ctlAlive c = true ∧ exits c = true ∧ exitReady c = true ∧ c.latched = false ∧ s.recs = [] ∧ 0 ∈ (s.gangOf 0).cores ∧
     (s.coreN 1).ctl.exited = false ∧ 1 ∈ (s.gangOf 0).cores) ∧
    (∀ e, combGet ((exiting false).coreN 0) e = []) ∧
    (∀ m ∈ ((exiting true).gangOf 0).cores, m ≠ 0 → ((exiting true).coreN m).ctl.exited = true) ∧ (exits (core0 []) = false) :=
  ⟨by decide +kernel, by decide +kernel, by decide +kernel, by decide +kernel, fun _ => rfl, by decide +kernel, rfl⟩

theorem witness_ContextSaves :
    (let s := saveAt none false none false
     let c := s.coreN 0
     c.frozen = false ∧ c.ctxErr = false ∧ coreStopped c = true ∧ c.ctxOp = none ∧ c.hasTask = true ∧ c.savedAt = none ∧
     saves (s.gangOf 0) = true ∧ (s.gangOf 0).slots[c.rank]? = some (denDefault 0) ∧ denFailed s (denDefault 0) = false ∧ saving c = false) ∧
    (let s := saveAt (some (denDefault 0, true, false)) false none true
     (s.coreN 0).ctxOp = some (denDefault 0, true, false) ∧ itemsDone s (denDefault 0) = true ∧ gangDrained s (s.gangOf 0) = true ∧
     1 ∈ (s.gangOf 0).cores ∧ (s.coreN 1).savedAt = none ∧ saving (s.coreN 0) = true ∧ (s.coreN 0).hasTask = true ∧ (s.coreN 0).ctxErr = false ∧
     denFailed s (denDefault 0) = false ∧ denFailed { s with poison := [(8, { failed := true })] } (denDefault 0) = true) ∧
    (let s := saveAt (some (denDefault 0, true, false)) false (some 8) true
     0 ∈ (s.gangOf 0).cores ∧ (∀ m ∈ (s.gangOf 0).cores, (s.coreN m).run = .stopped ∧ (m ≠ 0 → (s.coreN m).savedAt ≠ none)) ∧
     smFind s.launches (s.gangOf 0).launch = none ∧ (s.gangOf 0).doom = none) ∧ ((saveAt none true none false).coreN 0).ctxErr = true := by decide +kernel

/-- An inbound entry of 2 MiB of the shared SRAM of die 0 for peer 7, and a host aperture there. -/
def windowed : State :=
  { mk (core0 []) with inbound := [(0, BitVec.ofNat 64 (0x40000 * 2 ^ 21 + 7 * 4 + 1))], qhaBase := [(0, BitVec.ofNat 64 (0x100 * 2 ^ 31 + 3))] }

theorem witness_FabricAndHost :
    (ctlOf (0x8000000020 : BitVec 52).toNat ≠ none ∧ ctlOf (0x200000000000 : BitVec 52).toNat = none ∧ ctlOf 0x8000000020 = some 8 ∧
      ({ failed := true } : Poison).failed = true) ∧
    (readyBit (mk (core0 [])) 33 = true ∧ (smGet {} (mk (core0 [])).ports 17).retraining = false ∧
      (smGet {} ([(17, { retraining := true })] : SMap Port) 17).retraining = true ∧
      (let s := { State.reset with clocksOn := true }
       s.clocksOn = true ∧ readyBit s 33 = false ∧ s.failed.getLsbD 33 = false)) ∧
    (let s := mk (core0 [])
     enqCore 0x10F = 1 ∧ (s.coreN 1).hasTask = false ∧ enqCore 0xF = 0 ∧ enqLocal s 0xF = true ∧ ((0xF : DWord).extractLsb' 8 5).toNat < 24 ∧
     s.core.hasTask = true ∧ s.core.asid = 5 ∧ s.core.latched = false ∧ route s (portDie 17) (dieOf 0) ≠ none ∧ enqRoom s.core 15 = true ∧ s.mail = [] ∧
     (∀ x, x < 2 → enqWants 0 15 s x = false) ∧ enqRoom { core0 [] with grants := [(15, 64)] } 15 = false) ∧
    (readyBit windowed 16 = true ∧ readyBit State.reset 16 = false ∧
      smFind windowed.inbound (0x1FFFFF / 0x200000) = some (BitVec.ofNat 64 (0x40000 * 2 ^ 21 + 7 * 4 + 1))) ∧
    (inboundPa windowed 6 0 false = none ∧ inboundPa windowed 7 0x1FFFE0 false = some 0x80001FFFE0 ∧ poisoned windowed 0x80001FFFE0 = false ∧
      usable windowed 0 0x80001FFFE0 = true ∧ inboundPa windowed 7 0x1FFFFF true = some 0x80001FFFFF ∧ 0x1FFFFF % 0x200000 + 1 ≤ 0x200000 ∧
      poisoned { windowed with poison := [(8, { sectors := [0x80001FFFE0] })] } 0x80001FFFE0 = true ∧
      inboundPa windowed 6 0 true = none) ∧
    (hostRange windowed 0x7FFFFFFF 2 true = none ∧ hostRange windowed 5 3 true = some 0x8000000005 ∧ usable windowed 0 0x8000000005 = true ∧
      hostRange windowed 0x80000000 4 false = none ∧ hostRange windowed 5 3 false = some 0x8000000005 ∧
      (0x8000000005 / 32 = 0x400000000 ∧ ¬ 32 * (0x400000000 + 1) < 0x8000000005 + 3 ∧ poisoned windowed (32 * 0x400000000) = false) ∧ windowed.qhaLock = false ∧ { windowed with qhaLock := true }.qhaLock = true) ∧
    -- a port that is not ready, and a read of poison
    (let s := { windowed with ready := 0 }
     hostRange s 5 3 true = some 0x8000000005 ∧ readyBit s 16 = false) ∧
    (let s := { windowed with poison := [(8, { sectors := [0x8000000000] })] }
     hostRange s 5 3 false = some 0x8000000005 ∧ 0x8000000005 / 32 ≤ 0x400000000 ∧ 32 * 0x400000000 < 0x8000000005 + 3 ∧
     poisoned s (32 * 0x400000000) = true) := by
  decide +kernel

theorem witness_DebugEvents :
    (let s := { mk (core0 []) with dbg := [(0, { bkptAddr := [(7, 0x8000000000001000)], bkptSel := [(7, 1)] })] }
     (s.dbgOf 0).frozen = false ∧ (s.dbgOf 0).pending = false ∧ bkptDue s 0 = some 7 ∧ bkptDue (mk (core0 [])) 0 = none) ∧
    ((mk { core0 [] with watchHit := some (3, 4) }).coreN 0).watchHit = some (3, 4) ∧ ((mk (core0 [])).coreN 0).watchHit = none ∧
    (cluStopped { mk (core0 []) with dbg := [(0, { pending := true })] } 0 = true ∧ cluStopped (mk (core0 [])) 0 = false) ∧
    (let s := { mk (core0 []) with dbg := [(0, { frozen := true })] }
     (s.dbgOf 0).frozen = true ∧ (s.dbgOf 0).dump = [] ∧ (s.dbgOf 0).skid = [] ∧
     (∀ i, i < 24 → dueTrap { s.coreN (24 * 0 + i) with frozen := false } = none) ∧ 0x100000 + 24 * 0x200000 - 8 < 0x100000 + 24 * 0x200000) ∧
    ((mk (core0 [])).dbgOf 0).trcCtl.getLsbD 0 = false ∧ ({ trcCtl := 1 } : Dbg).trcCtl.getLsbD 0 = true := by decide +kernel

/-- The module at work without a task. -/
def idle : State := { State.reset with clocksOn := true, ready := 0x3FFFFFFFFFF, clock := 60000000 }

theorem witness_PowerAndBringUp :
    (gateOk idle 7 = true ∧ (idle.clu 7).waking = false ∧ (idle.clu 7).marching = false ∧ (idle.dbgOf 7).frozen = false ∧ gangsIn idle 7 = [] ∧
      (idle.dbgOf 7).trcCtl.getLsbD 0 = false ∧ gateOk { idle with dbg := [(7, { trcCtl := 1 })] } 7 = true ∧
      gateOk { idle with dbg := [(7, { frozen := true })] } 7 = false ∧ idle.clock.toNat + 4800 < 2 ^ 64) ∧
    (let s := { idle with clusters := [(7, { gateReq := true, drainEnd := some 60000000 })] }
     (s.clu 7).gateReq = true ∧ (s.clu 7).drainEnd = some 60000000 ∧ (60000000 : DWord).toNat ≤ s.clock.toNat ∧
     s.clock.toNat < (60000001 : DWord).toNat ∧ (idle.clu 7).gateReq = false) ∧
    (wakeDue { idle with clusters := [(7, { waking := true })] } 7 = true ∧ wakeDue idle 7 = false) ∧
    (let s := { mk (core0 []) with clusters := [(1, { hot := true })], bootstat := 0x20000 }
     smFind s.gangs 192 = some gang0 ∧ gang0.cluster = 2 * 0 + 0 ∧ gang0.life = .resident ∧ gang0.why = none ∧ (s.clu 0).marching = false ∧
     (s.clu 1).hot = true ∧ s.bootstat.getLsbD 17 = true ∧ s.bootstat.getLsbD 16 = false ∧ (s.clu 1).consol = false ∧ (s.clu 0).hot = false ∧
     gangHeld s gang0 = false ∧ (s.dbgOf 0).frozen = false ∧ (s.dbgOf 0).pending = false ∧ (s.clu 0).gated = false) ∧
    (let s := { State.reset with clocksOn := true, clusters := [(0, { hot := true })] }
     (s.clu 0).hot = true ∧ s.bootstat.getLsbD 16 = false ∧ (s.clu 0).consol = false ∧ s.clocksOn = true ∧ readyBit s 0 = false ∧
     (s.clu 0).marching = false ∧ (s.clu 0).waking = false ∧ route s 0 0 ≠ none) ∧
    (idle.clocksOn = true ∧ State.reset.clocksOn = false ∧ (idle.coreN 191).hasTask = false ∧ (idle.coreN 191).vec.prof = none ∧ (idle.clu (clusterOf 191)).gated = false ∧
      (mk (core0 [])).core.hasTask = true ∧ (idle.clu (clusterOf 191)).marching = false ∧ cluOpen idle (clusterOf 191) = true ∧
      ({} : Core).run = .free ∧ (sup []).core.run ≠ .free ∧ (sup []).core.hasTask = false) ∧
    (recInUse { (unpowered State.reset) with powered := true } 1 = none ∧
      canReady { idle with bootstat := 0xFF0000 } (7 : BitVec 6).toNat = true ∧ canReady idle (37 : BitVec 6).toNat = true ∧
      canReady idle (42 : BitVec 6).toNat = false ∧ canReady idle (38 : BitVec 6).toNat = false ∧
      (({ idle with clusters := [(0, { gated := true })] } : State).clu (clusterOf 0)).gated = true) ∧
    (marchOver { idle with clusters := [(7, { marching := true })] } 7 = true ∧ marchOver idle 7 = false) := by decide +kernel

/-- Whether a record's signature passes is free (log 5): a firmware record that passes is in use at power-on. -/
theorem witness_PowerAndBringUp_record (r : FlashRec) (s : State) (hr : recValid s.devPub r = true) (hk : r.kind = 1) :
    recInUse { s with flash := [r] } 1 ≠ none := by
  simp [recInUse, hr, hk]

/-! ### Posted instructions to their end -/

/-- A task with registers, every counter of its core above zero, and bytes in its TCM from `0x100` on. -/
def atWork (s : SMap DWord) : State :=
  mk { core0 s with tcm := memPut [] 0x100 ((List.range 64).map fun i => BitVec.ofNat 8 (i + 1))
                    hal := (List.range 10).map fun i => (i, 5) }
/-- A stream register whose walk is 384 words of the TCM from `0x100` on, at position 7. -/
def rowReg (tgt : BitVec 2) : StreamReg :=
  { base := 0x100, sp := 2, count := [(0, 384)], stride := [(0, 1)], fmt := 0, target := tgt, active := true, pos := 7 }
def streaming (tgt : BitVec 2) (s : SMap DWord) : State := (atWork s).upd fun c => strPut c 4 (rowReg tgt)
theorem rowReg_addr (tgt : BitVec 2) : ∀ i, i < 384 → ((rowReg tgt).addr ((7 + i) % 384)).1 = BitVec.ofNat 64 (0x100 + 4 * ((7 + i) % 384)) := by
  have h : ∀ i, i < 384 → ((rowReg 0).addr ((7 + i) % 384)).1 = BitVec.ofNat 64 (0x100 + 4 * ((7 + i) % 384)) := by decide +kernel
  exact h
theorem rowReg_total : ∀ tgt : BitVec 2, (rowReg tgt).total = 384 := by decide +kernel
theorem rowReg_pos : ∀ tgt : BitVec 2, (rowReg tgt).pos < (rowReg tgt).total := by decide +kernel
theorem streaming_walks (tgt : BitVec 2) (s : SMap DWord) (k : Nat) (hk : k ≤ 384) :
    Tables.walksTcm (streaming tgt s) (rowReg tgt) k := by
  refine ⟨rfl, rfl, (by decide : (8 : Nat) ≤ 32), rowReg_pos tgt, rfl, fun i hi => ?_⟩
  have h := rowReg_addr tgt i (by omega)
  have e := rowReg_total tgt
  have p : (rowReg tgt).pos = 7 := rfl
  have z : fmtBytes (rowReg tgt).fmt = 4 := (by decide : fmtBytes 0 = 4)
  have b : ((streaming tgt s).gangOf (streaming tgt s).cur).tcmBlocks = 1 := rfl
  rw [e, p, h, z]
  unfold Tables.inTcm
  rw [b, BitVec.toNat_ofNat]
  omega

theorem witness_StreamCompletes :
    (∀ (tgt : BitVec 2) (s : SMap DWord), Tables.MayWork (streaming tgt s) 0xF 1 ∧ (streaming tgt s).core.str.stopped = false ∧
      portHeld (streaming tgt s).core = false ∧ strGet (streaming tgt s).core 4 = rowReg tgt) ∧
    (let s := atWork [(1, 0xFF0), (2, 65535), (3, 0xFFFF800000000000), (4, 3)]
     formOnly s 2 (reg s 1) = none ∧ 1 ≤ (reg s 2).toNat ∧ (reg s 2).toNat ≤ 65535 ∧ ((reg s 3).setWidth 48).signExtend 64 = reg s 3 ∧
     (reg s 4).toNat < 2 ^ 24 ∧ (∀ i, i < 64 → (reg s 4).getLsbD i = true → i < (s.gangOf 0).g) ∧ (reg s 1).toNat < 2 ^ 48 ∧
     (3 : BitVec 5).toNat < (s.gangOf 0).tokens ∧ tokPending s.core 3 = false ∧ s.core.str.qa.length < 16 ∧ rowGet s.core.grd 12 = .v) ∧
    Tables.inTcm (atWork []) 0xFF0 16 16 ∧ ((rowReg 0).illegal 0 = false ∧ (rowReg 1).illegal 1 = false ∧ (rowReg 2).illegal 2 = false) ∧
    (rowReg 0).mcast = 0 ∧ (rowReg 2).recEn = false ∧ Tables.walksTcm (streaming 0 []) (rowReg 0) 128 ∧
    Tables.walksTcm (streaming 2 []) (rowReg 2) (384 * (32 / fmtBits (rowReg 2).fmt)) ∧
    (∀ i i', i < 384 → i' < 384 → i ≠ i' → ((rowReg 2).addr ((7 + i) % 384)).1 ≠ ((rowReg 2).addr ((7 + i') % 384)).1) := by
  refine ⟨fun tgt s => ⟨⟨⟨.inl rfl, rfl, rfl, (by decide : (0 : Nat) < 16)⟩, rfl, rfl, rfl, rfl⟩, rfl, rfl, rfl⟩, by decide +kernel, by unfold Tables.inTcm; decide +kernel,
    by decide +kernel, rfl, rfl, streaming_walks 0 [] 128 (by decide), streaming_walks 2 [] _ (by decide), fun i j hi hj h e => ?_⟩
  rw [rowReg_addr 2 i hi, rowReg_addr 2 j hj] at e
  have e := congrArg BitVec.toNat e
  simp only [BitVec.toNat_ofNat] at e
  omega

/-- That task with rows in state G and entries of a format. -/
def gridding (s : SMap DWord) : State :=
  (atWork s).upd fun c =>
    { c with grd := { c.grd with rows := (List.range 256).map fun i => (i, .g) }
             str := { c.str with qa := List.replicate 4 { fmt := 3, elems := [] }, qb := List.replicate 4 { fmt := 3, elems := [] } } }

theorem witness_GridCompletes :
    let s := gridding [(1, 1)]
    let c := s.core
    Tables.MayWork s 0xF 2 ∧ c.grd.stopped = false ∧ c.grd.issued = [] ∧ c.grd.owed = [] ∧ eligibleRow c = none ∧
    (250 : BitVec 8).toNat + (5 : BitVec 8).toNat < 256 ∧ (∀ i, 250 ≤ i → i ≤ 255 → rowGet c.grd i = .g) ∧ reg s 1 = 1 ∧ (1 : BitVec 2) ≠ 3 ∧
    (∀ i ∈ halfRows 1, rowGet c.grd i = .g) ∧ c.str.badA = [] ∧ c.str.badB = [] ∧ c.grd.cols ≤ 384 ∧
    (let na := (shapeOf 3 1).1
     let nb := (shapeOf 3 1).2
     na ≤ c.str.qa.length ∧ nb ≤ c.str.qb.length ∧ (∀ w ∈ c.str.qa.take na, w.fmt = 3 ∧ w.badElem = [] ∧ w.badScale = []) ∧
     ∀ w ∈ c.str.qb.take nb, w.fmt = 3 ∧ w.badElem = [] ∧ w.badScale = []) := by
  refine ⟨⟨⟨.inl rfl, rfl, rfl, by decide⟩, rfl, rfl, rfl, rfl⟩, rfl, rfl, rfl, by decide +kernel, by decide, fun i h k => ?_, rfl, by decide,
    by decide +kernel, rfl, rfl, by decide, by decide +kernel⟩
  have : ∀ i, i < 256 → 250 ≤ i → rowGet (gridding [(1, 1)]).core.grd i = .g := by decide +kernel
  exact this i (by omega) h

/-- That task with an index list at `0x300` in its TCM, and with one page of memory. -/
def indexed (s : SMap DWord) : State :=
  (atWork s).upd fun c => { c with tcm := memPut c.tcm 0x300 (leBytes 3 4 ++ leBytes (2 ^ 32 - 2) 4 ++ leBytes 7 4) }
def paged (s : SMap DWord) : State :=
  let m := fetchTables.foldl (fun m p => memWr m p.1 8 p.2) []
  { atWork s with mem := memWr (memWr m 0x8000000050 8 0x8000004001) 0x8000008000 8 0x8000009573, asidtab := 0x8000000000 }
def copy0 : CopyF := ⟨3, 1, 2, 3, 0, 2, 2, false⟩
theorem mayCopy (s : State) (m : Tables.MayWork s 0xF 4) (st : s.core.cpy.stopped = false) (fl : s.core.cpy.flight = [])
    (tk : s.core.cpy.tok = []) (g : (s.gangOf s.cur).tokens = 4) (tp : s.core.tcmPoison = []) :
    Tables.MayCopy s 0xF copy0 :=
  ⟨m, st, fl, rfl, fun t => by simp [tokPending, tokGet, tk, smGet], by rw [g]; decide, tp⟩

theorem witness_CopyCompletes :
    (∀ s : SMap DWord, Tables.MayCopy (atWork s) 0xF copy0) ∧ (∀ s : SMap DWord, Tables.MayCopy (indexed s) 0xF copy0) ∧
    (∀ s : SMap DWord, Tables.MayCopy (paged s) 0xF copy0) ∧ (copy0.dsp = 2 ∧ copy0.ssp = 2 ∧ copy0.scope = 0) ∧
    (let s := atWork [(1, 0xE00), (2, 0x100), (3, 3), (4, 512)]
     reg s 4 = BitVec.ofNat 64 (8 * 64) ∧ Tables.inTcm s 0xE00 (8 * 64) 8 ∧ Tables.inTcm s 0x100 (8 * 64) 8 ∧ 0x100 + 8 * 64 ≤ 0xE00 ∧
     (reg s 3).toNat < 2 ^ 24 ∧ (∀ r, r < 64 → (reg s 3).getLsbD r = true → r < (s.gangOf 0).g) ∧ (s.gangOf 0).coreAt 1 = some 1) ∧
    (let s := indexed [(1, 0x200), (2, 0x108), (3, 0x300), (4, BitVec.ofNat 64 (11 * 2 ^ 40 + 3))]
     let p (b e : Nat) : Nat := (b + toS 32 (valueAt s (.tcm 0 (0x300 + 4 * e)) 4) * 4 : Int).toNat
     reg s 4 = BitVec.ofNat 64 ((11 : BitVec 4).toNat * 2 ^ 40 + 3) ∧ Tables.inTcm s 0x300 (4 * 3) 4 ∧
     (xFmtOk .gath 11 = true ∧ xFmtOk .sadd 11 = true ∧ xFmtOk .red 11 = true) ∧
     (∀ b ∈ [0x108, 0x200], b < (s.gangOf 0).tcmBlocks * 4096 ∧ ∀ e, e < 3 →
       (p b e : Int) = b + toS 32 (valueAt s (.tcm 0 (0x300 + 4 * e)) 4) * 4 ∧ Tables.inTcm s (p b e) 4 4) ∧
     Tables.inTcm s 0x200 (4 * 3) 4 ∧ Tables.inTcm s 0x108 (4 * 3) 4 ∧
     (∀ e, e < 3 → ∀ e', e' < 3 → p 0x108 e ≠ 0x200 + 4 * e') ∧
     (∀ e, e < 3 → ∀ e', e' < 3 → p 0x200 e ≠ 0x108 + 4 * e' ∧ (e ≠ e' → p 0x200 e ≠ p 0x200 e'))) ∧
    (let s := paged [(1, 0xFE0), (2, 0xFC0), (4, 15)]
     (reg s 1).toNat % 32 = 0 ∧ (reg s 4).toNat < 16 ∧ (reg s 2).toNat % 32 = 0 ∧ (reg s 2).extractLsb' 56 4 = 0 ∧
     Tables.inTcm s 0xFFF 1 1) ∧
    (let s := { atWork [(1, 0x100), (2, 0xFE0)] with cores := (atWork [(1, 0x100), (2, 0xFE0)]).cores ++ [(1, { core0 [] with rank := 1 })] }
     let x := reg s 1
     x.toNat < 2 ^ 24 ∧ x.extractLsb' 4 4 = 0 ∧ (x.extractLsb' 8 5).toNat < 24 ∧ enqLocal s x = true ∧ Tables.inTcm s 0xFE0 32 32 ∧
     enqCore x = 1 ∧ (s.coreN 1).hasTask = true ∧ (s.coreN 1).asid = s.core.asid ∧ (s.coreN 1).latched = false ∧ dieOf 1 = dieOf 0 ∧
     enqRoom (s.coreN 1) 0 = true ∧ counted s 0 = false ∧ s.mail = [] ∧ (∀ j, j < 2 → enqWants 1 0 s j = false)) := by
  refine ⟨fun _ => mayCopy _ ⟨⟨.inl rfl, rfl, rfl, (by decide : (0 : Nat) < 16)⟩, rfl, rfl, rfl, rfl⟩ rfl rfl rfl rfl rfl,
    fun _ => mayCopy _ ⟨⟨.inl rfl, rfl, rfl, (by decide : (0 : Nat) < 16)⟩, rfl, rfl, rfl, rfl⟩ rfl rfl rfl rfl rfl,
    fun _ => mayCopy _ ⟨⟨.inl rfl, rfl, rfl, (by decide : (0 : Nat) < 16)⟩, rfl, rfl, rfl, rfl⟩ rfl rfl rfl rfl rfl, by decide, ?_, ?_, ?_, ?_⟩ <;>
  · unfold Tables.inTcm; decide +kernel

/-- The last 32 and 64 bytes of that page. -/
theorem witness_CopyCompletes_page :
    (∀ k ∈ [Kind.tagSet, .load], Tables.pageOf (paged []) 0xFE0 32 k 0x8000009573 0x8000009FE0) ∧
    Tables.pageOf (paged []) 0xFC0 64 .load 0x8000009573 0x8000009FC0 := by
  have w (va : DWord) (h : va = 0xFE0 ∨ va = 0xFC0) :
      (walkPath (paged []) 0 (paged []).core.asid (va.extractLsb' 0 56).toNat).2 = .ok 0x8000009573 0 4096 := by
    rcases h with rfl | rfl <;> decide +kernel
  have m : ∀ i, i < 64 → mapOk (paged []) (0x8000009FC0 + i) (pteLoc 0x8000009573) = true ∧
      usable (paged []) 0 (0x8000009FC0 + i) = true ∧ poisoned (paged []) (0x8000009FC0 + i) = false := by decide +kernel
  refine ⟨fun k hk => ⟨by decide, fun p => rfl, ?_, rfl, ⟨0, 4096, w _ (.inl rfl), by decide, by decide, by decide⟩, fun i hi => ?_⟩,
    by decide, fun p => rfl, by decide, rfl, ⟨0, 4096, w _ (.inr rfl), by decide, by decide, by decide⟩, m⟩
  · rcases List.mem_cons.1 hk with rfl | hk
    · decide
    · rcases List.mem_singleton.1 hk with rfl; decide
  · have := m (32 + i) (by omega)
    rwa [← Nat.add_assoc] at this

end Sys2Proof.Tests
end

