-- ==== Sys2Proof/Tests/Steps.lean ====
section
/-! SUPPORT. Single steps and single events with results worked by hand from the spec's words and from its own examples, whose
chapter each comment names. -/

namespace Sys2Proof.Tests

set_option Elab.async false

open Sys2Proof Sys2Proof.Machine Sys2Proof.Safety

/-- The state after one step that runs the words `w` as the first instruction. -/
def stepWord (nbits w : Nat) (s : State) : State := (next? (step (s.withFetchWord nbits w))).getD s
/-- The state after one instruction or event. -/
def after (i : Instr) (s : State) : State := (next? (exec i s)).getD s

/-- `li s5, 0x1234`, and what `lis s5, 0x5678` makes of its value (chapter 8, encodings). -/
theorem test_step_li : (let t := stepWord 32 0x07051234 State.reset
    reg t 5 = 0x1234 ∧ t.core.ctl.pc = 4) := by decide +kernel
theorem test_step_lis : reg (stepWord 32 0x07455678 (State.reset.updN 0 fun c => regSet c 5 0x1234)) 5 = 0x12345678 := by
  decide +kernel

/-- Words of zeros are no instruction (R184): at task privilege the trap of R364 has cause 0x01 and the words as its value. -/
theorem test_step_illegal : (let s := State.reset.updN 0 fun c => c.updCtl fun k => { k with priv := 0, tvec := 0x100 }
    let t := stepWord 32 0 s
    t.core.ctl.ccode = 1 ∧ t.core.ctl.tval = 0 ∧ t.core.ctl.epc = 0 ∧ t.core.ctl.priv = 1 ∧ t.core.ctl.pc = 0x400) := by decide +kernel

/-- `kget s48, %cause` at supervisor privilege after a copy-engine trap with code 0x03 reads 0x8003 into the supervisor's own
`s48` (chapter 14, two traps). -/
theorem test_step_kget : (let s := State.reset.updN 0 fun c => c.updCtl fun k => { k with priv := 1, csrc := 4, ccode := 3 }
    let t := stepWord 32 0x06300201 s
    reg t 48 = 0x8003 ∧ regGet (t.core.updCtl fun k => { k with priv := 0 }) 48 = 0) := by decide +kernel

/-- Step 2 of that example: the posted fault is entered before the load issues. -/
theorem test_trap_entry : (let p : PTrap := ⟨4, 0x03, 0, 0x10000, 0x0202000000002000⟩
    let s := (task []).upd fun c => { c with ptraps := [(4, some p)], ctl := { c.ctl with pc := 0x4000000120 } }
    let c := (after (.trapEntry 0) s).core.ctl
    packCause c = 0x8003 ∧ c.epc = 0x4000000120 ∧ c.pfrec = 0x0202000000002000 ∧ c.tval = 0x10000 ∧ c.priv = 1 ∧ c.ppriv = 0) := by
  decide +kernel

/-- `waitge.aq.mod g:[s1], s2` whose comparison fails stays where it is and writes no register (R229). -/
theorem test_step_waitge : (let s := (memTask [(1, 0xFF8), (2, 0x04030282)])
    let t := after (.waitge 0 1 2 ord2) s
    t.core.ctl.pc = 0x1000 ∧ t.core.ctl.stalled = true ∧ t.core.ctl.s = s.core.ctl.s) := by decide +kernel

/-- The clock at reset is stopped; an `add` of two full registers wraps (R212). -/
theorem test_step_add : reg (after (.add 0 3 1 2) (task [(1, BitVec.allOnes 64), (2, 2)])) 3 = 1 := by decide +kernel
/-- `ld.b` sign-extends and `ldn.b` does not (R224). -/
theorem test_step_loads : (let s := memTask [(1, 0xFF8)]
    reg (after (.ld 0 3 1 2 0 0) s) 3 = 0xFFFFFFFFFFFFFF81 ∧ reg (after (.ldn 0 3 1 2 0 0) s) 3 = 0x81) := by decide +kernel
/-- A byte stored lands at its address alone (R224). -/
theorem test_step_store : (let s := memTask [(1, 0xFF8), (2, 0x1122)]
    let t := after (.st 0 2 1 2 0 1) s
    memGet t.core.tcm 0xFF9 = 0x22 ∧ memGet t.core.tcm 0xFF8 = 0x81 ∧ memGet t.core.tcm 0xFFA = 3) := by decide +kernel

/-- Chapter 3, one rounding against two: 2^-12 × 2^-12 twice in one step reaches the last bit of 1.0, and once is a tie that
goes to the even 1.0. -/
theorem test_grid_rounding : (let p := fvMul (e5m2.val 0x0C) (e5m2.val 0x0C)
    (gridSum 0x3F800000 [p, p]).1 = 0x3F800001 ∧ (gridSum 0x3F800000 [p]).1 = 0x3F800000) := by decide +kernel

/-- The words of the boot march that R480 lists stand in its image: `ld.d`, `divn`, `qrow`, `qstore`, `st.d.rl.mod` and `halt`. -/
theorem test_march_words :
    ([[0x045A5EC0], [0x005B6D06], [0x0A005407, 0x02000000], [0x0A005408, 0x01000002], [0x09DF0405, 0x06980000], [0x0FC00007]] :
      List (List Word)).all (marchProgram.map encode).contains = true := by decide +kernel

end Sys2Proof.Tests
end

section
/-! SUPPORT. Freezes of a cluster and the registers of its debug block (R6, R441 to R452): what a request, the gating of the
clocks, a thaw and a write of a register each leave unchanged and what they write. -/

namespace Sys2Proof.Machine

/-! ### Folds over the cores of a cluster -/

theorem mem_nats {lo n m : Nat} : m ∈ nats lo n ↔ lo ≤ m ∧ m < lo + n := by
  simp only [nats, List.mem_map, List.mem_range]
  exact ⟨fun ⟨i, hi, he⟩ => by omega, fun h => ⟨m - lo, by omega, by omega⟩⟩

theorem nodup_nats (lo n : Nat) : (nats lo n).Nodup := List.nodup_range.map fun _ _ h => by simpa using h

theorem mem_cluster {k i : Nat} (hi : i < 24) : 24 * k + i ∈ nats (24 * k) 24 := mem_nats.2 (by omega)

/-- What each step of a fold keeps, the fold keeps. -/
theorem foldl_keeps {σ α β : Type} (view : σ → β) {f : σ → α → σ} (h : ∀ s a, view (f s a) = view s) (l : List α) (s : σ) :
    view (l.foldl f s) = view s :=
  List.foldlRecOn (motive := fun t => view t = view s) l f rfl fun t ht a _ => (h t a).trans ht

/-- What each step sets for its own element and keeps for the others holds of every element of a fold. -/
theorem foldl_sets {σ α : Type} {P : σ → α → Prop} {f : σ → α → σ} (hset : ∀ s a, P (f s a) a)
    (hkeep : ∀ s a b, P s b → P (f s a) b) (l : List α) (s : σ) : ∀ a ∈ l, P (l.foldl f s) a := by
  induction l generalizing s with
  | nil => simp
  | cons b l ih =>
    rintro a (_ | ⟨_, ha⟩)
    · exact List.foldlRecOn (motive := (P · b)) l f (hset s b) fun t ht c _ => hkeep t c b ht
    · exact ih _ a ha

/-- The cores after one update of each core of a list. -/
theorem coreN_foldl_updN (f : Core → Core) {l : List Nat} (hl : l.Nodup) (s : State) (m : Nat) :
    (l.foldl (fun s n => s.updN n f) s).coreN m = if m ∈ l then f (s.coreN m) else s.coreN m := by
  induction l generalizing s with
  | nil => simp
  | cons n l ih =>
    rw [List.nodup_cons] at hl
    rw [List.foldl_cons, ih hl.2, State.coreN_updN]
    by_cases h : m = n
    · subst h; simp [hl.1]
    · simp [h]

theorem foldl_updN_dbg (f : Core → Core) (l : List Nat) (s : State) : (l.foldl (fun s n => s.updN n f) s).dbg = s.dbg :=
  foldl_keeps (f := fun s n => s.updN n f) State.dbg (fun _ _ => rfl) l s

theorem foldl_updN_mem (f : Core → Core) (l : List Nat) (s : State) : (l.foldl (fun s n => s.updN n f) s).mem = s.mem :=
  foldl_keeps (f := fun s n => s.updN n f) State.mem (fun _ _ => rfl) l s

theorem dbgOf_congr {s t : State} (h : t.dbg = s.dbg) (k : Nat) : t.dbgOf k = s.dbgOf k := by rw [State.dbgOf, h]; rfl
theorem coreN_congr {s t : State} (h : t.cores = s.cores) (n : Nat) : t.coreN n = s.coreN n := by rw [State.coreN, h]; rfl

theorem dbgOf_foldl_updN (f : Core → Core) (l : List Nat) (s : State) (k : Nat) :
    (l.foldl (fun s n => s.updN n f) s).dbgOf k = s.dbgOf k := dbgOf_congr (foldl_updN_dbg f l s) k

/-! ### Requests of a freeze (R441, R443, R444) -/

/-- A core but for what a request of a freeze may change of it: the pins of its copies, the latch, the watchpoint that is answered
and the event bits. -/
def Core.beforeFreeze (c : Core) : Core :=
  { c.dropPins with freezeLatch := false, watchHit := none, ctl := { c.ctl with event := 0 } }

theorem beforeFreeze_latch (c : Core) : { c.dropPins with freezeLatch := true }.beforeFreeze = c.beforeFreeze := by
  simp [Core.beforeFreeze, Core.dropPins, Core.updCpy]

theorem beforeFreeze_event (c : Core) (b : BitVec 5) :
    (c.updCtl fun t => { t with event := t.event ||| b }).beforeFreeze = c.beforeFreeze := rfl

theorem beforeFreeze_watch (c : Core) : { c with watchHit := none }.beforeFreeze = c.beforeFreeze := rfl

/-- The fields of the debug block after a request. -/
theorem dbgOf_requestFreeze {s : State} {n : Nat} (hf : (s.dbgOf (clusterOf n)).frozen = false)
    (hp : (s.dbgOf (clusterOf n)).pending = false) (r : BitVec 3) (u : BitVec 4) (src : BitVec 3) :
    (requestFreeze s n r u src).dbgOf (clusterOf n) =
      { s.dbgOf (clusterOf n) with pending := true, core := BitVec.ofNat 8 n, reason := r, unit := u, src := src } := by
  simp [requestFreeze, hf, hp, dbgOf_foldl_updN]

/-- Each core after a request. -/
theorem coreN_requestFreeze {s : State} {n : Nat} (hf : (s.dbgOf (clusterOf n)).frozen = false)
    (hp : (s.dbgOf (clusterOf n)).pending = false) (r : BitVec 3) (u : BitVec 4) (src : BitVec 3) (m : Nat) :
    (requestFreeze s n r u src).coreN m =
      if m ∈ nats (24 * clusterOf n) 24 then { (s.coreN m).dropPins with freezeLatch := true } else s.coreN m := by
  simp [requestFreeze, hf, hp, coreN_foldl_updN _ (nodup_nats _ _)]

theorem freezeAsked_requestFreeze {s : State} {n : Nat} (hf : (s.dbgOf (clusterOf n)).frozen = false)
    (hp : (s.dbgOf (clusterOf n)).pending = false) (r : BitVec 3) (u : BitVec 4) (src : BitVec 3) :
    Tables.FreezeAsked s (requestFreeze s n r u src) (clusterOf n) n r u := by
  have hd := dbgOf_requestFreeze hf hp r u src
  have hc := coreN_requestFreeze hf hp r u src
  refine ⟨by rw [hd], by rw [hd], by rw [hd], by rw [hd], fun i hi => ?_, fun m => ?_⟩
  · rw [hc, if_pos (mem_cluster hi)]
  · show ((requestFreeze s n r u src).coreN m).beforeFreeze = (s.coreN m).beforeFreeze
    rw [hc]
    split
    · exact beforeFreeze_latch _
    · rfl

/-- What is done to cores before and after a request, within the frame of a freeze, leaves it a request. -/
theorem freezeAsked_frame {s s' t t' : State} {k n : Nat} {r : BitVec 3} {u : BitVec 4} (h : Tables.FreezeAsked s t k n r u)
    (hs : ∀ m, (s.coreN m).beforeFreeze = (s'.coreN m).beforeFreeze) (hd : t'.dbg = t.dbg)
    (hl : ∀ m, (t'.coreN m).freezeLatch = (t.coreN m).freezeLatch)
    (ht : ∀ m, (t'.coreN m).beforeFreeze = (t.coreN m).beforeFreeze) : Tables.FreezeAsked s' t' k n r u := by
  obtain ⟨pending, reason, unit, core, latch, frame⟩ := h
  rw [← dbgOf_congr hd] at pending reason unit core
  exact ⟨pending, reason, unit, core, fun i hi => (hl _).trans (latch i hi), fun m => (ht m).trans ((frame m).trans (hs m))⟩

theorem clusterOf_first (k : Nat) : clusterOf (24 * k) = k := by simp [clusterOf]

/-- The event bit of a debug request on one core (R360). -/
def Core.debugRequest (c : Core) : Core := c.updCtl fun t => { t with event := t.event ||| 16 }

theorem freezeReq_free {s : State} {k : Nat} (hf : (s.dbgOf k).frozen = false) (hp : (s.dbgOf k).pending = false) :
    freezeReq s k = (nats (24 * k) 24).foldl (fun s n => s.updN n Core.debugRequest) (requestFreeze s (24 * k) 1 0 0) := by
  rw [freezeReq, hf, hp]; rfl

theorem freezeReq_busy {s : State} {k : Nat} (h : ¬ ((s.dbgOf k).frozen = false ∧ (s.dbgOf k).pending = false)) :
    freezeReq s k = s := by
  rw [freezeReq, if_pos]
  revert h
  cases (s.dbgOf k).frozen <;> cases (s.dbgOf k).pending <;> decide

theorem freezeAsked_freezeReq {s : State} {k : Nat} (hf : (s.dbgOf k).frozen = false) (hp : (s.dbgOf k).pending = false) :
    Tables.FreezeAsked s (freezeReq s k) k (24 * k) 1 0 ∧
      ∀ i, i < 24 → ((freezeReq s k).coreN (24 * k + i)).ctl.event.getLsbD 4 = true := by
  rw [freezeReq_free hf hp]
  have hc := coreN_foldl_updN Core.debugRequest (nodup_nats (24 * k) 24) (requestFreeze s (24 * k) 1 0 0)
  have asked : Tables.FreezeAsked s (requestFreeze s (24 * k) 1 0 0) k (24 * k) 1 0 := by
    have := freezeAsked_requestFreeze (s := s) (n := 24 * k) (by rwa [clusterOf_first]) (by rwa [clusterOf_first]) 1 0 0
    rwa [clusterOf_first] at this
  refine ⟨freezeAsked_frame asked (fun _ => rfl) (foldl_updN_dbg ..) (fun m => ?_) fun m => ?_, fun i hi => ?_⟩
  · rw [hc]; split <;> rfl
  · rw [hc]
    split
    · exact beforeFreeze_event _ 16
    · rfl
  · rw [hc, if_pos (mem_cluster hi)]
    simp [Core.debugRequest, Core.updCtl]

theorem freezeAsked_watchAnswer {s : State} {n u src : Nat} (hw : (s.coreN n).watchHit = some (u, src))
    (hf : (s.dbgOf (clusterOf n)).frozen = false) (hp : (s.dbgOf (clusterOf n)).pending = false) :
    Tables.FreezeAsked s (watchAnswer s n) (clusterOf n) n 3 (BitVec.ofNat 4 u) ∧
      ((watchAnswer s n).dbgOf (clusterOf n)).src = BitVec.ofNat 3 src := by
  rw [watchAnswer, hw]
  refine ⟨freezeAsked_frame (freezeAsked_requestFreeze ?_ ?_ ..) (fun m => ?_) rfl (fun _ => rfl) fun _ => rfl, ?_⟩
  · exact hf
  · exact hp
  · rw [State.coreN_updN]
    split
    · exact beforeFreeze_watch _
    · rfl
  · simp only
    rw [dbgOf_requestFreeze] <;> assumption

theorem watchAnswer_none {s : State} {n : Nat} (hw : (s.coreN n).watchHit = none) : watchAnswer s n = s := by rw [watchAnswer, hw]

/-! ### Trace records leave the cores and the freeze (R450) -/

/-- A debug block without the pages pinned for its trace. -/
def Dbg.unpinned (d : Dbg) : Dbg := { d with trcPins := [] }

/-- A debug block without what a trace record writes of it. -/
def Dbg.untraced (d : Dbg) : Dbg := { d with trcPins := [], trcWp := 0, trcSeq := 0, trcLost := 0, lostMark := 0 }

/-- The debug block of each cluster but for its trace. -/
def State.untraced (s : State) (k : Nat) : Dbg := (s.dbgOf k).untraced

theorem untraced_setDbg {s : State} {k : Nat} {d : Dbg} (h : d.untraced = (s.dbgOf k).untraced) :
    (s.setDbg k d).untraced = s.untraced := by
  funext j
  rw [State.untraced, State.dbgOf_setDbg]
  split
  · next e => rw [h, e]; rfl
  · rfl

theorem trcPinUnit_cases (s : State) (k i : Nat) :
    trcPinUnit s k i = s ∨ ∃ pins, trcPinUnit s k i = s.setDbg k { s.dbgOf k with trcPins := pins } := by
  unfold trcPinUnit
  dsimp only
  split
  · exact .inl rfl
  · split
    · split
      · exact .inr ⟨_, rfl⟩
      · exact .inl rfl
    · exact .inl rfl

theorem trcPinUnit_cores (s : State) (k i : Nat) : (trcPinUnit s k i).cores = s.cores := by
  obtain h | ⟨_, h⟩ := trcPinUnit_cases s k i <;> rw [h]
  rfl

theorem trcPinUnit_mem (s : State) (k i : Nat) : (trcPinUnit s k i).mem = s.mem := by
  obtain h | ⟨_, h⟩ := trcPinUnit_cases s k i <;> rw [h]
  rfl

theorem unpinned_trcPinUnit (s : State) (k i : Nat) : ((trcPinUnit s k i).dbgOf k).unpinned = (s.dbgOf k).unpinned := by
  obtain h | ⟨_, h⟩ := trcPinUnit_cases s k i <;> rw [h]
  rw [State.dbgOf_setDbg, if_pos rfl]; rfl

theorem untraced_trcPinUnit (s : State) (k i : Nat) : (trcPinUnit s k i).untraced = s.untraced := by
  obtain h | ⟨_, h⟩ := trcPinUnit_cases s k i <;> rw [h]
  exact untraced_setDbg rfl

/-- The cores of a state and its debug blocks but for their traces. -/
def traceFrame (s : State) : SMap Core × (Nat → Dbg) := (s.cores, s.untraced)

theorem traceFrame_setDbg {s : State} {k : Nat} {d : Dbg} (h : d.untraced = (s.dbgOf k).untraced) :
    traceFrame (s.setDbg k d) = traceFrame s := congrArg (Prod.mk s.cores) (untraced_setDbg h)

theorem traceFrame_trcTry {s t : State} {k kind core : Nat} {pc : VAddr} {members detail : Nat} {extra : List (List Nat)}
    (h : trcTry s k kind core pc members detail extra = some t) : traceFrame t = traceFrame s := by
  have pins := foldl_keeps (f := fun s i => trcPinUnit s k i) traceFrame
    fun s i => congrArg₂ Prod.mk (trcPinUnit_cores s k i) (untraced_trcPinUnit s k i)
  have units := foldl_keeps (f := fun s (p : Option Nat × List Nat) => trcUnit s (p.1.getD 0) p.2) (fun s => (s.cores, s.dbg))
    fun _ _ => rfl
  unfold trcTry at h
  dsimp only at h
  split at h
  · cases h
  · split at h
    · cases h
    · cases h
      obtain ⟨hc, hd⟩ := Prod.ext_iff.1 (units _ _)
      rw [traceFrame_setDbg]
      · exact (congrArg₂ Prod.mk hc (funext fun j => congrArg Dbg.untraced (dbgOf_congr hd j))).trans (pins _ s)
      · rw [dbgOf_congr hd]; rfl

/-- A record that is not written is counted (R450). -/
def trcDrop (s : State) (k : Nat) : State :=
  s.setDbg k { s.dbgOf k with trcLost := if (s.dbgOf k).trcLost = BitVec.allOnes 32 then (s.dbgOf k).trcLost else (s.dbgOf k).trcLost + 1
                              lostMark := (s.dbgOf k).lostMark + 1 }

theorem traceFrame_trcDrop (s : State) (k : Nat) : traceFrame (trcDrop s k) = traceFrame s := traceFrame_setDbg rfl

theorem traceFrame_tryOrDrop (s : State) (k kind core : Nat) (pc : VAddr) (members detail : Nat) (extra : List (List Nat)) :
    traceFrame ((trcTry s k kind core pc members detail extra).getD (trcDrop s k)) = traceFrame s := by
  cases h : trcTry s k kind core pc members detail extra with
  | none => exact traceFrame_trcDrop s k
  | some t => exact traceFrame_trcTry h

theorem traceFrame_trcPut (s : State) (k kind core : Nat) (pc : VAddr) (members detail : Nat) (extra : List (List Nat)) :
    traceFrame (trcPut s k kind core pc members detail extra) = traceFrame s := by
  unfold trcPut
  dsimp only
  split
  · exact traceFrame_tryOrDrop ..
  · split
    · exact traceFrame_trcDrop s k
    · next t ht =>
      refine (traceFrame_tryOrDrop (t.setDbg k { t.dbgOf k with lostMark := 0 }) ..).trans ?_
      refine (traceFrame_setDbg ?_).trans (traceFrame_trcTry ht)
      rfl

theorem traceFrame_trace (s : State) (kind core : Nat) (pc : VAddr) (members detail : Nat) (extra : List (List Nat)) :
    traceFrame (trace s kind core pc members detail extra) = traceFrame s := by
  unfold trace
  dsimp only
  generalize ((s.dbgOf (clusterOf core)).trcCtl.getLsbD 0 && _) = recorded
  cases recorded with
  | true => exact traceFrame_trcPut ..
  | false => rfl

theorem coreN_of_traceFrame {s t : State} (h : traceFrame t = traceFrame s) (n : Nat) : t.coreN n = s.coreN n :=
  coreN_congr (Prod.ext_iff.1 h).1 n

theorem untraced_of_traceFrame {s t : State} (h : traceFrame t = traceFrame s) (k : Nat) :
    (t.dbgOf k).untraced = (s.dbgOf k).untraced := congrFun (Prod.ext_iff.1 h).2 k

theorem freeze_of_untraced {d e : Dbg} (h : d.untraced = e.untraced) :
    d.frozen = e.frozen ∧ d.pending = e.pending ∧ d.skid = e.skid := by
  simp only [Dbg.untraced, Dbg.mk.injEq] at h
  simp only [h, and_self]

/-! ### Logs, latched requests and traps leave the clocks (R364, R400, R410, R448) -/

/-- What a request of a stop leaves of a state: the debug blocks, and each core's clock and registers. -/
def stopFrame (s : State) : SMap Dbg × (Nat → Bool × (Reg → DWord)) :=
  (s.dbg, fun n => ((s.coreN n).frozen, regGet (s.coreN n)))

/-- The clocks of a state: which cluster is frozen and what its skid buffer holds, and which core is frozen. -/
def clocks (s : State) : (Nat → Bool × List (Nat × Nat)) × (Nat → Bool) :=
  (fun k => ((s.dbgOf k).frozen, (s.dbgOf k).skid), fun n => (s.coreN n).frozen)

theorem clocks_eq_iff {s t : State} : clocks t = clocks s ↔
    (∀ k, (t.dbgOf k).frozen = (s.dbgOf k).frozen ∧ (t.dbgOf k).skid = (s.dbgOf k).skid) ∧
      ∀ n, (t.coreN n).frozen = (s.coreN n).frozen := by
  simp only [clocks, Prod.mk.injEq, funext_iff]

theorem clocks_of_stopFrame {s t : State} (h : stopFrame t = stopFrame s) : clocks t = clocks s := by
  obtain ⟨hd, hc⟩ := Prod.ext_iff.1 h
  exact clocks_eq_iff.2 ⟨fun k => by rw [dbgOf_congr hd]; exact ⟨rfl, rfl⟩, fun n => congrArg Prod.fst (congrFun hc n)⟩

theorem clocks_of_traceFrame {s t : State} (h : traceFrame t = traceFrame s) : clocks t = clocks s := by
  refine clocks_eq_iff.2 ⟨fun k => ?_, fun n => by rw [coreN_of_traceFrame h]⟩
  obtain ⟨frozen, -, skid⟩ := freeze_of_untraced (untraced_of_traceFrame h k)
  exact ⟨frozen, skid⟩

theorem regGet_of_stopFrame {s t : State} (h : stopFrame t = stopFrame s) (n : Nat) : regGet (t.coreN n) = regGet (s.coreN n) :=
  congrArg Prod.snd (congrFun (Prod.ext_iff.1 h).2 n)

theorem stopFrame_updN {s : State} {n : Nat} {f : Core → Core} (hf : ∀ c, (f c).frozen = c.frozen)
    (hr : ∀ c, regGet (f c) = regGet c) : stopFrame (s.updN n f) = stopFrame s := by
  refine congrArg (Prod.mk s.dbg) (funext fun m => ?_)
  rw [State.coreN_updN]
  split
  · rw [hf, hr]
  · rfl

theorem clocks_updN {s : State} {n : Nat} {f : Core → Core} (hf : ∀ c, (f c).frozen = c.frozen) :
    clocks (s.updN n f) = clocks s := by
  refine congrArg (Prod.mk _) (funext fun m => ?_)
  rw [State.coreN_updN]
  split
  · exact hf _
  · rfl

theorem stopFrame_cpWrite {s t : State} {die : Nat} {asid : BitVec 10} {va n v : Nat} (h : cpWrite s die asid va n v = some t) :
    stopFrame t = stopFrame s := by
  obtain ⟨pa, -, rfl⟩ := Option.map_eq_some_iff.1 h
  rfl

theorem stopFrame_cpField (s : State) (q : Queue) (off n v : Nat) : stopFrame (cpField s q off n v) = stopFrame s := by
  unfold cpField
  cases h : cpWrite s q.home q.asid (q.ctl.toNat + off) n v with
  | none => rfl
  | some t => exact stopFrame_cpWrite h

theorem stopFrame_cpWords {s t : State} {die : Nat} {asid : BitVec 10} {va : Nat} {ws : List Nat}
    (h : cpWords s die asid va ws = some t) : stopFrame t = stopFrame s := by
  induction ws generalizing s va with
  | nil => cases h; rfl
  | cons w ws ih =>
    obtain ⟨u, hu, h⟩ := Option.bind_eq_some_iff.1 h
    exact (ih h).trans (stopFrame_cpWrite hu)

theorem stopFrame_msixRaise (s : State) (v : Nat) : stopFrame (msixRaise s v) = stopFrame s := by
  unfold msixRaise; split <;> rfl

theorem stopFrame_logFail (s : State) (k : Nat) : stopFrame (logFail s k) = stopFrame s := by
  unfold logFail
  split
  · rfl
  · exact (stopFrame_msixRaise ..).trans (stopFrame_cpField ..)

theorem stopFrame_flogAppend (s : State) (k : Nat) (ws : List Nat) : stopFrame (flogAppend s k ws) = stopFrame s := by
  unfold flogAppend
  cases smFind s.queues k with
  | none => rfl
  | some q =>
    dsimp only
    cases h : cpWords s q.home q.asid (q.flog.toNat + 64 * (q.flogTail.toNat % 2 ^ q.flogLog)) ws with
    | none => exact (stopFrame_logFail ..).trans (stopFrame_cpField ..)
    | some t =>
      have written : stopFrame t = stopFrame s := stopFrame_cpWords h
      exact (stopFrame_msixRaise ..).trans ((stopFrame_cpField ..).trans written)

theorem stopFrame_faultRecord (s : State) (n : Nat) (code : BitVec 8) (src : BitVec 3) (dbl : Bool) (epc : VAddr)
    (tval pfrec detail : DWord) : stopFrame (faultRecord s n code src dbl epc tval pfrec detail) = stopFrame s := by
  unfold faultRecord faultRecordAt
  dsimp only
  split
  · rfl
  · exact stopFrame_flogAppend ..

theorem stopFrame_updLaunch (s : State) (k : Nat) (f : Launch → Launch) : stopFrame (s.updLaunch k f) = stopFrame s := by
  unfold State.updLaunch; split <;> rfl

theorem stopFrame_latchCores (why : StopWhy) (l : List Nat) (s : State) :
    stopFrame (l.foldl (fun s n => s.updN n (latchCore why)) s) = stopFrame s :=
  foldl_keeps (f := fun s n => s.updN n (latchCore why)) stopFrame (fun _ _ => stopFrame_updN (fun _ => rfl) fun _ => rfl) l s

theorem stopFrame_latchAll (s : State) (g : Nat) (why : StopWhy) : stopFrame (latchAll s g why) = stopFrame s :=
  stopFrame_latchCores ..

theorem stopFrame_slotReason (s : State) (t : Gang) (code : Nat) : stopFrame (slotReason s t code) = stopFrame s :=
  foldl_keeps stopFrame (fun s n => by split <;> rfl) t.cores s

theorem stopFrame_latchNow (s : State) (g : Nat) (why : StopWhy) : stopFrame (latchNow s g why) = stopFrame s := by
  unfold latchNow
  dsimp only
  split
  · rfl
  split
  · rfl
  split
  · exact stopFrame_latchAll ..
  split
  · split
    · exact stopFrame_latchAll ..
    · rfl
  split
  · split
    · exact stopFrame_latchCores ..
    · exact stopFrame_latchAll ..
  split
  · exact stopFrame_slotReason ..
  · rfl

theorem stopFrame_latchGang (s : State) (g : Nat) (why : StopWhy) : stopFrame (latchGang s g why) = stopFrame s := by
  unfold latchGang
  dsimp only
  split
  · rfl
  split
  · rfl
  · exact stopFrame_latchNow ..

theorem stopFrame_latchLate (s : State) (g : Nat) : stopFrame (latchLate s g) = stopFrame s := by
  unfold latchLate
  dsimp only
  split
  · split
    · rfl
    · exact stopFrame_latchGang ..
  · rfl

theorem stopFrame_periodStart (s : State) (g : Nat) : stopFrame (periodStart s g) = stopFrame s := by
  unfold periodStart
  dsimp only
  split
  · rfl
  split <;> rfl

theorem giveBack_frozen (c : Core) : (giveBack c).frozen = c.frozen := by
  have hb (c : Core) (i : Nat) : (bump c i).frozen = c.frozen := by unfold bump; split <;> rfl
  unfold giveBack
  split
  · rfl
  · next h _ => cases hWB h <;> cases hWA h <;> simp [hb]

theorem enterTrap_frozen (c : Core) (src : BitVec 3) (code : BitVec 8) (epc : VAddr) (tval : DWord) (pfrec : Option DWord) :
    (enterTrap c src code epc tval pfrec).frozen = c.frozen := by
  show (leaveBack c).frozen = c.frozen
  unfold leaveBack
  split
  · exact giveBack_frozen c
  · rfl

theorem clocks_stopCore (s : State) (n : Nat) : clocks (stopCore s n) = clocks s :=
  clocks_updN fun c => by
    show (if c.ctl.pendArrived then c else giveBack c).frozen = c.frozen
    split
    · rfl
    · exact giveBack_frozen c

theorem clocks_faultTask (s : State) (n : Nat) : clocks (faultTask s n) = clocks s := by
  unfold faultTask
  dsimp only
  split
  · exact (clocks_stopCore ..).trans (clocks_of_stopFrame ((stopFrame_latchGang ..).trans (stopFrame_updLaunch ..)))
  · exact clocks_updN fun _ => rfl

theorem clocks_takeTrap (s : State) (n : Nat) (src : BitVec 3) (code : BitVec 8) (epc : VAddr) (tval : DWord)
    (pfrec : Option DWord) : clocks (takeTrap s n src code epc tval pfrec) = clocks s := by
  unfold takeTrap
  dsimp only
  split
  · exact (clocks_of_traceFrame (traceFrame_trace ..)).trans (clocks_updN fun c => enterTrap_frozen c ..)
  · have recorded := clocks_of_stopFrame (stopFrame_faultRecord s n code src ((s.coreN n).ctl.priv == 1) epc tval
      (pfrec.getD (s.coreN n).ctl.pfrec) 0)
    split
    · exact (clocks_faultTask ..).trans recorded
    · refine (clocks_updN ?_).trans recorded
      exact fun _ => rfl

theorem clocks_takeDue (s : State) (n : Nat) (t : PTrap) : clocks (takeDue s n t) = clocks s := by
  have cleared : clocks ((s.updN n fun c => c.updCtl fun k => { k with exiting := false }).updN n
      fun c => { c with ptraps := smSet none c.ptraps t.src.toNat none }) = clocks s := by
    rw [clocks_updN, clocks_updN] <;> exact fun _ => rfl
  unfold takeDue takePending
  dsimp only
  split <;> exact (clocks_takeTrap ..).trans cleared

/-! ### The clocks stop and start (R444, R447) -/

theorem traceFrame_traceFreeze (s : State) (k kind : Nat) : traceFrame (traceFreeze s k kind) = traceFrame s :=
  traceFrame_trace ..

/-- The record of a freeze or a thaw leaves the debug block that was written before it, and the cores. -/
theorem traceFreeze_setDbg (s : State) (k kind : Nat) (d : Dbg) :
    ((traceFreeze (s.setDbg k d) k kind).dbgOf k).untraced = d.untraced ∧
      ∀ n, (traceFreeze (s.setDbg k d) k kind).coreN n = s.coreN n := by
  have frame := traceFrame_traceFreeze (s.setDbg k d) k kind
  refine ⟨(untraced_of_traceFrame frame k).trans ?_, fun n => (coreN_of_traceFrame frame n).trans (State.coreN_setDbg ..)⟩
  rw [State.dbgOf_setDbg, if_pos rfl]

/-- The clocks of a cluster's cores stop. -/
def gateCores (s : State) (k : Nat) : State :=
  (nats (24 * k) 24).foldl (fun s n => s.updN n fun c => { c with frozen := true, freezeLatch := false }) s

/-- The content that the dump windows of a frozen cluster show is kept under new numbers (R446). -/
def keepSections (s : State) (k : Nat) : State :=
  { s with saves := (nats (24 * k) 24).foldl (fun m n => smPut m (s.nextSave + 1 + n % 24) (secOnly (s.coreN n))) s.saves
           nextSave := s.nextSave + 24 }

theorem coreN_keepSections (s : State) (k m : Nat) : (keepSections s k).coreN m = s.coreN m :=
  coreN_congr (by simp only [keepSections]) m

/-- The debug block of a cluster once its clocks have stopped. -/
def frozenBlock (s : State) (k : Nat) : Dbg :=
  { (keepSections s k).dbgOf k with frozen := true, pending := false, dumpNum := s.nextSave + 1 }

theorem freezeNow_eq (s : State) (k : Nat) :
    freezeNow s k = traceFreeze ((keepSections (gateCores s k) k).setDbg k (frozenBlock (gateCores s k) k)) k 0x06 := rfl

/-- A freeze gates every core of the cluster. -/
theorem freezeNow_frozen (s : State) (k : Nat) :
    ((freezeNow s k).dbgOf k).frozen = true ∧ ((freezeNow s k).dbgOf k).pending = false ∧
      ∀ i, i < 24 → ((freezeNow s k).coreN (24 * k + i)).frozen = true ∧ ((freezeNow s k).coreN (24 * k + i)).freezeLatch = false := by
  obtain ⟨block, cores⟩ := traceFreeze_setDbg (keepSections (gateCores s k) k) k 0x06 (frozenBlock (gateCores s k) k)
  obtain ⟨frozen, pending, -⟩ := freeze_of_untraced block
  rw [freezeNow_eq, frozen, pending]
  refine ⟨rfl, rfl, fun i hi => ?_⟩
  rw [cores, coreN_keepSections, gateCores, coreN_foldl_updN _ (nodup_nats ..), if_pos (mem_cluster hi)]
  exact ⟨rfl, rfl⟩

/-- The clock of one core starts, after the writes of its dump window. -/
def thawCore (d : Dbg) (s : State) (n : Nat) : State :=
  (applyDump s n ((d.dump.filter fun w => w.1 == n).map fun w => w.2)).updN n fun c => { c with frozen := false }

/-- The thaw of a cluster up to its record: the replies held, then the clocks. -/
def thawClocks (s : State) (k : Nat) : State :=
  let u := (nats (24 * k) 24).foldl (thawCore (s.dbgOf k)) ((s.dbgOf k).skid.foldl skidDeliver s)
  traceFreeze (u.setDbg k { u.dbgOf k with frozen := false, skid := [], dump := [] }) k 0x07

/-- What was held is done once the clocks run. -/
def thawHeld (s : State) (k : Nat) : State :=
  let u := (nats (24 * k) 24).foldl thawTrap s
  ((gangsIn u k).map (·.1)).foldl (fun s g => latchLate (periodStart s g) g) u

theorem thaw_frozen {s : State} {k : Nat} (h : (s.dbgOf k).frozen = true) : thaw s k = thawHeld (thawClocks s k) k := by
  rw [thaw, h]; rfl

theorem thaw_running {s : State} {k : Nat} (h : (s.dbgOf k).frozen = false) : thaw s k = s := by rw [thaw, h]; rfl

theorem applyDump_other (s : State) {n m : Nat} (h : m ≠ n) (ws : List (Nat × Byte)) : (applyDump s n ws).coreN m = s.coreN m := by
  unfold applyDump
  dsimp only
  split
  · rfl
  · show ((State.setCoreN _ n _).coreN m) = _
    rw [State.coreN_setCoreN, if_neg h]
    split <;> rfl

theorem thawCore_self (d : Dbg) (s : State) (n : Nat) : ((thawCore d s n).coreN n).frozen = false := by
  rw [thawCore, State.coreN_updN, if_pos rfl]

theorem thawCore_other (d : Dbg) (s : State) {n m : Nat} (h : m ≠ n) : (thawCore d s n).coreN m = s.coreN m := by
  rw [thawCore, State.coreN_updN, if_neg h, applyDump_other s h]

theorem thawCore_clean {d : Dbg} (h : d.dump = []) (s : State) (n : Nat) :
    thawCore d s n = s.updN n fun c => { c with frozen := false } := by
  rw [thawCore, h]; rfl

theorem thawClocks_running (s : State) (k : Nat) :
    ((thawClocks s k).dbgOf k).frozen = false ∧ ((thawClocks s k).dbgOf k).skid = [] ∧
      ∀ i, i < 24 → ((thawClocks s k).coreN (24 * k + i)).frozen = false := by
  have started := foldl_sets (P := fun s n => (s.coreN n).frozen = false) (f := thawCore (s.dbgOf k)) (thawCore_self _)
    (fun s n m h => by
      by_cases e : m = n
      · rw [e]; exact thawCore_self ..
      · rw [thawCore_other _ _ e]; exact h)
    (nats (24 * k) 24) ((s.dbgOf k).skid.foldl skidDeliver s)
  unfold thawClocks
  obtain ⟨block, cores⟩ := traceFreeze_setDbg ((nats (24 * k) 24).foldl (thawCore (s.dbgOf k)) ((s.dbgOf k).skid.foldl skidDeliver s))
    k 0x07 _
  obtain ⟨frozen, -, skid⟩ := freeze_of_untraced block
  exact ⟨frozen, skid, fun i hi => (congrArg Core.frozen (cores _)).trans (started _ (mem_cluster hi))⟩

/-- Where no reply and no write waits, the thaw starts the clocks and touches nothing else of a core. -/
theorem coreN_thawClocks {s : State} {k : Nat} (hd : (s.dbgOf k).dump = []) (hs : (s.dbgOf k).skid = []) (m : Nat) :
    (thawClocks s k).coreN m = if m ∈ nats (24 * k) 24 then { s.coreN m with frozen := false } else s.coreN m := by
  have clean : thawCore (s.dbgOf k) = fun s n => s.updN n fun c => { c with frozen := false } :=
    funext fun s => funext fun n => thawCore_clean hd s n
  unfold thawClocks
  rw [(traceFreeze_setDbg ..).2, hs, clean]
  exact coreN_foldl_updN _ (nodup_nats ..) s m

theorem clocks_thawTrap (s : State) (n : Nat) : clocks (thawTrap s n) = clocks s := by
  unfold thawTrap
  split
  · exact clocks_takeDue ..
  · rfl

theorem stopFrame_lateRequests (l : List Nat) (s : State) :
    stopFrame (l.foldl (fun s g => latchLate (periodStart s g) g) s) = stopFrame s :=
  foldl_keeps (f := fun s g => latchLate (periodStart s g) g) stopFrame
    (fun _ _ => (stopFrame_latchLate ..).trans (stopFrame_periodStart ..)) l s

theorem clocks_thawHeld (s : State) (k : Nat) : clocks (thawHeld s k) = clocks s :=
  (clocks_of_stopFrame (stopFrame_lateRequests ..)).trans (foldl_keeps clocks clocks_thawTrap _ s)

theorem foldl_thawTrap_none {l : List Nat} {s : State} (h : ∀ n ∈ l, dueTrap (s.coreN n) = none) : l.foldl thawTrap s = s := by
  induction l with
  | nil => rfl
  | cons n l ih =>
    have none_due : thawTrap s n = s := by rw [thawTrap, h n List.mem_cons_self]
    rw [List.foldl_cons, none_due, ih fun m hm => h m (List.mem_cons_of_mem _ hm)]

/-- Where no trap is held, what the thaw does once the clocks run leaves the registers. -/
theorem regGet_thawHeld {s : State} {k : Nat} (h : ∀ n ∈ nats (24 * k) 24, dueTrap (s.coreN n) = none) (m : Nat) :
    regGet ((thawHeld s k).coreN m) = regGet (s.coreN m) := by
  unfold thawHeld
  dsimp only
  rw [foldl_thawTrap_none h]
  exact regGet_of_stopFrame (stopFrame_lateRequests ..) m

theorem thaw_starts {s : State} {k : Nat} (h : (s.dbgOf k).frozen = true) :
    ((thaw s k).dbgOf k).frozen = false ∧ ((thaw s k).dbgOf k).skid = [] ∧
      ∀ i, i < 24 → ((thaw s k).coreN (24 * k + i)).frozen = false := by
  obtain ⟨frozen, skid, cores⟩ := thawClocks_running s k
  obtain ⟨blocks, running⟩ := clocks_eq_iff.1 (clocks_thawHeld (thawClocks s k) k)
  obtain ⟨kept, keptSkid⟩ := blocks k
  rw [thaw_frozen h]
  exact ⟨kept.trans frozen, keptSkid.trans skid, fun i hi => (running _).trans (cores i hi)⟩

theorem thaw_registers {s : State} {k : Nat} (h : (s.dbgOf k).frozen = true) (hd : (s.dbgOf k).dump = [])
    (hs : (s.dbgOf k).skid = []) (ht : ∀ i, i < 24 → dueTrap { s.coreN (24 * k + i) with frozen := false } = none) (m : Nat)
    (r : Reg) : regGet ((thaw s k).coreN m) r = regGet (s.coreN m) r := by
  have cores := coreN_thawClocks hd hs
  have untrapped : ∀ n ∈ nats (24 * k) 24, dueTrap ((thawClocks s k).coreN n) = none := fun n hn => by
    obtain ⟨i, rfl⟩ : ∃ i, n = 24 * k + i := ⟨n - 24 * k, by have := mem_nats.1 hn; omega⟩
    rw [cores, if_pos hn]
    exact ht i (by have := mem_nats.1 hn; omega)
  rw [thaw_frozen h, regGet_thawHeld untrapped, cores]
  split <;> rfl

/-- `reset_ctx` of a frozen cluster stops the saves in progress (R419, R441). -/
theorem resetCtx_abandons {s : State} {k : Nat} (h : (s.dbgOf k).frozen = true) {i : Nat} (hi : i < 24) :
    ((resetCtx s k).coreN (24 * k + i)).ctxErr = ((s.coreN (24 * k + i)).ctxErr || saving (s.coreN (24 * k + i))) := by
  rw [resetCtx, if_pos h, coreN_foldl_updN _ (nodup_nats ..), if_pos (mem_cluster hi)]
  cases hs : saving (s.coreN (24 * k + i)) <;> simp

theorem resetCtx_running {s : State} {k : Nat} (h : (s.dbgOf k).frozen = false) : resetCtx s k = s := by
  rw [resetCtx, h]; rfl

theorem breakpointHit_due {s : State} {n u : Nat} (h : bkptDue s n = some u) :
    exec (.breakpointHit n) s = .next (requestFreeze s n 2 (BitVec.ofNat 4 u) 0) := by
  show execBreakpointHit n s = _
  rw [execBreakpointHit, h]

theorem breakpointHit_idle {s : State} {n : Nat} (h : bkptDue s n = none) : exec (.breakpointHit n) s = .next s := by
  show execBreakpointHit n s = _
  rw [execBreakpointHit, h]

theorem clusterFrozen_due {s : State} {k : Nat} (h : cluStopped s k = true) :
    exec (.clusterFrozen k) s = .next (freezeNow s k) := event_due (f := fun s => freezeNow s k) h

theorem clusterFrozen_idle {s : State} {k : Nat} (h : cluStopped s k = false) : exec (.clusterFrozen k) s = .next s :=
  event_idle (f := fun s => freezeNow s k) h

/-- Freeze, breakpoint, watchpoint, thaw and `reset_ctx` (R419, R441, R443, R444, R447). -/
theorem freezeAndThaw : Parts.FreezeAndThaw := by
  intro k n s free
  refine ⟨?freeze, ?freezeBusy, ?breakpoint, ?noBreakpoint, ?watchpoint, ?noWatchpoint, ?stopped, ?moving, ?thaw, ?running, ?reset⟩
  case freeze => exact fun ⟨hf, hp⟩ => ⟨_, rfl, freezeAsked_freezeReq hf hp⟩
  case freezeBusy => exact fun h => congrArg Host.Outcome.next (freezeReq_busy h)
  case breakpoint => exact fun u hu ⟨hf, hp⟩ => ⟨_, breakpointHit_due hu, freezeAsked_requestFreeze hf hp ..⟩
  case noBreakpoint => exact breakpointHit_idle
  case watchpoint => exact fun u src hw ⟨hf, hp⟩ => ⟨_, rfl, freezeAsked_watchAnswer hw hf hp⟩
  case noWatchpoint => exact fun hw => congrArg Host.Outcome.next (watchAnswer_none hw)
  case stopped => exact fun h => ⟨_, clusterFrozen_due h, freezeNow_frozen s k⟩
  case moving => exact clusterFrozen_idle
  case thaw =>
    intro h
    obtain ⟨frozen, skid, cores⟩ := thaw_starts h
    exact ⟨_, rfl, frozen, skid, cores, thaw_registers h⟩
  case running =>
    exact fun h => ⟨congrArg Host.Outcome.next (thaw_running h), congrArg Host.Outcome.next (resetCtx_running h)⟩
  case reset => exact fun h => ⟨_, rfl, fun i hi => resetCtx_abandons h hi⟩

/-! ### The registers of the debug block (R6, R442, R443, R449, R452) -/

/-- The values of the registers that read back what was last written, from their debug block. -/
theorem dbgRead_rw (s : State) (k : Nat) :
    dbgRead s k 0x010 = (s.dbgOf k).claim.setWidth 64 ∧ dbgRead s k 0x018 = (s.dbgOf k).gcorr ++ (s.dbgOf k).vcorr ∧
    dbgRead s k 0x040 = smGet 0 (s.dbgOf k).bkptAddr 0 ∧ dbgRead s k 0x0B0 = smGet 0 (s.dbgOf k).bkptAddr 7 ∧
    dbgRead s k 0x048 = smGet 0 (s.dbgOf k).bkptSel 0 ∧ dbgRead s k 0x0B8 = smGet 0 (s.dbgOf k).bkptSel 7 ∧
    dbgRead s k 0x0C0 = smGet 0 (s.dbgOf k).watchAddr 0 ∧ dbgRead s k 0x0F0 = smGet 0 (s.dbgOf k).watchAddr 3 ∧
    dbgRead s k 0x110 = (s.dbgOf k).trcRp.setWidth 64 ∧ dbgRead s k 0x120 = (s.dbgOf k).trcLost.setWidth 64 ∧
    dbgRead s k 0x140 = (s.dbgOf k).prf := ⟨rfl, rfl, rfl, rfl, rfl, rfl, rfl, rfl, rfl, rfl, rfl⟩

/-- The debug block after a write of such a register. -/
def Dbg.rwWritten (d : Dbg) (off : Nat) (v : DWord) : Dbg :=
  match off with
  | 0x010 => { d with claim := v.setWidth 24 }
  | 0x018 => { d with gcorr := v.extractLsb' 32 32, vcorr := v.setWidth 32 }
  | 0x040 => { d with bkptAddr := smSet 0 d.bkptAddr 0 (v &&& 0xE0FFFFFFFFFFFFFF) }
  | 0x0B0 => { d with bkptAddr := smSet 0 d.bkptAddr 7 (v &&& 0xE0FFFFFFFFFFFFFF) }
  | 0x048 => { d with bkptSel := smSet 0 d.bkptSel 0 (v &&& 0x00000007FFFFFFFF) }
  | 0x0B8 => { d with bkptSel := smSet 0 d.bkptSel 7 (v &&& 0x00000007FFFFFFFF) }
  | 0x0C0 => { d with watchAddr := smSet 0 d.watchAddr 0 (v &&& 0xE0FFFFFFFFFFFFFF) }
  | 0x0F0 => { d with watchAddr := smSet 0 d.watchAddr 3 (v &&& 0xE0FFFFFFFFFFFFFF) }
  | 0x110 => { d with trcRp := v.setWidth 32 }
  | 0x120 => { d with trcLost := v.setWidth 32 }
  | 0x140 => { d with prf := v &&& 0x00000000FFFFFFF1 }
  | _ => d

theorem dbgWrite_rw (s : State) (k : Nat) (v : DWord) :
    ∀ p ∈ Tables.dbgRegs, dbgWrite s k p.1 v = s.setDbg k ((s.dbgOf k).rwWritten p.1 v) := by
  simp only [Tables.dbgRegs, List.forall_mem_cons]
  exact ⟨rfl, rfl, rfl, rfl, rfl, rfl, rfl, rfl, rfl, rfl, rfl, fun _ h => nomatch h⟩

theorem setWidth_setWidth_eq_and {n : Nat} (h : n ≤ 64) (v : DWord) :
    (v.setWidth n).setWidth 64 = v &&& BitVec.ofNat 64 (2 ^ n - 1) := by
  have hn : 2 ^ n - 1 < 2 ^ 64 := by have := Nat.pow_le_pow_right (n := 2) (by decide) h; omega
  apply BitVec.eq_of_toNat_eq
  rw [BitVec.toNat_and, BitVec.toNat_ofNat, Nat.mod_eq_of_lt hn, Nat.and_two_pow_sub_one_eq_mod, BitVec.toNat_setWidth,
    BitVec.toNat_setWidth]
  exact Nat.mod_eq_of_lt (by have := Nat.mod_lt v.toNat (Nat.two_pow_pos n); omega)

theorem extractLsb'_append_setWidth (v : DWord) : (v.extractLsb' 32 32 ++ v.setWidth 32 : BitVec (32 + 32)) = v := by
  rw [BitVec.setWidth_eq_extractLsb' (by decide)]
  exact (BitVec.extractLsb'_append_extractLsb'_eq_extractLsb' (start₁ := 0) rfl).trans BitVec.extractLsb'_eq_self

/-- A write of one of these registers is what it then reads. -/
theorem dbgRead_rwWritten_same (s : State) (k : Nat) (v : DWord) :
    ∀ p ∈ Tables.dbgRegs, dbgRead (s.setDbg k ((s.dbgOf k).rwWritten p.1 v)) k p.1 = v &&& p.2 := by
  have claim := setWidth_setWidth_eq_and (n := 24) (by decide) v
  have counter := setWidth_setWidth_eq_and (n := 32) (by decide) v
  have pair := (extractLsb'_append_setWidth v).trans BitVec.and_allOnes.symm
  simpa [Tables.dbgRegs, dbgRead_rw, Dbg.rwWritten] using ⟨claim, pair, counter⟩

/-- The others read as before: no two of them share a field of the block, or an entry of one. -/
theorem dbgRead_rwWritten_other (s : State) (k : Nat) (v : DWord) : ∀ p ∈ Tables.dbgRegs, ∀ q ∈ Tables.dbgRegs, q.1 ≠ p.1 →
    dbgRead (s.setDbg k ((s.dbgOf k).rwWritten p.1 v)) k q.1 = dbgRead s k q.1 := by
  simp [Tables.dbgRegs, dbgRead_rw, Dbg.rwWritten]

/-! ### Trace control (R449) -/

/-- The cadence misses of a core counted anew (R452). -/
def Core.recount (c : Core) : Core := { c with cadMiss := 0 }

/-- The trace of a cluster with the pages of its buffer that translate pinned (R386). -/
def pinTrace (s : State) (k n : Nat) : State := (nats 0 n).foldl (fun s p => trcPinUnit s k (128 * p)) s

theorem pinTrace_cores (s : State) (k n : Nat) : (pinTrace s k n).cores = s.cores :=
  foldl_keeps (f := fun s p => trcPinUnit s k (128 * p)) State.cores (fun s _ => trcPinUnit_cores s k _) _ s

theorem pinTrace_mem (s : State) (k n : Nat) : (pinTrace s k n).mem = s.mem :=
  foldl_keeps (f := fun s p => trcPinUnit s k (128 * p)) State.mem (fun s _ => trcPinUnit_mem s k _) _ s

theorem unpinned_pinTrace (s : State) (k n : Nat) : ((pinTrace s k n).dbgOf k).unpinned = (s.dbgOf k).unpinned :=
  foldl_keeps (f := fun s p => trcPinUnit s k (128 * p)) (fun s => (s.dbgOf k).unpinned) (fun s _ => unpinned_trcPinUnit s k _) _ s

theorem trace_of_unpinned {d e : Dbg} (h : d.unpinned = e.unpinned) : d.trcCtl = e.trcCtl ∧ d.trcWp = e.trcWp := by
  simp only [Dbg.unpinned, Dbg.mk.injEq] at h
  simp only [h, and_self]

/-- The debug block of a cluster whose trace begins with the control word `v`. -/
def Dbg.armedWith (d : Dbg) (v : DWord) : Dbg := { d with trcCtl := v &&& 0x1F1F, trcWp := 0, trcPins := [] }

/-- The control word of an armed trace after a write: its size stays. -/
def trcCtlKept (old v : DWord) : DWord := ((v &&& 0x1F1F) &&& ~~~0x1F00) ||| (old &&& 0x1F00)

theorem armed_and {v : DWord} (h : v.getLsbD 0 = true) : (v &&& 0x1F1F).getLsbD 0 = true := by
  rw [BitVec.getLsbD_and, h]; rfl

theorem armed_trcCtlKept {v : DWord} (old : DWord) (h : v.getLsbD 0 = true) : (trcCtlKept old v).getLsbD 0 = true := by
  simp only [trcCtlKept, BitVec.getLsbD_or, BitVec.getLsbD_and, h]; rfl

theorem size_trcCtlKept (old v : DWord) : (trcCtlKept old v).extractLsb' 8 5 = old.extractLsb' 8 5 := by
  have inside : ∀ i, i < 5 → (~~~0x1F00 : DWord).getLsbD (8 + i) = false ∧ (0x1F00 : DWord).getLsbD (8 + i) = true := by decide
  ext i hi
  obtain ⟨hm, hs⟩ := inside i hi
  simp only [trcCtlKept, BitVec.getElem_extractLsb', BitVec.getLsbD_or, BitVec.getLsbD_and, hm, hs, Bool.and_false, Bool.and_true,
    Bool.false_or]

theorem trcCtlWrite_armed {s : State} {k : Nat} {v : DWord} (ha : (s.dbgOf k).trcCtl.getLsbD 0 = true) (hv : v.getLsbD 0 = true) :
    trcCtlWrite s k v = s.setDbg k { s.dbgOf k with trcCtl := trcCtlKept (s.dbgOf k).trcCtl v } := by
  have stays := armed_trcCtlKept (s.dbgOf k).trcCtl hv
  unfold trcCtlKept at stays ⊢
  simp only [trcCtlWrite, ha, if_true, stays, Bool.not_true, Bool.false_eq_true, if_false]

theorem trcCtlWrite_arms {s : State} {k : Nat} {v : DWord} (ha : (s.dbgOf k).trcCtl.getLsbD 0 = false) (hv : v.getLsbD 0 = true) :
    trcCtlWrite s k v = (nats (24 * k) 24).foldl (fun s n => s.updN n Core.recount)
      (pinTrace (s.setDbg k ((s.dbgOf k).armedWith v)) k (2 ^ ((v &&& 0x1F1F).extractLsb' 8 5).toNat)) := by
  simp only [trcCtlWrite, ha, armed_and hv, Bool.not_true, Bool.false_eq_true, if_false]
  rfl

theorem armed_or_one (v : DWord) : (v ||| 1).getLsbD 0 = true := by rw [BitVec.getLsbD_or]; exact Bool.or_true _

/-- Arming a trace writes its control word, starts it empty and counts the cadence misses of its cores anew. -/
theorem trcCtlWrite_starts {s : State} {k : Nat} {v : DWord} (ha : (s.dbgOf k).trcCtl.getLsbD 0 = false) (hv : v.getLsbD 0 = true) :
    (trcCtlWrite s k v).mem = s.mem ∧ ((trcCtlWrite s k v).dbgOf k).trcCtl = v &&& 0x1F1F ∧
      ((trcCtlWrite s k v).dbgOf k).trcWp = 0 ∧
      ∀ n, (trcCtlWrite s k v).coreN n = if n ∈ nats (24 * k) 24 then (s.coreN n).recount else s.coreN n := by
  rw [trcCtlWrite_arms ha hv]
  generalize 2 ^ ((v &&& 0x1F1F).extractLsb' 8 5).toNat = pages
  obtain ⟨word, place⟩ := trace_of_unpinned (unpinned_pinTrace (s.setDbg k ((s.dbgOf k).armedWith v)) k pages)
  rw [dbgOf_foldl_updN, foldl_updN_mem, pinTrace_mem, word, place, State.dbgOf_setDbg, if_pos rfl]
  refine ⟨rfl, rfl, rfl, fun n => ?_⟩
  rw [coreN_foldl_updN _ (nodup_nats ..), coreN_congr (pinTrace_cores ..), State.coreN_setDbg]

/-- A write that arms a trace: what it starts, and what stays of one that is armed already (R449, R452). -/
theorem trcArm_effect (s : State) (k : Nat) (v : DWord) : ∃ t, exec (.trcArm k v) s = .next t ∧
    (t.dbgOf k).trcCtl.getLsbD 0 = true ∧ t.mem = s.mem ∧ (∀ n, (t.coreN n).recount = (s.coreN n).recount) ∧
    ((s.dbgOf k).trcCtl.getLsbD 0 = false → (t.dbgOf k).trcCtl = (v ||| 1) &&& 0x1F1F ∧ (t.dbgOf k).trcWp = 0 ∧
      ∀ i, i < 24 → (t.coreN (24 * k + i)).cadMiss = 0) ∧
    ((s.dbgOf k).trcCtl.getLsbD 0 = true → (t.dbgOf k).trcCtl.extractLsb' 8 5 = (s.dbgOf k).trcCtl.extractLsb' 8 5 ∧
      (t.dbgOf k).trcWp = (s.dbgOf k).trcWp ∧ t.cores = s.cores) := by
  refine ⟨trcCtlWrite s k (v ||| 1), rfl, ?_⟩
  have hv := armed_or_one v
  cases ha : (s.dbgOf k).trcCtl.getLsbD 0 with
  | false =>
    obtain ⟨mem, word, place, cores⟩ := trcCtlWrite_starts ha hv
    refine ⟨word ▸ armed_and hv, mem, fun n => ?_, fun _ => ⟨word, place, fun i hi => ?_⟩, fun h => nomatch h⟩
    · rw [cores]; split <;> rfl
    · rw [cores, if_pos (mem_cluster hi)]; rfl
  | true =>
    rw [trcCtlWrite_armed ha hv, State.dbgOf_setDbg, if_pos rfl]
    exact ⟨armed_trcCtlKept _ hv, rfl, fun _ => rfl, fun h => (nomatch h), fun _ => ⟨size_trcCtlKept .., rfl, rfl⟩⟩

/-! ### The dump windows, BAR4 and the inbound table (R446, R462, R466) -/

theorem dbgWrite_window {s : State} {k off : Nat} {v : DWord} (h : 0x100000 ≤ off) : dbgWrite s k off v = dumpWrite s k off v :=
  if_neg (by omega)

theorem dumpWrite_running {s : State} {k off : Nat} {v : DWord} (h : (s.dbgOf k).frozen = false) : dumpWrite s k off v = s := by
  rw [dumpWrite, h]; rfl

theorem dumpWrite_frozen {s : State} {k off : Nat} {v : DWord} (h : (s.dbgOf k).frozen = true)
    (ho : off < 0x100000 + 24 * 0x200000) : ∃ ws, ws.length = 8 ∧
      dumpWrite s k off v = s.setDbg k { s.dbgOf k with dump := (s.dbgOf k).dump ++ ws } := by
  have inside : ¬ 24 ≤ (off - 0x100000) / 0x200000 := by omega
  have taken : ¬ (!(s.dbgOf k).frozen || decide (24 ≤ (off - 0x100000) / 0x200000)) = true := by simp [h, inside]
  refine ⟨(nats 0 8).map fun i => _, ?_, if_neg taken⟩
  rw [List.length_map, nats, List.length_map, List.length_range]

theorem registerWrite_dbg (s : State) (k off : Nat) (v : DWord) :
    exec (.registerWrite (.dbg k) off v) s = .next (dbgWrite s k off v) := rfl

theorem registerWrite_bar4 (s : State) (off : Nat) (v : DWord) : exec (.registerWrite .bar4 off v) s =
    .next (if readyBit s 16 && decide (off < 0x20000000) then dbgWrite s (off / 0x4000000) (off % 0x4000000) v else s) := rfl

theorem registerWrite_inbound (s : State) (off : Nat) (v : DWord) : exec (.registerWrite .inbound off v) s =
    .next (if off < 2 ^ 19 then { s with inbound := smPut s.inbound off (v &&& 0x000FFFFFFFE000FF) } else s) := rfl

/-- Writes of the debug block, of BAR4 and of the inbound table, and the arming of a trace (R6, R446, R449, R452, R462, R466). -/
theorem debugRegisters : Parts.DebugRegisters := by
  intro k v s wr
  refine ⟨?register, trcArm_effect s k v, fun off ho => ⟨?windowRunning, ?windowFrozen⟩, fun w => ⟨?bar4, ?bar4Down⟩, ?inbound⟩
  case register =>
    exact fun p hp => ⟨_, (registerWrite_dbg ..).trans (congrArg _ (dbgWrite_rw s k v p hp)), dbgRead_rwWritten_same s k v p hp,
      dbgRead_rwWritten_other s k v p hp, rfl, rfl⟩
  case windowRunning => exact fun h => by rw [registerWrite_dbg, dbgWrite_window ho, dumpWrite_running h]
  case windowFrozen =>
    intro hb h
    obtain ⟨ws, len, written⟩ := dumpWrite_frozen (v := v) h hb
    refine ⟨_, (registerWrite_dbg ..).trans (congrArg _ ((dbgWrite_window ho).trans written)), rfl, rfl, ?_⟩
    rw [State.dbgOf_setDbg, if_pos rfl, List.length_append, len]
  case bar4 => exact fun h => by rw [registerWrite_bar4, h, decide_eq_true (show w.toNat < 0x20000000 from w.isLt)]; rfl
  case bar4Down => exact fun h => by rw [registerWrite_bar4, h]; rfl
  case inbound => exact fun i => by rw [registerWrite_inbound, if_pos i.isLt]

/-- Settles O58: freeze and thaw, and the registers of the debug block. -/
theorem debugEvents : Obligations.DebugEvents := ⟨freezeAndThaw, debugRegisters⟩

end Sys2Proof.Machine
end

section
/-! SUPPORT. The frame of the register instructions (R84, R210 to R218): what completion and the write of a register leave. -/

namespace Sys2Proof.Machine

open Sys2Proof.Safety

/-! ### What completion leaves of a core (R51 to R53, R210, R245) -/

/-- A core without the parts that the completion of an instruction may change: the PC, the end of a pause, the waits taken, and
the halyard. -/
def Core.settled (c : Core) : Core :=
  { c with ctl := { c.ctl with pc := 0, pauseEnd := none, took := none }, hal := [], held := [] }

theorem settled_setPc (c : Core) (p : VAddr) : (setPc c p).settled = c.settled := rfl

theorem settled_takeOne (c : Core) (i : Nat) : (takeOne c i).settled = c.settled := by unfold takeOne; split <;> rfl

theorem settled_takeWaits (c : Core) (e : Nat) (h : Hal) : (takeWaits c e h).settled = c.settled := by
  cases before : hWB h <;> cases after : hWA h <;> simp [takeWaits, before, after, settled_takeOne]

theorem settled_takeOnce (c : Core) (h : Hal) : (takeOnce c h).settled = c.settled := by
  unfold takeOnce
  split
  · rfl
  · exact settled_takeWaits c 0 h

theorem settled_tookDone (c : Core) : (tookDone c).settled = c.settled := by unfold tookDone; split <;> rfl

theorem settled_wakePause (k : DWord) (c : Core) : (wakePause k c).settled = c.settled := by unfold wakePause; split <;> rfl

theorem settled_bump (c : Core) (i : Nat) : (bump c i).settled = c.settled := by unfold bump; split <;> rfl

theorem settled_signalOne (k : DWord) (c : Core) (i : Nat) : (signalOne k c i).settled = c.settled := by
  rw [signalOne, settled_bump]
  split
  · exact settled_wakePause k c
  · rfl

theorem settled_signal (k : DWord) (c : Core) (e : Nat) (h : Hal) : (signal k c e h).settled = c.settled := by
  cases before : hSB h <;> cases after : hSA h <;> simp [signal, before, after, settled_signalOne]

theorem settled_finish (s : State) (h : Hal) (p : VAddr) : (finish s h p).core.settled = s.core.settled := by
  rw [finish, State.core_upd, settled_signal, settled_tookDone, settled_takeOnce, settled_setPc]

/-- What is read of a core is read of its settled parts: its registers, its flags and what a register instruction leaves. -/
theorem regGet_settled (c : Core) : regGet c.settled = regGet c := rfl
theorem fflags_settled (c : Core) : c.settled.ctl.fflags = c.ctl.fflags := rfl
theorem still_settled (c : Core) : Core.still c.settled = Core.still c := rfl

/-! ### What an effect on the registers and the flags leaves -/

theorem still_regSet (c : Core) (d : Reg) (v : DWord) : Core.still (regSet c d v) = Core.still c := by
  unfold regSet
  split
  · rfl
  · split
    · rfl
    · split <;> rfl

theorem fflags_regSet (c : Core) (d : Reg) (v : DWord) : (regSet c d v).ctl.fflags = c.ctl.fflags := by
  obtain ⟨-, flags, -⟩ := regSet_frame c d v
  exact flags

theorem still_orFlags (c : Core) (f : BitVec 6) : Core.still (orFlags c f) = Core.still c := rfl

/-- Memories are outside what an instruction that changes registers alone may change. -/
theorem allBytes_of_onlyRegisters {s t : State} (h : OnlyRegisters s t) : AllBytes s t := by
  obtain ⟨outside, others, acting⟩ := h
  have mem := congrArg State.mem outside
  have clusters := congrArg State.clusters outside
  have cur := congrArg State.cur outside
  dsimp only at mem clusters cur
  intro x
  cases x with
  | phys pa e => exact congrArg (memGet · pa) mem
  | spad k a => simp only [byteAt, State.clu, clusters]
  | tcm n a =>
    refine congrArg (memGet · a) ?_
    by_cases hn : n = s.cur
    · have tcm := congrArg Core.tcm acting
      rw [hn]
      rwa [State.core, cur] at tcm
    · rw [others n hn]

/-- An effect on the registers and the flags of the acting core, completed. -/
theorem registers_finish {s : State} {f : Core → Core} {d : Reg} (hstill : Core.still (f s.core) = Core.still s.core)
    (hregs : ∀ r, r ≠ d → regGet (f s.core) r = regGet s.core r) (h : Hal) (p : VAddr) :
    OnlyRegisters s (finish (s.upd f) h p) ∧ OtherRegisters s (finish (s.upd f) h p) d ∧ AllBytes s (finish (s.upd f) h p) ∧
      (finish (s.upd f) h p).core.ctl.fflags = (f s.core).ctl.fflags := by
  have settled : (finish (s.upd f) h p).core.settled = (f s.core).settled := by rw [settled_finish, State.core_upd]
  have only : OnlyRegisters s (finish (s.upd f) h p) := by
    refine ⟨rfl, fun n hn => ?_, ?_⟩
    · exact (State.coreN_upd (s.upd f) _ n).trans ((if_neg hn).trans ((State.coreN_upd s f n).trans (if_neg hn)))
    · rw [← still_settled, settled, still_settled, hstill]
  refine ⟨only, fun r hr => ?_, allBytes_of_onlyRegisters only, ?_⟩
  · rw [reg, ← regGet_settled, settled, regGet_settled, hregs r hr]; rfl
  · rw [← fflags_settled, settled, fflags_settled]

/-! ### The instructions -/

/-- Each instruction of the first table writes one register. -/
theorem registerOnly_runs (h : Hal) (d a b : Reg) (m : BitVec 10) (x : BitVec 16) (k : BitVec 6) (n : BitVec 3) :
    ∀ i ∈ Tables.registerOnly h d a b m x k n, ∃ v, ∀ s, exec i s = regOp i h 4 d v s := by
  simp only [Tables.registerOnly, Tables.intOps, Tables.immOps, Tables.shiftOps, List.map_cons, List.map_nil, List.cons_append,
    List.nil_append, List.forall_mem_cons, List.not_mem_nil, IsEmpty.forall_iff, implies_true, and_true]
  and_intros
  all_goals exact ⟨_, fun _ => rfl⟩

/-- A float instruction writes one register and ORs its flags. -/
theorem registerFlags_runs (h : Hal) (d a b : Reg) (m dst src : BitVec 3) :
    ∀ i ∈ Tables.registerFlags h d a b m dst src, ∃ (v : Core → DWord) (fl : Core → Flags), ∀ s,
      exec i s = scalar i h 4 (fun s => .done (s.upd fun c => orFlags (regSet c d (v c)) (fl c))) s := by
  simp only [Tables.registerFlags, Tables.floatOps, List.map_cons, List.map_nil, List.cons_append, List.nil_append,
    List.forall_mem_cons, List.not_mem_nil, IsEmpty.forall_iff, implies_true, and_true]
  and_intros
  all_goals exact ⟨_, _, fun _ => rfl⟩

/-- Flags that are ORed in are added to those that are there. -/
theorem flags_or_and_self (x y : Flags) : (x ||| y) &&& x = x := by
  ext i
  simp only [BitVec.getElem_and, BitVec.getElem_or]
  cases x[i] <;> simp

/-- Settles O60: each instruction completes with an effect on one register and the flags. -/
theorem registerOnlyFrame : Obligations.RegisterOnlyFrame := by
  intro h d a b m x k n f g s t ready
  constructor
  · intro i hi ht
    obtain ⟨v, runs⟩ := registerOnly_runs h d a b m x k n i hi
    rw [runs, regOp_ready ready] at ht
    obtain rfl := Host.Outcome.next.inj ht
    obtain ⟨only, others, bytes, flags⟩ := registers_finish (s := s) (f := fun c => regSet c d (v s.core))
      (still_regSet ..) (fun r hr => regGet_regSet_of_ne _ d r _ hr) h (s.core.ctl.pc + 4)
    exact ⟨only, others, bytes, flags.trans (fflags_regSet ..)⟩
  · intro i hi ht
    obtain ⟨v, fl, runs⟩ := registerFlags_runs h d a b n f g i hi
    rw [runs, scalar_ready ready] at ht
    obtain rfl := Host.Outcome.next.inj ht
    obtain ⟨only, others, bytes, flags⟩ := registers_finish (s := s) (f := fun c => orFlags (regSet c d (v c)) (fl c))
      ((still_orFlags ..).trans (still_regSet ..)) (fun r hr => regGet_regSet_of_ne _ d r _ hr) h (s.core.ctl.pc + 4)
    refine ⟨only, others, bytes, ?_⟩
    rw [flags, ← fflags_regSet s.core d (v s.core)]
    exact flags_or_and_self ..

end Sys2Proof.Machine
end

section
/-! SUPPORT. The tree of R90 as a plain fold: for an associative combination the shape of the tree and its empty positions make no
difference. -/

namespace Sys2Proof.Machine

/-! ### The tree of an associative combination (R90) -/

section
variable {α : Type} {comb : α → α → α}

theorem treeLevel_cons_cons (x y : Option α) (l : List (Option α)) :
    treeLevel comb (x :: y :: l) = Option.merge comb x y :: treeLevel comb l := by cases x <;> cases y <;> rfl

theorem length_treeLevel (l : List (Option α)) : (treeLevel comb l).length = (l.length + 1) / 2 := by
  induction l using treeLevel.induct with
  | case1 => simp [treeLevel]
  | case2 x => simp [treeLevel]
  | case3 x y l ih => rw [treeLevel_cons_cons, List.length_cons, ih, List.length_cons, List.length_cons]; omega

/-- A list of at most one position combines to what its first position holds. -/
theorem head_join_eq_foldr_merge {l : List (Option α)} (h : l.length ≤ 1) : l.head?.join = l.foldr (Option.merge comb) none :=
  match l with
  | [] => rfl
  | [x] => Option.merge_none_right.symm
  | _ :: _ :: _ => absurd h (by simp)

/-- One level of the tree keeps the combination of the positions. -/
theorem foldr_merge_treeLevel [Std.Associative comb] (l : List (Option α)) :
    (treeLevel comb l).foldr (Option.merge comb) none = l.foldr (Option.merge comb) none := by
  induction l using treeLevel.induct with
  | case1 => rfl
  | case2 x => rfl
  | case3 x y l ih =>
    rw [treeLevel_cons_cons, List.foldr_cons, ih, List.foldr_cons, List.foldr_cons]
    exact Std.Associative.assoc (op := Option.merge comb) ..

/-- `k` levels serve 2^k positions. -/
theorem treeRed_eq_foldr_merge [Std.Associative comb] {k : Nat} {l : List (Option α)} (h : l.length ≤ 2 ^ k) :
    treeRed comb k l = l.foldr (Option.merge comb) none := by
  induction k generalizing l with
  | zero => exact head_join_eq_foldr_merge h
  | succ k ih =>
    rw [treeRed]
    split
    · next short => exact head_join_eq_foldr_merge short
    · have half : (treeLevel comb l).length ≤ 2 ^ k := by rw [length_treeLevel]; omega
      rw [ih half, foldr_merge_treeLevel]

/-- The combination of a list from its first element on; none of an empty one. -/
def foldFirst (comb : α → α → α) : List α → Option α
  | [] => none
  | x :: xs => some (xs.foldl comb x)

theorem foldFirst_cons [Std.Associative comb] (x : α) (l : List α) :
    foldFirst comb (x :: l) = Option.merge comb (some x) (foldFirst comb l) := by
  cases l with
  | nil => rfl
  | cons y l => exact congrArg some List.foldl_assoc

/-- The empty positions make no difference. -/
theorem foldr_merge_eq_foldFirst [Std.Associative comb] (l : List (Option α)) :
    l.foldr (Option.merge comb) none = foldFirst comb (l.filterMap id) := by
  induction l with
  | nil => rfl
  | cons x l ih =>
    rw [List.foldr_cons, ih]
    cases x with
    | none => exact Option.merge_none_left
    | some a => exact (foldFirst_cons a _).symm

/-- The tree of an associative combination is the plain one of the values that are there. -/
theorem treeReduce_eq_foldFirst [Std.Associative comb] {l : List (Option α)} (h : l.length ≤ 16384) :
    treeReduce comb l = foldFirst comb (l.filterMap id) :=
  (treeRed_eq_foldr_merge (k := 14) h).trans (foldr_merge_eq_foldFirst l)

/-! ### A tree under a map that keeps the combination -/

variable {β : Type} {comb' : β → β → β} {φ : α → β}

theorem treeLevel_map (hφ : ∀ a b, comb' (φ a) (φ b) = φ (comb a b)) (l : List (Option α)) :
    treeLevel comb' (l.map (Option.map φ)) = (treeLevel comb l).map (Option.map φ) := by
  induction l using treeLevel.induct with
  | case1 => rfl
  | case2 x => rfl
  | case3 x y l ih =>
    simp only [List.map_cons, treeLevel_cons_cons, ih]
    cases x <;> cases y <;> simp [hφ]

theorem treeRed_map (hφ : ∀ a b, comb' (φ a) (φ b) = φ (comb a b)) (k : Nat) (l : List (Option α)) :
    treeRed comb' k (l.map (Option.map φ)) = (treeRed comb k l).map φ := by
  have head (l : List (Option α)) : (l.map (Option.map φ)).head?.join = l.head?.join.map φ := by
    cases l <;> rfl
  induction k generalizing l with
  | zero => exact head l
  | succ k ih =>
    rw [treeRed, treeRed, List.length_map]
    split
    · exact head l
    · rw [treeLevel_map hφ, ih]

end

/-! ### The integer combinations (R312) -/

/-- Taking the value with the larger key, the first of two with the same, is associative. -/
theorem assoc_largerKey (key : Nat → Int) (a b c : Nat) :
    let pick (a b : Nat) : Nat := if key a < key b then b else a
    pick (pick a b) c = pick a (pick b c) := by
  intro pick
  have larger {a b : Nat} (h : key a < key b) : pick a b = b := if_pos h
  have first {a b : Nat} (h : ¬ key a < key b) : pick a b = a := if_neg h
  by_cases ab : key a < key b <;> by_cases bc : key b < key c
  · rw [larger ab, larger bc, larger (ab.trans bc)]
  · rw [larger ab, first bc, larger ab]
  · rw [first ab, larger bc]
  · rw [first ab, first bc, first ab, first fun ac => by omega]

/-- The groups 2 and 3 are integers: minimum and maximum are associative. -/
theorem vMinMax_assoc {g : BitVec 2} (hg : 2 ≤ g.toNat) (mx : Bool) (w a b c : Nat) :
    vMinMax g mx w (vMinMax g mx w a b) c = vMinMax g mx w a (vMinMax g mx w b c) := by
  have int : ¬ g.toNat < 2 := by omega
  simp only [vMinMax, if_neg int]
  by_cases signed : g = 2
  · simp only [if_pos signed]
    cases mx with
    | true => exact assoc_largerKey (toS w) a b c
    | false => simpa using assoc_largerKey (fun x => - toS w x) a b c
  · simp only [if_neg signed]
    cases mx with
    | true => exact Nat.max_assoc a b c
    | false => exact Nat.min_assoc a b c

/-- The operations over integers, without their flags, are associative. -/
theorem redComb_assoc (op : RedOp) {g : BitVec 2} (hg : 2 ≤ g.toNat) (w : Nat) :
    Std.Associative fun a b => (redComb op g w a b).1 := by
  have int : ¬ g.toNat < 2 := by omega
  refine ⟨fun a b c => ?_⟩
  cases op with
  | add => simp only [redComb, if_neg int]; rw [Nat.mod_add_mod, Nat.add_mod_mod, Nat.add_assoc]
  | max => exact vMinMax_assoc hg true w a b c
  | min => exact vMinMax_assoc hg false w a b c
  | maxn => exact Nat.max_assoc a b c
  | minn => exact Nat.min_assoc a b c
  | and => exact Nat.and_assoc a b c
  | or => exact Nat.or_assoc a b c
  | xor => exact Nat.xor_assoc a b c

theorem redComb_int_flags (op : RedOp) {g : BitVec 2} (hg : 2 ≤ g.toNat) (w a b : Nat) : (redComb op g w a b).2 = 0 := by
  have int : ¬ g.toNat < 2 := by omega
  cases op with
  | add => simp only [redComb, if_neg int]
  | _ => rfl

/-- A tree over integers sets no flag. -/
theorem redTree_int (op : RedOp) {g : BitVec 2} (hg : 2 ≤ g.toNat) (w : Nat) (l : List (Option Nat)) :
    redTree op g w l = (treeReduce (fun a b => (redComb op g w a b).1) l).map fun v => (v, 0) :=
  treeRed_map (fun a b => by simp only [redComb_int_flags op hg]; rfl) 14 l

/-- Settles O43: an associative combination makes no difference between the tree and a fold, and the integer ones are
associative. -/
theorem integerTree : Obligations.IntegerTree := by
  intro op w l _ len _ i hi _
  have int : ∀ i ∈ [(RedOp.max, (2 : BitVec 2)), (.min, 2), (.add, 2), (.maxn, 3), (.minn, 3), (.and, 3), (.or, 3), (.xor, 3)],
      2 ≤ i.2.toNat := by decide
  have assoc := redComb_assoc op (int i hi) w
  rw [redTree_int op (int i hi), treeReduce_eq_foldFirst len]
  cases l.filterMap id with
  | nil => rfl
  | cons x xs => rfl

end Sys2Proof.Machine
end

section
/-! SUPPORT. Reductions and scans as members of the convoy in flight (R90, R91, R104, R312, R313). -/

namespace Sys2Proof.Machine

open Sys2Proof.Safety

/-! ### What a reduction makes of its tree -/

/-- The result of a reduction and its flags: the tree over the active elements, combined with the first element of B where there is
a B (R312). -/
def redOf (i : Instr) (op : RedOp) (g : BitVec 2) (f : VF) (c : Core) (cv : Convoy) : Nat × Flags :=
  let w := vSew c
  let tree := redTree op g w (Tables.actives i f c cv (vCount c i f))
  if f.b = .absent then tree.getD (redId op g w, 0)
  else match tree with
    | some x => ((redComb op g w (srcElem c cv w f.b 0) x.1).1, x.2 ||| (redComb op g w (srcElem c cv w f.b 0) x.1).2)
    | none => (srcElem c cv w f.b 0, 0)

/-- A result as an e-register takes it (R312). -/
def redDword (op : RedOp) (g : BitVec 2) (w r : Nat) : DWord :=
  if redSigned op g then BitVec.ofInt 64 (toS w r) else BitVec.ofNat 64 r

/-- The elements that a reduction into a group writes: element 0, and the tail where it is agnostic (R104). -/
def redElems (c : Core) (f : VF) (v : View) (w r : Nat) : List (Nat × Nat) :=
  (0, r) :: if f.tailAgn then (nats 1 (vMax c w v - 1)).map fun k => (k, ones w) else []

/-- The core and the convoy that a reduction leaves. -/
def redPut (op : RedOp) (g : BitVec 2) (f : VF) (c : Core) (cv : Convoy) (r : Nat × Flags) : Core × Convoy :=
  let cv' := { cv with flags := cv.flags ||| r.2 }
  match f.d with
  | .ereg _ => (c, setE cv' f.d (redDword op g (vSew c) r.1))
  | .view v => (c.updGrd fun e => putElems e v (vSew c) (redElems c f v (vSew c) r.1), cv')
  | _ => (c, cv')

section
variable {i : Instr} {op : RedOp} {g : BitVec 2} {f : VF} {s : State} {cv : Convoy}

theorem vRed_run (h : Running s i cv) :
    let r := redPut op g f s.core cv (redOf i op g f s.core cv)
    vRed i op g f s = ran s r.1 r.2 := by
  rw [vRed, coreMember_run h]
  dsimp only [redOf, redIn, Tables.actives]
  generalize redTree op g (vSew s.core) _ = tree
  unfold redPut
  cases tree <;> cases f.b <;> rfl

theorem vScan_run (h : Running s i cv) :
    let l := Tables.actives i f s.core cv (vCount s.core i f)
    let r := mapMember i f (fun _ _ k =>
      (redTree op g (vSew s.core) (l.take (k + 1))).getD (redId op g (vSew s.core), 0)) s.core cv
    vScan i op g f s = ran s r.1 r.2 :=
  coreMember_run h

end

/-! ### The places of a result -/

theorem redSigned_iff (op : RedOp) (g : BitVec 2) :
    redSigned op g = true ↔ g = 2 ∧ (op = .add ∨ op = .max ∨ op = .min) := by
  simp [redSigned, or_assoc]

theorem redDword_eq (op : RedOp) (g : BitVec 2) (w r : Nat) : redDword op g w r =
    if g = 2 ∧ (op = .add ∨ op = .max ∨ op = .min) then BitVec.ofInt 64 (toS w r) else BitVec.ofNat 64 r :=
  if_congr (redSigned_iff op g) rfl rfl

/-- A result in element 0, and a tail of ones where it is agnostic. -/
theorem putElems_redElems (c : Core) (f : VF) (v : View) (w r : Nat) (e : Grd) :
    putElems e v w (redElems c f v w r) =
      if f.tailAgn = true then Tables.onesFrom (elemSet e v w 0 r) v w 1 (vMax c w v) else elemSet e v w 0 r := by
  rw [redElems]
  split
  · rw [putElems, List.foldl_cons, List.foldl_map]; rfl
  · rfl

/-- A reduction and its scan, for instructions that run by the shared meanings. -/
theorem redResult_of_exec {red scan : Instr} {op : RedOp} {g : BitVec 2} {f : VF}
    (hred : ∀ s, exec red s = vRed red op g f s) (hscan : ∀ s, exec scan s = vScan scan op g f s) (s : State) (cv : Convoy) :
    Tables.RedResult s cv red scan op g f := by
  refine ⟨fun run => ⟨fun n hd => ?ereg, fun v hd => ?group⟩, fun run => (hscan s).trans (vScan_run run)⟩
  case ereg =>
    refine (hred s).trans ((vRed_run run).trans ?_)
    rw [redPut, hd, redDword_eq]
    rfl
  case group =>
    refine (hred s).trans ((vRed_run run).trans ?_)
    simp only [redPut, hd, putElems_redElems]
    rfl

/-- Settles O42: every reduction runs by `vRed`, every scan by `vScan`. -/
theorem reductionResults : Obligations.ReductionResults := by
  intro f s cv
  constructor
  · intro p hp g
    simp only [Tables.redOps, List.mem_cons, List.not_mem_nil, or_false] at hp
    obtain rfl | rfl | rfl := hp <;> exact redResult_of_exec (fun _ => rfl) (fun _ => rfl) s cv
  · intro p hp
    simp only [Tables.redPlain, List.mem_cons, List.not_mem_nil, or_false] at hp
    obtain rfl | rfl | rfl | rfl | rfl := hp <;> exact redResult_of_exec (fun _ => rfl) (fun _ => rfl) s cv

end Sys2Proof.Machine
end

section
/-! SUPPORT. Conversions as members of the convoy in flight (R78, R307, R310, R311). -/

namespace Sys2Proof.Machine

open Sys2Proof.Safety

/-! ### A member with one result for each active element -/

section
variable {i : Instr} {f : VF} {op op' : Core → Convoy → Nat → Nat × Flags} {s : State} {cv : Convoy}

/-- Only what the operation makes of the core and the convoy that the member starts from is used. -/
theorem mapMember_congr {c : Core} (h : op c cv = op' c cv) : mapMember i f op c cv = mapMember i f op' c cv := by
  rw [mapMember, h]; rfl

theorem mapMember_run (run : Running s i cv) (h : op s.core cv = op' s.core cv) :
    coreMember i (mapMember i f op) s = ran s (mapMember i f op' s.core cv).1 (mapMember i f op' s.core cv).2 := by
  rw [coreMember_run run, mapMember_congr h]

end

/-! ### One element of a conversion -/

/-- The pair of a conversion is in the low 5 bits of its control immediate (R307). -/
theorem cvtPair_extract (b : BitVec 8) : cvtPair (b.toNat % 32) = cvtPair (b.extractLsb' 0 5).toNat := by
  rw [BitVec.extractLsb'_toNat, Nat.shiftRight_zero]

/-- What a conversion makes of element `k`, with its draw in the stochastic mode. -/
def cvtElem (sat : Bool) (f : VF) (c : Core) (cv : Convoy) (k : Nat) : Nat × Flags :=
  let m := cvtMode (immOf f.b)
  let p := cvtPair ((immOf f.b).extractLsb' 0 5).toNat
  vConvert p.1 p.2 sat m (if m = 4 then drawOf c cv k else 0) (srcElem c cv (fmtBits p.1) f.a k)

/-- A conversion as it runs: one value for each active element, and the counter moved on in the stochastic mode. -/
theorem vCvt_run {i : Instr} {sat : Bool} {f : VF} {op : Core → Convoy → Nat → Nat × Flags} {s : State} {cv : Convoy}
    (run : Running s i cv) (h : cvtElem sat f s.core cv = op s.core cv) : vCvt i sat f s =
      ran s (mapMember i f op s.core cv).1
        (Tables.drewIf (cvtMode (immOf f.b) = 4) s.core (mapMember i f op s.core cv).2) := by
  rw [vCvt, coreMember_run run, ← mapMember_congr h]
  dsimp only
  rw [cvtPair_extract]
  rfl

/-- The low nibble of a byte is that of the even element, the high one that of the odd (R311). -/
theorem nibble_eq (x k : Nat) : x / 16 ^ (k % 2) % 16 = if k % 2 = 0 then x % 16 else x / 16 % 16 := by
  split
  · next even => rw [even, Nat.pow_zero, Nat.div_one]
  · next odd => rw [Nat.mod_two_ne_zero.1 odd, Nat.pow_one]

/-- Settles O40: each conversion is a member with one value for each active element. -/
theorem conversionResults : Obligations.ConversionResults := by
  intro f s cv c b m p draw
  refine ⟨?convert, fun v hv run => ?dequant, fun run => ?unpack⟩
  case convert =>
    simp only [List.forall_mem_cons, Tables.Gives]
    refine ⟨fun run => ?_, fun run => ?_, fun _ h => nomatch h⟩
    · show execVcvt f s = _
      exact vCvt_run run rfl
    · show execVcvtSat f s = _
      exact vCvt_run run rfl
  case dequant =>
    show execVdequant f s = _
    refine mapMember_run run (funext fun k => ?_)
    simp only [hv]
    norm_cast
  case unpack =>
    show execVunpack f s = _
    refine mapMember_run run (funext fun k => ?_)
    simp only [nibble_eq]
    rfl

end Sys2Proof.Machine
end

section
/-! SUPPORT. The statistics instructions (R168, R169, R278 to R282): the record operand, the sample that `stread` and `streset` write
to the core's own TCM, and what `streset` and `starm` leave of the record. -/

namespace Sys2Proof.Machine

open Sys2Proof.Safety

/-! ### Register values (R250, R278) -/

/-- The bits of a register from bit `k` up are zero. -/
theorem highBits_zero_iff (v : DWord) (k : Nat) : v.extractLsb' k (64 - k) = 0 ↔ v.toNat < 2 ^ k := by
  rw [← BitVec.toNat_inj, BitVec.extractLsb'_toNat, Nat.shiftRight_eq_div_pow, BitVec.ofNat_eq_ofNat, BitVec.toNat_ofNat, Nat.zero_mod]
  have top : v.toNat / 2 ^ k < 2 ^ (64 - k) := by
    rw [Nat.div_lt_iff_lt_mul (Nat.two_pow_pos k), ← Nat.pow_add]
    exact v.isLt.trans_le (Nat.pow_le_pow_right (by decide) (by omega))
  rw [Nat.mod_eq_of_lt top, Nat.div_eq_zero_iff_lt (Nat.two_pow_pos k)]

/-- A record operand with its reserved bits zero is its id. -/
theorem setWidth_recId {v : DWord} (hv : v.toNat < 2 ^ 20) : (v.setWidth 20).setWidth 64 = v := by
  bv_omega

theorem and_recId {v : DWord} (hv : v.toNat < 2 ^ 20) : v.setWidth 64 &&& 0xFFFFF = v := by
  rw [BitVec.setWidth_eq]
  apply BitVec.eq_of_toNat_eq
  rw [BitVec.toNat_and]
  exact (Nat.and_two_pow_sub_one_eq_mod v.toNat 20).trans (Nat.mod_eq_of_lt hv)

section
variable {v : DWord} {s : State} {k : BitVec 20 → Nat → State → Res}

theorem recOperand_some {pa : Nat} (hv : v.toNat < 2 ^ 20) (found : recAddr s.core (v.setWidth 20) = some pa) :
    recOperand v s k = k (v.setWidth 20) pa s := by
  rw [recOperand, if_neg (not_not_intro ((highBits_zero_iff v 20).2 hv)), found]

theorem recOperand_none (hv : v.toNat < 2 ^ 20) (absent : recAddr s.core (v.setWidth 20) = none) :
    recOperand v s k = .trap 0x08 v s := by
  rw [recOperand, if_neg (not_not_intro ((highBits_zero_iff v 20).2 hv)), absent]
  exact congrArg (Res.trap 0x08 · s) (and_recId hv)

end

/-! ### Requests and byte budgets (R62) -/

theorem charge_uncounted {s : State} {n : Nat} (free : counted s n = false) (pa k : Nat) (d : Dir) : charge s n pa k d = some s := by
  rw [charge, chargeDies, free]; rfl

theorem ctl_unhold (s : State) (n src m : Nat) : ((unhold s n src).coreN m).ctl = (s.coreN m).ctl := by
  rw [unhold, State.coreN_updN]; split <;> rfl

theorem tcm_unhold (s : State) (n src m : Nat) : ((unhold s n src).coreN m).tcm = (s.coreN m).tcm := by
  rw [unhold, State.coreN_updN]; split <;> rfl

/-! ### Bytes and numbers (R5) -/

theorem leBytes_leVal (l : List Byte) : leBytes (leVal l) l.length = l := by
  induction l with
  | nil => rfl
  | cons b t ih =>
    have low : BitVec.ofNat 8 (b.toNat + 256 * leVal t) = b := by bv_omega
    have high : (b.toNat + 256 * leVal t) / 256 = leVal t := by have := b.isLt; omega
    simp only [leVal, List.length_cons, leBytes, low, high, ih]

theorem leBytes_zero (n : Nat) : leBytes 0 n = List.replicate n 0 := by
  induction n with
  | zero => rfl
  | succ n ih => rw [leBytes, Nat.zero_div, ih]; rfl

theorem memWr_leVal (m : Mem) (a : Nat) (l : List Byte) : memWr m a l.length (leVal l) = memPut m a l := by
  rw [memWr, leBytes_leVal]

theorem memGet_memWr_zero (m : Mem) {a n j : Nat} (low : a ≤ j) (high : j < a + n) : memGet (memWr m a n 0) j = 0 := by
  rw [memWr, memGet_memPut, length_leBytes, if_pos ⟨low, high⟩, leBytes_zero, List.getD_replicate]
  omega

theorem memPut_append (m : Mem) (a : Nat) (l l' : List Byte) : memPut m a (l ++ l') = memPut (memPut m a l) (a + l.length) l' := by
  induction l generalizing m a with
  | nil => rfl
  | cons b t ih => rw [List.cons_append, memPut, ih, memPut, List.length_cons, Nat.add_assoc, Nat.add_comm 1]

theorem getD_memBytes (m : Mem) {a n i : Nat} (hi : i < n) : (memBytes m a n).getD i 0 = memGet m (a + i) := by
  induction n generalizing a i with
  | zero => omega
  | succ n ih =>
    cases i with
    | zero => rfl
    | succ i => rw [memBytes, List.getD_cons_succ, ih (by omega), Nat.add_assoc, Nat.add_comm 1]

theorem memRd_memWr_above (m : Mem) {a n b k : Nat} (v : Nat) (apart : b + k ≤ a) : memRd (memWr m a n v) b k = memRd m b k := by
  rw [memRd, memWr, memBytes_memPut_below m a b k _ apart, memRd]

/-! ### The record after `starm` and `streset` (R157, R168, R169) -/

/-- The state with other physical memory: what a step at a home die leaves that writes memory alone. -/
def State.withMem (s : State) (m : Mem) : State := { s with mem := m }

theorem recConfig_write (s : State) (pa : Nat) (cfg : BitVec 32) (m : Mem) :
    recConfig (s.withMem (memWr m (pa + 20) 4 cfg.toNat)) pa = cfg := by
  rw [recConfig, State.withMem, memRd_memWr, Nat.mod_eq_of_lt (b := 256 ^ 4) cfg.isLt, BitVec.ofNat_toNat, BitVec.setWidth_eq]

theorem recConfig_recArm (s : State) (pa : Nat) (w : DWord) :
    recConfig (recArm s pa w) pa = (recConfig s pa &&& ~~~armMask) ||| (w.setWidth 32 &&& armMask) := recConfig_write ..

theorem recConfig_recReset (s : State) (pa : Nat) : recConfig (recReset s pa) pa = recConfig s pa &&& 0x7FFFFFFF := recConfig_write ..

theorem generation_recReset (s : State) (pa : Nat) :
    memRd (recReset s pa).mem (pa + 16) 4 = (memRd s.mem (pa + 16) 4 + 1) % 2 ^ 32 := by
  rw [recReset, memRd_memWr_above _ _ (by omega), memRd_memWr, Nat.mod_eq_of_lt (b := 256 ^ 4) (BitVec.isLt _), BitVec.toNat_add,
    BitVec.toNat_ofNat, Nat.mod_add_mod]
  rfl

/-- All of a record but its generation, its config word and the two words after them. -/
theorem values_recReset (s : State) (pa : Nat) {i : Nat} (hi : i < 16 ∨ (32 ≤ i ∧ i < 128)) :
    memGet (recReset s pa).mem (pa + i) = 0 := by
  rw [recReset, memGet_memWr_of_outside _ _ _ _ _ (by omega), memGet_memWr_of_outside _ _ _ _ _ (by omega)]
  rcases hi with low | ⟨from32, high⟩
  · rw [memGet_memWr_of_outside _ _ _ _ _ (by omega), memGet_memWr_zero _ (by omega) (by omega)]
  · rw [memGet_memWr_zero _ (by omega) (by omega)]

/-- `starm` writes the config word of its record and no other byte (R169, R282). -/
theorem otherBytes_recArm (s : State) (pa : Nat) (w : DWord) : OtherBytes s (unhold (recArm s pa w) s.cur 0) (.phys pa 0) 128 := by
  intro x apart
  obtain ⟨a, e⟩ | ⟨k, a⟩ | ⟨n, a⟩ := x
  · refine memGet_memWr_of_outside _ _ _ _ _ ?_
    by_contra inside
    refine apart (a - pa) (by omega) ?_
    show a = pa + (a - pa)
    omega
  · rfl
  · exact congrArg (memGet · a) (tcm_unhold ..)

theorem sameControl_recArm (s : State) (pa : Nat) (w : DWord) : SameControl s (unhold (recArm s pa w) s.cur 0) :=
  fun n => by rw [ctl_unhold]; rfl

/-! ### Accesses to the core's own TCM (R41, R126) -/

section
variable {s : State} {w : Who} {ea : DWord} {n : Nat}

theorem formFault_tcm {c : Nat} (inside : ea.toNat < (s.gangOf c).tcmBlocks * 4096) : formFault s c 2 ea = none := by
  rw [formFault, if_neg (by decide), if_neg (by decide), if_pos rfl, if_neg (by omega)]

theorem resolve_tcm (aligned : ea.toNat % n = 0) (inside : ea.toNat < (s.gangOf w.core).tcmBlocks * 4096) (pins : List TlbEntry)
    (k : Kind) : resolve s w pins 2 ea n k = (s, .ok (.tcm w.core ea.toNat)) := by
  rw [resolve, if_neg (not_not_intro aligned), formFault_tcm inside]
  rfl

theorem storeAt_tcm (aligned : ea.toNat % n = 0) (inside : ea.toNat < (s.gangOf w.core).tcmBlocks * 4096) (pins : List TlbEntry)
    (k : Kind) (f : Nat → Nat) : storeAt s w pins 2 ea n k f =
      (locWrite s w (.tcm w.core ea.toNat) n (f (locRead s (.tcm w.core ea.toNat) n)), .done) := by
  rw [storeAt, resolve_tcm aligned inside]

end

theorem effAddr_toNat {sp : BitVec 2} {ea : DWord} {k : Nat} (away : sp ≠ 0) (fits : ea.toNat + k < 2 ^ 64) :
    (effAddr sp ea (k : Int)).toNat = ea.toNat + k := by
  rw [effAddr, if_neg away, BitVec.ofInt_natCast]
  bv_omega

/-- What a write to a TCM leaves: the state without the bytes of the TCMs and the notes about them. -/
def tcmFrame (s : State) : State × (Nat → Core) :=
  ({ s with cores := [] }, fun n => { s.coreN n with tcm := [], tcmDirty := [], tcmPoison := [] })

theorem tcmFrame_locWrite (s : State) (w : Who) (c a n v : Nat) : tcmFrame (locWrite s w (.tcm c a) n v) = tcmFrame s := by
  refine Prod.ext rfl (funext fun m => ?_)
  simp only [tcmFrame, locWrite, State.coreN_updN]
  split <;> rfl

theorem tcm_locWrite (s : State) (w : Who) (c a n v : Nat) :
    ((locWrite s w (.tcm c a) n v).coreN c).tcm = memWr (s.coreN c).tcm a n v := by
  simp only [locWrite, State.coreN_updN, if_true]

section
variable {s t : State} (same : tcmFrame t = tcmFrame s)
include same

theorem cur_of_tcmFrame : t.cur = s.cur := congrArg (State.cur ·.1) same
theorem mem_of_tcmFrame : t.mem = s.mem := congrArg (State.mem ·.1) same
theorem ctl_of_tcmFrame (n : Nat) : (t.coreN n).ctl = (s.coreN n).ctl := congrArg (fun p => (p.2 n).ctl) same

theorem gangOf_of_tcmFrame (n : Nat) : t.gangOf n = s.gangOf n := by
  have gangs : t.gangs = s.gangs := congrArg (State.gangs ·.1) same
  have gang : (t.coreN n).gang = (s.coreN n).gang := congrArg (fun p => (p.2 n).gang) same
  rw [State.gangOf, State.gid, gangId, gang, State.gangN, gangs]
  rfl

end

/-! ### The sample in the TCM (R281) -/

/-- One of the 16 parts that `destWrite` stores. -/
def destPart (sp : BitVec 2) (ea : DWord) (pins : List TlbEntry) (r : List Byte) (p : State × Bool) (k : Nat) : State × Bool :=
  match storeAt p.1 (cWho p.1) pins sp (effAddr sp ea (8 * k : Nat)) 8 .store fun _ => leVal ((r.drop (8 * k)).take 8) with
  | (s, .held) => (s, false)
  | (s, _) => (s, p.2)

theorem destWrite_eq (sp : BitVec 2) (ea : DWord) (pins : List TlbEntry) (s : State) (r : List Byte) :
    destWrite sp ea pins s r = (nats 0 16).foldl (destPart sp ea pins r) (s, true) := rfl

theorem nats_zero_succ (n : Nat) : nats 0 (n + 1) = nats 0 n ++ [n] := by
  rw [nats, List.range_succ, List.map_append, List.map_singleton, Nat.zero_add, nats]

/-- The 128 bytes of a destination lie in the TCM of the acting core (R41, R126), in whole parts of 8. -/
structure SampleFits (s : State) (ea : DWord) : Prop where
  aligned : ea.toNat % 8 = 0
  inside : ea.toNat + 128 ≤ (s.gangOf s.cur).tcmBlocks * 4096
  unwrapped : ea.toNat + 128 ≤ 2 ^ 64

section
variable {s : State} {ea : DWord} (fits : SampleFits s ea)
include fits

theorem part_toNat {k : Nat} (hk : k < 16) : (effAddr 2 ea (8 * k : Nat)).toNat = ea.toNat + 8 * k :=
  effAddr_toNat (by decide) (by have := fits.unwrapped; omega)

theorem part_aligned {k : Nat} (hk : k < 16) : (effAddr 2 ea (8 * k : Nat)).toNat % 8 = 0 := by
  rw [part_toNat fits hk]; have := fits.aligned; omega

theorem part_inside {k : Nat} (hk : k < 16) : (effAddr 2 ea (8 * k : Nat)).toNat < (s.gangOf s.cur).tcmBlocks * 4096 := by
  rw [part_toNat fits hk]; have := fits.inside; omega

theorem rangeCheck_sample : rangeCheck s 2 ea 128 = none := by
  have inside := fits.inside
  have bound : decide ((s.gangOf s.cur).tcmBlocks * 4096 < ea.toNat + 128) = false := decide_eq_false (by omega)
  rw [rangeCheck, formFault_tcm (by omega)]
  exact congrArg (fun b => chk b 0x08 _) bound

/-- No part of the destination faults, and none needs a translation. -/
theorem destCheck_sample {n : Nat} (hn : n ≤ 16) : destCheck 2 ea n s = (s, [], none) := by
  induction n with
  | zero => rfl
  | succ k ih =>
    simp only [destCheck, ih (by omega)]
    rw [resolve_tcm (w := cWho s) (part_aligned fits hn) (part_inside fits hn)]
    rfl

theorem destPart_sample {t : State} (same : tcmFrame t = tcmFrame s) {k : Nat} (hk : k < 16) (pins : List TlbEntry)
    (r : List Byte) (b : Bool) : destPart 2 ea pins r (t, b) k =
      (locWrite t (cWho t) (.tcm t.cur (ea.toNat + 8 * k)) 8 (leVal ((r.drop (8 * k)).take 8)), b) := by
  have inside : (effAddr 2 ea (8 * k : Nat)).toNat < (t.gangOf (cWho t).core).tcmBlocks * 4096 := by
    rw [cWho, gangOf_of_tcmFrame same, cur_of_tcmFrame same]
    exact part_inside fits hk
  simp only [destPart]
  rw [storeAt_tcm (part_aligned fits hk) inside, part_toNat fits hk]
  rfl

/-- The first `n` parts write their bytes to the TCM and nothing else, and none is held. -/
theorem foldl_destPart {r : List Byte} (hr : r.length = 128) (pins : List TlbEntry) {n : Nat} (hn : n ≤ 16) :
    ∃ t, (nats 0 n).foldl (destPart 2 ea pins r) (s, true) = (t, true) ∧ tcmFrame t = tcmFrame s ∧
      t.core.tcm = memPut s.core.tcm ea.toNat (r.take (8 * n)) := by
  induction n with
  | zero => exact ⟨s, rfl, rfl, rfl⟩
  | succ k ih =>
    obtain ⟨t, runs, same, bytes⟩ := ih (by omega)
    refine ⟨locWrite t (cWho t) (.tcm t.cur (ea.toNat + 8 * k)) 8 (leVal ((r.drop (8 * k)).take 8)), ?_,
      (tcmFrame_locWrite ..).trans same, ?_⟩
    · rw [nats_zero_succ, List.foldl_append, runs]
      exact destPart_sample fits same hn pins r true
    · have len : ((r.drop (8 * k)).take 8).length = 8 := by rw [List.length_take, List.length_drop, hr]; omega
      have before : (r.take (8 * k)).length = 8 * k := by rw [List.length_take, hr]; omega
      calc ((locWrite t (cWho t) (.tcm t.cur (ea.toNat + 8 * k)) 8 (leVal ((r.drop (8 * k)).take 8))).coreN t.cur).tcm
        _ = memPut t.core.tcm (ea.toNat + 8 * k) ((r.drop (8 * k)).take 8) := by
          rw [tcm_locWrite, ← memWr_leVal, len]; rfl
        _ = memPut s.core.tcm ea.toNat (r.take (8 * (k + 1))) := by
          rw [bytes, Nat.mul_succ, List.take_add, memPut_append, before]

theorem destWrite_sample {r : List Byte} (hr : r.length = 128) (pins : List TlbEntry) :
    ∃ t, destWrite 2 ea pins s r = (t, true) ∧ tcmFrame t = tcmFrame s ∧ t.core.tcm = memPut s.core.tcm ea.toNat r := by
  have whole := foldl_destPart fits hr pins (Nat.le_refl 16)
  rwa [List.take_of_length_le (by omega), ← destWrite_eq] at whole

end

/-! ### The instructions -/

theorem execStbind_placed {h : Hal} {a : Reg} {n : BitVec 4} {s : State} (r : Ready s h) (hv : (reg s a).toNat < 2 ^ 21)
    (room : s.core.str.queue.length < 16) : execStbind h a n s = done s h 8
      (s.upd fun c => pushQueue c 1 { instr := .stbind h a n, a := reg s a, pc := s.core.ctl.pc, waited := true }) := by
  have zero : ¬ (reg s a).extractLsb' 21 43 ≠ 0 := not_not_intro ((highBits_zero_iff _ 21).2 hv)
  exact scalar_done r ((if_neg zero).trans (if_neg (by omega)))

theorem execStbind_reserved {h : Hal} {a : Reg} {n : BitVec 4} {s : State} (r : Ready s h) (hv : 2 ^ 21 ≤ (reg s a).toNat) :
    execStbind h a n s = trapped s 0x01 (reg s a) s :=
  scalar_trap r (if_pos fun zero => absurd ((highBits_zero_iff (reg s a) 21).1 zero) (Nat.not_lt.2 hv))

section
variable {i : Instr} {h : Hal} {s : State} {body : State → Res} {p : Nat → Comb → Bool}

/-- A flush is done once none of the entries it selects is left, and waits until then (R62, R280). -/
theorem scalar_flushRes (r : Ready s h) (hb : body s = flushRes s p) :
    (combClear (flushComb s s.cur p).core p = true → scalar i h 8 body s = done s h 8 (flushComb s s.cur p)) ∧
    (combClear (flushComb s s.cur p).core p = false → scalar i h 8 body s = waits h (flushComb s s.cur p)) := by
  refine ⟨fun clear => scalar_done r ?_, fun left => scalar_wait r ?_⟩
  · rw [hb, flushRes]; exact if_pos clear
  · rw [hb, flushRes]; exact if_neg (ne_true_of_eq_false left)

end

theorem execStflush_all {h : Hal} {a : Reg} {s : State} (r : Ready s h) :
    (combEmpty (flushAll s s.cur).core = true → execStflush h a true s = done s h 8 (flushAll s s.cur)) ∧
    (combEmpty (flushAll s s.cur).core = false → execStflush h a true s = waits h (flushAll s s.cur)) :=
  scalar_flushRes (p := fun _ _ => true) r (by rw [if_pos rfl])

theorem execStflush_one {h : Hal} {a : Reg} {s : State} {pa : Nat} (r : Ready s h) (hv : (reg s a).toNat < 2 ^ 20)
    (found : recAddr s.core ((reg s a).setWidth 20) = some pa) :
    let own (_ : Nat) (e : Comb) : Bool := e.id == (reg s a).setWidth 20
    (combClear (flushComb s s.cur own).core own = true → execStflush h a false s = done s h 8 (flushComb s s.cur own)) ∧
    (combClear (flushComb s s.cur own).core own = false → execStflush h a false s = waits h (flushComb s s.cur own)) :=
  scalar_flushRes r ((if_neg Bool.false_ne_true).trans (recOperand_some hv found))

theorem execStflush_outside {h : Hal} {a : Reg} {s : State} (r : Ready s h) (hv : (reg s a).toNat < 2 ^ 20)
    (absent : recAddr s.core ((reg s a).setWidth 20) = none) : execStflush h a false s = trapped s 0x08 (reg s a) s :=
  scalar_trap r ((if_neg Bool.false_ne_true).trans (recOperand_none hv absent))

theorem execStarm_runs {h : Hal} {a b : Reg} {s : State} {pa : Nat} (r : Ready s h) (hv : (reg s a).toNat < 2 ^ 20)
    (found : recAddr s.core ((reg s a).setWidth 20) = some pa) (ok : armOk (reg s b) = true) {t : State}
    (res : armRes s ((reg s a).setWidth 20) pa (reg s b) = .done t) : execStarm h a b s = done s h 8 t := by
  have zero : ¬ (reg s a).extractLsb' 20 44 ≠ 0 := not_not_intro ((highBits_zero_iff _ 20).2 hv)
  have armed : ¬ (!armOk (reg s b)) = true := by rw [ok]; decide
  exact scalar_done r ((if_neg zero).trans ((if_neg armed).trans ((recOperand_some hv found).trans res)))

theorem lowBits_zero {v : DWord} (aligned : v.toNat % 8 = 0) : v.extractLsb' 0 3 = 0 :=
  BitVec.eq_of_toNat_eq (by rw [BitVec.extractLsb'_toNat]; exact aligned)

theorem moveChecks_none {s : State} {ea v : DWord} (hv : v.toNat < 2 ^ 20) (fits : SampleFits s ea) :
    firstFail [chk (v.extractLsb' 20 44 != 0) 0x01 v, chk (ea.extractLsb' 0 3 != 0) 0x02 ea, rangeCheck s 2 ea 128] = none := by
  rw [(highBits_zero_iff v 20).2 hv, lowBits_zero fits.aligned, rangeCheck_sample fits]
  rfl

theorem SampleFits.withMem {s : State} {ea : DWord} (fits : SampleFits s ea) (m : Mem) : SampleFits (s.withMem m) ea :=
  ⟨fits.aligned, fits.inside, fits.unwrapped⟩

section
variable {i : Instr} {h : Hal} {a b : Reg} {s t : State} {pa : Nat} {f : State → Nat → State} (r : Ready s h)
  (hv : (reg s b).toNat < 2 ^ 20) (found : recAddr s.core ((reg s b).setWidth 20) = some pa) (fits : SampleFits s (reg s a))
  (good : recBad s s.cur pa = false) (free : counted s s.cur = false)
include r hv found fits good free

/-- The sample is taken before the step `f` at the home die, and written after it (R281). -/
theorem recMove_written (written : destWrite 2 (reg s a) [] (f s pa) (recRead s pa) = (t, true)) :
    recMove i h a b 2 f s = done s h 8 (unhold t t.cur 0) := by
  refine scalar_done r ?_
  have checks := moveChecks_none hv fits
  unfold reg at *
  dsimp only
  rw [checks, recOperand_some hv found, destCheck_sample fits (Nat.le_refl 16)]
  dsimp only
  rw [good, charge_uncounted free]
  dsimp only
  rw [written]
  rfl

/-- `stread` and `streset` with the core's own TCM as destination, for a step at the home die that writes memory alone: the record
as it stood is in the TCM, physical memory is as that step leaves it, and no control core differs. -/
theorem recMove_tcm (g : State → Nat → Mem) : ∃ t, recMove i h a b 2 (fun s pa => s.withMem (g s pa)) s = done s h 8 t ∧
    (∀ i, i < 128 → memGet t.core.tcm ((reg s a).toNat + i) = memGet s.mem (pa + i)) ∧ t.mem = g s pa ∧ SameControl s t := by
  obtain ⟨t, written, same, bytes⟩ := destWrite_sample (fits.withMem (g s pa)) (length_memBytes s.mem pa 128) []
  refine ⟨unhold t t.cur 0, recMove_written r hv found fits good free written, fun i hi => ?_, mem_of_tcmFrame same, fun n => ?_⟩
  · have sample : ((unhold t t.cur 0).coreN t.cur).tcm = memPut s.core.tcm (reg s a).toNat (memBytes s.mem pa 128) :=
      (tcm_unhold ..).trans bytes
    show memGet ((unhold t t.cur 0).coreN t.cur).tcm _ = _
    rw [sample, memGet_memPut, length_memBytes, if_pos (by omega), Nat.add_sub_cancel_left, getD_memBytes _ hi]
  · rw [ctl_unhold, ctl_of_tcmFrame same]
    rfl

end

theorem statisticsResults : Parts.StatisticsResults := by
  intro h a b n s r
  dsimp only
  refine ⟨execStbind_placed r, execStbind_reserved r, ?flushAll, fun pa hv found => ⟨?flushOne, fun ok => ⟨?arms, ?dropped⟩⟩,
    ?absent⟩
  case flushAll => exact execStflush_all r
  case flushOne => exact execStflush_one r hv found
  case arms =>
    intro reach free
    refine ⟨unhold (recArm s pa (reg s b)) s.cur 0, execStarm_runs r hv found ok ?_, recConfig_recArm .., otherBytes_recArm s pa _,
      sameControl_recArm s pa _⟩
    rw [armRes, reach, charge_uncounted free]
    rfl
  case dropped =>
    refine fun lost => execStarm_runs r hv found ok ?_
    rw [armRes, lost, setWidth_recId hv]
    rfl
  case absent => exact execStflush_outside r

theorem exec_stread (h : Hal) (a b : Reg) (sp : BitVec 2) (s : State) : exec (.stread h a b sp) s =
    recMove (.stread h a b sp) h a b sp (fun s _ => s.withMem s.mem) s := rfl

/-- `streset` writes memory alone at the home die. -/
theorem exec_streset (h : Hal) (a b : Reg) (sp : BitVec 2) (s : State) : exec (.streset h a b sp) s =
    recMove (.streset h a b sp) h a b sp (fun s pa => s.withMem (recReset s pa).mem) s := rfl

theorem recordReads : Parts.RecordReads := by
  intro h a b s pa r ea v hv found aligned inside unwrapped good free
  have fits : SampleFits s ea := ⟨aligned, inside, unwrapped⟩
  rw [exec_stread, exec_streset]
  refine ⟨recMove_tcm r hv found fits good free fun s _ => s.mem, ?_⟩
  obtain ⟨t, runs, sample, mem, control⟩ := recMove_tcm r hv found fits good free fun s pa => (recReset s pa).mem
  refine ⟨t, runs, sample, fun i hi => ?values, ?generation, ?config, control⟩
  case values => rw [mem]; exact values_recReset s pa hi
  case generation => rw [mem]; exact generation_recReset s pa
  case config => rw [recConfig, mem]; exact recConfig_recReset s pa

/-- Settles O30: the statistics instructions at the control core, and the reads of a record into the core's own TCM. -/
theorem statistics : Obligations.Statistics := ⟨statisticsResults, recordReads⟩

end Sys2Proof.Machine
end

section
/-! SUPPORT. Words written from the encoding tables (R174 to R192). -/

namespace Sys2Proof

/-- Settles O1, by running both decoders on the words. -/
theorem specWordsDecode : Obligations.SpecWordsDecode := by
  unfold Obligations.SpecWordsDecode
  decide

end Sys2Proof
end

section
/-! SUPPORT. What decides whether words decode, said once for each stream (R174, R183). -/

namespace Sys2Proof

open BitVec

theorem ifc_eq_some {c : Bool} {i j : Instr} : ifc c j = some i ↔ c = true ∧ j = i := by simp [ifc]

@[simp] theorem z6_iff {r : Reg} : z6 r = true ↔ r = 0 := by simp [z6]

/-- No instruction belongs to both streams. -/
theorem not_isC_and_isV (i : Instr) : (i.isC && i.isV) = false := by cases i <;> rfl

theorem isV_of_isC {i : Instr} (hc : i.isC = true) : i.isV = false := by simpa [hc] using not_isC_and_isV i

theorem encode_of_isC {i : Instr} (hc : i.isC = true) : encode i = encodeC i := by simp [encode, isV_of_isC hc]

theorem wf_of_isC {i : Instr} (hc : i.isC = true) : i.wf = i.cOk := by
  have hv : i.vshape = none := by simpa [Instr.isV] using isV_of_isC hc
  rw [Instr.wf, hv]

theorem encode_of_isV {i : Instr} (hv : i.isV = true) : encode i = encodeV i := if_pos hv

/-- Keeping an instruction that meets a condition. -/
theorem bind_ifc_eq_some {o : Option Instr} {c : Instr → Bool} {i : Instr} :
    (o.bind fun j => ifc (c j) j) = some i ↔ o = some i ∧ c i = true := by
  constructor
  · intro e
    obtain ⟨j, hj, e⟩ := Option.bind_eq_some_iff.1 e
    obtain ⟨hc, rfl⟩ := ifc_eq_some.1 e
    exact ⟨hj, hc⟩
  · rintro ⟨rfl, hc⟩
    exact ifc_eq_some.2 ⟨hc, rfl⟩

/-- Words decode to a C-stream instruction when a second word has a zero nibble, the fields are those of an instruction and its
numbers are in range. -/
theorem decodeC_eq_some {w v : Word} {i : Instr} : decodeC w v = some i ↔
    (isTwoWord w = true → v.extractLsb' 28 4 = 0) ∧ fieldsC w v = some i ∧ i.cOk = true := by
  have kept : decodeC w v = if isTwoWord w && v.extractLsb' 28 4 != 0 then none else
      (fieldsC w v).bind fun j => ifc j.cOk j := by
    unfold decodeC
    cases fieldsC w v <;> rfl
  by_cases hn : v.extractLsb' 28 4 = 0 <;> cases ht : isTwoWord w <;> simp only [kept] <;> simp [hn, ht, bind_ifc_eq_some]

/-- The fields of a pair of words of the V-stream, whichever use word 1 [27:6] has (R182). -/
def fieldsV (w v : Word) : Option Instr :=
  if isX (fMaj w) (w.extractLsb' 20 2).toNat then
    match decVX w v with | some f => opX (fMaj w) (w.extractLsb' 20 2).toNat v f | none => none
  else match decVF w v with | some f => opV (fMaj w) (w.extractLsb' 20 2).toNat (w.extractLsb' 20 2) f | none => none

/-- Words decode to a V-stream instruction when the second word has a zero nibble and the fields are those of a well-formed
instruction. -/
theorem decodeV_eq_some {w v : Word} {i : Instr} : decodeV w v = some i ↔
    v.extractLsb' 28 4 = 0 ∧ fieldsV w v = some i ∧ i.wf = true := by
  have kept : decodeV w v = if v.extractLsb' 28 4 != 0 then none else (fieldsV w v).bind fun j => ifc j.wf j := by
    show (if v.extractLsb' 28 4 != 0 then none else match fieldsV w v with | some j => ifc j.wf j | none => none) = _
    cases fieldsV w v <;> rfl
  by_cases hn : v.extractLsb' 28 4 = 0 <;> rw [kept] <;> simp [hn, bind_ifc_eq_some]

end Sys2Proof
end

section
/-! SUPPORT. Every well-formed C-stream instruction reads back from its own words (R174 to R176, R186 to R190). -/

namespace Sys2Proof

open BitVec

/-- The words of a C-stream instruction hold its fields, whatever word follows a single one. -/
inductive ReadsBack (i : Instr) : Prop
  | one {w : Word} (words : encodeC i = [w]) (single : isTwoWord w = false) (fields : ∀ v, fieldsC w v = some i)
  | two {w v : Word} (words : encodeC i = [w, v]) (double : isTwoWord w = true) (nibble : v.extractLsb' 28 4 = 0)
      (fields : fieldsC w v = some i)

@[simp] theorem fields_cr (h : Hal) (m : BitVec 6) (d a b : Reg) (fn : BitVec 4) : fH (cr h m d a b fn) = h ∧
    fMaj (cr h m d a b fn) = m.toNat ∧ fD (cr h m d a b fn) = d ∧ fA (cr h m d a b fn) = a ∧ fB (cr h m d a b fn) = b ∧
    fFn (cr h m d a b fn) = fn :=
  ⟨fH_cr .., fMaj_cr .., fD_cr .., fA_cr .., fB_cr .., fFn_cr ..⟩

@[simp] theorem fields_ci (h : Hal) (m : BitVec 6) (d a : Reg) (imm : BitVec 10) : fH (ci h m d a imm) = h ∧
    fMaj (ci h m d a imm) = m.toNat ∧ fD (ci h m d a imm) = d ∧ fA (ci h m d a imm) = a ∧ fImm (ci h m d a imm) = imm :=
  ⟨fH_ci .., fMaj_ci .., fD_ci .., fA_ci .., fImm_ci ..⟩

@[simp] theorem fields_cu (h : Hal) (m : BitVec 6) (d : Reg) (imm : BitVec 16) : fH (cu h m d imm) = h ∧
    fMaj (cu h m d imm) = m.toNat ∧ fD (cu h m d imm) = d ∧ fI16 (cu h m d imm) = imm :=
  ⟨fH_cu .., fMaj_cu .., fD_cu .., fI16_cu ..⟩

/-- A field of a field is a field of the word. -/
theorem extract_extract {k : Nat} (x : BitVec k) {p l q n : Nat} (h : p + l ≤ n) :
    (x.extractLsb' q n).extractLsb' p l = x.extractLsb' (q + p) l := by
  ext i hi
  simp [Nat.add_assoc, show p + i < n by omega]

/-- The fields `d`, `a` and `b` as one, which majors without operands hold to zero. -/
theorem ext_dab_eq_zero {w : Word} : w.extractLsb' 4 18 = 0#18 ↔ fD w = 0 ∧ fA w = 0 ∧ fB w = 0 := by
  constructor
  · intro e
    have part : ∀ p l, p + l ≤ 18 → w.extractLsb' (4 + p) l = 0 := fun p l hl => by
      rw [← extract_extract w hl, e, extractLsb'_zero]; rfl
    exact ⟨part 12 6 (by decide), part 6 6 (by decide), part 0 6 (by decide)⟩
  · rintro ⟨hd, ha, hb⟩
    calc w.extractLsb' 4 18 = fD w ++ fA w ++ fB w := by
          simp (disch := decide) only [fD, fA, fB, extractLsb'_append_extractLsb'_eq_extractLsb']
      _ = 0#18 := by rw [hd, ha, hb]; rfl

@[simp] theorem toNat_r4_lt (b : BitVec 4) : (r4 b).toNat < 16 := toNat_r4 b ▸ b.isLt
@[simp] theorem toNat_r5_lt (b : BitVec 5) : (r5 b).toNat < 32 := toNat_r5 b ▸ b.isLt
@[simp] theorem toNat_r3_lt (b : BitVec 3) : (r3 b).toNat < 8 := toNat_r3 b ▸ b.isLt
@[simp] theorem toNat_r2_lt (b : BitVec 2) : (r2 b).toNat < 4 := toNat_r2 b ▸ b.isLt

@[simp] theorem b1_beq (b : Bool) : (b1 b == 1#1) = b := by cases b <;> rfl

theorem decQSrc_encQSrc (s : QSrc) : decQSrc (encQSrc s) = some s := by
  cases s with
  | stream n => revert n; decide
  | rank r => revert r; decide

/-! ### One word and two (R174, R187) -/

theorem readsBack_one {i : Instr} {w : Word} {m : Nat} (words : encodeC i = [w]) (major : fMaj w = m)
    (single : (decide (0x27 ≤ m) && decide (m ≤ 0x2B)) = false) (fields : ∀ v, fieldsC w v = some i) : ReadsBack i :=
  .one words (by rw [isTwoWord, major, single]) fields

theorem readsBack_two {i : Instr} {w v : Word} {m : Nat} (words : encodeC i = [w, v]) (major : fMaj w = m)
    (double : (decide (0x27 ≤ m) && decide (m ≤ 0x2B)) = true) (nibble : v.extractLsb' 28 4 = 0)
    (fields : fieldsC w v = some i) : ReadsBack i :=
  .two words (by rw [isTwoWord, major, double]) nibble fields

/-- The body of major 0x27 reads back (R190). -/
theorem fields_encMem (m : MemOrd) (op : BitVec 4) (c : Reg) : bodyMem (encMem m op c) = m ∧
    (encMem m op c).extractLsb' 15 4 = op ∧ (encMem m op c).extractLsb' 9 6 = c := by
  refine ⟨bodyMem_encMem m op c, ?_, ?_⟩ <;> rw [encMem, ext_w2 _ _ _ (by decide)] <;>
    simp (disch := decide) only [extractLsb'_append_eq_of_le, extractLsb'_append_eq_of_add_le, Nat.reduceSub, extractLsb'_eq_self]

/-! ### The instructions -/

/-- Every C-stream instruction reads back, major by major (R175, R188 to R190, R256 to R282, R367). -/
theorem readsBack {i : Instr} (hc : i.isC = true) : ReadsBack i := by
  cases i with
  | add | sub | mul | mulh | mulhn | div | divn | rem | remn | and | or | xor | sll | srl | sra | slt =>
    exact readsBack_one rfl (fMaj_cr ..) rfl fun v => by simp [fieldsC, decIntA]
  | sltn | min | max | minn | maxn | clz | ctz | popc =>
    exact readsBack_one rfl (fMaj_cr ..) rfl fun v => by simp [fieldsC, decIntB, ifc]
  | adda | tagset | tagget =>
    exact readsBack_one rfl (fMaj_cr ..) rfl fun v => by simp [fieldsC, decPtr, ifc]
  | fadd | fmul | fmin | fmax | fcmpEq | fcmpLt | fcmpLe =>
    exact readsBack_one rfl (fMaj_cr ..) rfl fun v => by simp [fieldsC, decFloat]
  | barinit | barinitCad | bararr | barwait | pend | pendCad | tkwait | tkpoll =>
    exact readsBack_one rfl (fMaj_cr ..) rfl fun v => by simp [fieldsC, decSync, ifc, ext_b_cr, ext_r4, ext_r5]
  | vstart | vpush | vpop | vsync | inpop | inpeek | aiset | aret =>
    exact readsBack_one rfl (fMaj_cr ..) rfl fun v => by simp [fieldsC, decVi, ifc, ext_b_cr, ext_r4]
  | ecall | ebreak | pause =>
    exact readsBack_one rfl (fMaj_cr ..) rfl fun v => by simp [fieldsC, decEnv, ifc, ext_dab_eq_zero]
  | addi | andi | ori | xori | slli | srli | srai | slti | fcvt | ld | ldn | st | jalr | lpset | lpidx | fence | kget | kset
  | kbis | kbic =>
    exact readsBack_one rfl (fMaj_ci ..) rfl fun v => by
      simp (disch := decide) [-Nat.reduceAdd, fieldsC, decImm, ifc, ext_imm_ci, ext_d_ci, ext_r3, extractLsb'_append_eq_of_le,
        extractLsb'_append_eq_of_add_le]
  | li | lis | jal =>
    exact readsBack_one rfl (fMaj_cu ..) rfl fun v => by simp [fieldsC, decImm]
  | beq | bne | blt | bge | bltn | bgen | lpend =>
    exact readsBack_one rfl (fMaj_ci ..) rfl fun v => by simp [fieldsC, decBranch, ifc, ext_d_ci, ext_r3]
  | eret | wfi | tlbinv | tlbflush | ctxsave | ctxload | ctxwait | halt =>
    exact readsBack_one rfl (fMaj_cr ..) rfl fun v => by simp [fieldsC, decSys, ifc, ext_d_cr, ext_r2]
  | amo | amocas | waitge | ldOrdered | ldnOrdered | stOrdered =>
    exact readsBack_two rfl (fMaj_cr ..) rfl (hal_w2 _) (by simp [fieldsC, decMem, ifc, fields_encMem])
  | qbase | qdim | qfmt | qstart | qstop | qstat | qfill | qrow | qstore =>
    exact readsBack_two rfl (fMaj_cr ..) rfl (hal_w2 _) (by
      simp (disch := decide) [-Nat.reduceAdd, fieldsC, decStream, ifc, ext_w2, decQSrc_encQSrc, extractLsb'_append_eq_of_le,
        extractLsb'_append_eq_of_add_le])
  | gupd | gclr | gdone | glim | gchk =>
    exact readsBack_two rfl (fMaj_cr ..) rfl (hal_w2 _) (by
      simp (disch := decide) [-Nat.reduceAdd, fieldsC, decGrid, ifc, ext_w2, extractLsb'_append_eq_of_le,
        extractLsb'_append_eq_of_add_le])
  | xcopy | xfill | xtag | xtagrd | xgath | xscat | xsadd | xbcast | xred | xenq | xpref =>
    exact readsBack_two rfl (fMaj_cr ..) rfl (hal_w2 _) (by simp [fieldsC, decCopy, ifc, bodyCopy_encCopy])
  | stbind | stflush | stread | streset | starm =>
    exact readsBack_two rfl (fMaj_cr ..) rfl (hal_w2 _) (by
      simp (disch := decide) [-Nat.reduceAdd, fieldsC, decStat, ifc, ext_w2, extractLsb'_append_eq_of_le,
        extractLsb'_append_eq_of_add_le])
  | _ => cases hc

theorem decodeEncodeC : Parts.DecodeEncodeC := by
  intro i hc hwf
  have hok : i.cOk = true := wf_of_isC hc ▸ hwf
  rw [encode_of_isC hc]
  cases readsBack hc with
  | one words single fields =>
    exact .inl ⟨_, words, single, fun v => decodeC_eq_some.2 ⟨by simp [single], fields v, hok⟩⟩
  | two words double nibble fields => exact .inr ⟨_, _, words, double, decodeC_eq_some.2 ⟨fun _ => nibble, fields, hok⟩⟩

end Sys2Proof
end

section
/-! SUPPORT. Every well-formed V-stream instruction reads back from its own two words (R178 to R182, R191, R192). -/

namespace Sys2Proof

open BitVec

/-! ### The common fields -/

@[simp] theorem fields_v0 (m : BitVec 6) (s : BitVec 2) (f : VF) : fH (v0 m s f) = f.h ∧ fMaj (v0 m s f) = m.toNat ∧
    (v0 m s f).extractLsb' 20 2 = s ∧ (v0 m s f).extractLsb' 9 11 = encSpec f.d ∧
    (v0 m s f).extractLsb' 0 9 = encMaskIdx f.mask := by
  have word : v0 m s f = (f.h ++ m ++ s ++ encSpec f.d ++ encMaskIdx f.mask : BitVec (4 + 6 + 2 + 11 + 9)) := rfl
  simp (disch := decide) only [fH, fMaj, word, extractLsb'_append_eq_of_le, extractLsb'_append_eq_of_add_le, Nat.reduceSub,
    extractLsb'_eq_self, and_true]

@[simp] theorem fields_v1x (x : BitVec 22) (f : VF) : (v1x x f).extractLsb' 28 4 = 0 ∧ (v1x x f).extractLsb' 6 22 = x ∧
    (v1x x f).extractLsb' 5 1 = b1 (encMaskPol f.mask) ∧ (v1x x f).extractLsb' 3 2 = encMaskKind f.mask ∧
    (v1x x f).extractLsb' 2 1 = b1 f.maskAgn ∧ (v1x x f).extractLsb' 1 1 = b1 f.tailAgn ∧
    (v1x x f).extractLsb' 0 1 = b1 f.ce := by
  have word : v1x x f = ((0 : BitVec 4) ++ x ++ b1 (encMaskPol f.mask) ++ encMaskKind f.mask ++ b1 f.maskAgn ++ b1 f.tailAgn ++
      b1 f.ce : BitVec (4 + 22 + 1 + 2 + 1 + 1 + 1)) := rfl
  simp (disch := decide) only [word, extractLsb'_append_eq_of_le, extractLsb'_append_eq_of_add_le, Nat.reduceSub,
    extractLsb'_eq_self, and_true]

/-- A part of word 1 [27:6]. -/
theorem ext_v1x (x : BitVec 22) (f : VF) {p l : Nat} (low : 6 ≤ p) (high : p + l ≤ 28) :
    (v1x x f).extractLsb' p l = x.extractLsb' (p - 6) l := by
  obtain ⟨-, whole, -⟩ := fields_v1x x f
  rw [← congrArg (extractLsb' (p - 6) l) whole, extract_extract _ (by omega), Nat.add_sub_cancel' low]

/-- The mask fields read back (R180). -/
theorem decMask_words {m : BitVec 6} {s : BitVec 2} {x : BitVec 22} {f : VF} (ok : ∀ k, f.mask = some k → k.view.ok = true) :
    decMask (v0 m s f) (v1x x f) = some f.mask := by
  have low : (v0 m s f).extractLsb' 0 8 = (encMaskIdx f.mask).extractLsb' 0 8 := by
    obtain ⟨-, -, -, -, index⟩ := fields_v0 m s f
    rw [← index, extract_extract _ (by decide)]
  unfold decMask
  simp only [low, fields_v0, fields_v1x]
  match hm : f.mask with
  | none => rfl
  | some ⟨.row i, inv⟩ =>
    have hi : ((0 : BitVec 1) ++ i).toNat < 256 := by
      simpa [-Nat.reduceAdd, toNat_append] using i.isLt
    have part : ((0 : BitVec 1) ++ i).extractLsb' 0 8 = i := by
      rw [extractLsb'_append_eq_of_add_le (by decide), extractLsb'_eq_self]
    have pol : (b1 inv == 1) = inv := b1_beq inv
    simp only [encMaskIdx, encMaskPol, hi, part, pol]
    rfl
  | some ⟨.col i, inv⟩ =>
    have hi : i.toNat < 384 := by simpa [View.ok] using ok _ hm
    simp [encMaskIdx, encMaskKind, encMaskPol, hi]
  | some ⟨.diag i, inv⟩ =>
    have hi : i.toNat < 384 := by simpa [View.ok] using ok _ hm
    simp [encMaskIdx, encMaskKind, encMaskPol, hi]

/-- The fields that fit a shape have operands with indices in range (R179). -/
theorem VF.ok_of_fits {f : VF} {sh : VShape} (h : f.fits sh = true) : f.d.ok = true ∧ f.a.ok = true ∧ f.b.ok = true ∧
    ∀ k, f.mask = some k → k.view.ok = true := by
  simp only [VF.fits, Bool.and_eq_true] at h
  obtain ⟨⟨⟨⟨⟨-, hd⟩, ha⟩, hb⟩, hm⟩, -⟩ := h
  refine ⟨hd, ha, hb, fun k hk => ?_⟩
  rw [hk, Bool.and_eq_true] at hm
  exact hm.1

/-- The common fields read back (R178). -/
theorem mkVF_words {m : BitVec 6} {s : BitVec 2} {x : BitVec 22} {f : VF} {sh : VShape} (h : f.fits sh = true) :
    mkVF (v0 m s f) (v1x x f) f.a f.b = some f := by
  obtain ⟨hd, -, -, hm⟩ := VF.ok_of_fits h
  simp [mkVF, decSpec_encSpec _ hd, decMask_words hm]

theorem decVF_words {m : BitVec 6} {s : BitVec 2} {f : VF} {sh : VShape} (h : f.fits sh = true) :
    decVF (v0 m s f) (v1x (encSpec f.a ++ encSpec f.b) f) = some f := by
  obtain ⟨-, ha, hb, -⟩ := VF.ok_of_fits h
  have ea : (encSpec f.a ++ encSpec f.b).extractLsb' 11 11 = encSpec f.a := by
    rw [extractLsb'_append_eq_of_le (by decide), extractLsb'_eq_self]
  have eb : (encSpec f.a ++ encSpec f.b).extractLsb' 0 11 = encSpec f.b := by
    rw [extractLsb'_append_eq_of_add_le (by decide), extractLsb'_eq_self]
  rw [decVF, ext_v1x _ _ (by decide) (by decide), ext_v1x _ _ (by decide) (by decide), ea, eb, decSpec_encSpec _ ha,
    decSpec_encSpec _ hb]
  exact mkVF_words h

theorem VF.absent_of_fits {f : VF} {sh : VShape} (h : f.fits sh = true) (a : sh.a = .no) (b : sh.b = .no) :
    f.a = .absent ∧ f.b = .absent := by
  simp only [VF.fits, a, b, Pres.ok, Bool.and_eq_true, beq_iff_eq] at h
  obtain ⟨⟨⟨⟨⟨⟨⟨-, ha⟩, hb⟩, -⟩, -⟩, -⟩, -⟩, -⟩ := h
  exact ⟨ha, hb⟩

theorem decVX_words {m : BitVec 6} {s : BitVec 2} {x : BitVec 22} {f : VF} {sh : VShape} (h : f.fits sh = true)
    (a : sh.a = .no) (b : sh.b = .no) : decVX (v0 m s f) (v1x x f) = some f := by
  obtain ⟨ha, hb⟩ := VF.absent_of_fits h a b
  have made := mkVF_words (m := m) (s := s) (x := x) h
  rwa [ha, hb] at made

/-! ### The operations -/

/-- The words of a V-stream instruction with the fields `f` hold its fields: its sources are specifiers, or word 1 [27:6] has
another use and its source fields are absent (R182). -/
inductive VReadsBack (i : Instr) (f : VF) (sh : VShape) : Prop
  | op {m : BitVec 6} {s : BitVec 2} (words : encodeV i = vw m s f) (major : isX m.toNat s.toNat = false)
      (fields : opV m.toNat s.toNat s f = some i)
  | ext {m : BitVec 6} {s : BitVec 2} {x : BitVec 22} (words : encodeV i = vx m s f x) (major : isX m.toNat s.toNat = true)
      (a : sh.a = .no) (b : sh.b = .no) (fields : opX m.toNat s.toNat (v1x x f) f = some i)

theorem eq_of_width_two (t : BitVec 2) : t = 0 ∨ t = 1 ∨ t = 2 ∨ t = 3 := by revert t; decide

/-- Every V-stream instruction reads back: each reading is the arm of its major and sub-function in the decoder (R191, R192). -/
theorem vReadsBack {i : Instr} {f : VF} {sh : VShape} (hv : i.vshape = some (f, sh)) (ht : i.vtypeOk = true) :
    VReadsBack i f sh := by
  cases i with
  | vsetvl | vadd | vsub | vmul | vfma | vmin | vmax | vabs | vneg | vrcp | vrsqrt | vsqrt | vexp2 | vlog2 | vsig | vtanh | vsilu
  | vsel | vand | vor | vxor | vshl | vshr | vsra | vmpop | vmfirst | vmlogAnd | vmlogOr | vmlogXor | vmlogAndn | vcvt | vcvtSat
  | vquant | vbquant | vdequant | vpack | vunpack | vredMaxn | vredMinn | vredAnd | vredOr | vredXor | vscanMaxn | vscanMinn
  | vscanAnd | vscanOr | vscanXor | vcompress | vexpand | vslideUp | vslideDown | vperm | vbcst | vid | vmove | vrand | vdrop
  | vstat | vld | vst | vgath | vscat | vsaddI | vsaddF | vldq | vstq | vrel | vfence | vhalt | vtrap | eadd | eaddi | esub | emul
  | epop | epush | vret =>
    cases hv
    exact .op rfl rfl rfl
  | vcmpEq t | vcmpLt t | vcmpLe t | vcmpNe t =>
    cases hv
    rcases eq_of_width_two t with rfl | rfl | rfl | rfl <;> exact .op rfl rfl rfl
  | vredAdd g | vredMax g | vredMin g | vscanAdd g | vscanMax g | vscanMin g =>
    cases hv
    rcases eq_of_width_two g with rfl | rfl | rfl | rfl
    case inr.inr.inr => cases ht
    all_goals exact .op rfl rfl rfl
  | vsetvli | eget =>
    cases hv
    exact .ext rfl rfl rfl rfl (by
      simp (disch := decide) [-Nat.reduceAdd, opX, ifc, ext_v1x, extractLsb'_append_eq_of_le, extractLsb'_append_eq_of_add_le])
  | eli | vbr | vbrm | vbrd | vjoin | vjal =>
    cases hv
    exact .ext rfl rfl rfl rfl (by simp [opX, ifc])
  | _ => cases hv

theorem fieldsV_words {i : Instr} {f : VF} {sh : VShape} (hr : VReadsBack i f sh) (h : f.fits sh = true) :
    ∃ w v, encodeV i = [w, v] ∧ v.extractLsb' 28 4 = 0 ∧ fieldsV w v = some i := by
  cases hr with
  | op words major fields =>
    refine ⟨_, _, words, (fields_v1x ..).1, ?_⟩
    rw [fieldsV, decVF_words h]
    simpa [major] using fields
  | ext words major a b fields =>
    refine ⟨_, _, words, (fields_v1x ..).1, ?_⟩
    rw [fieldsV, decVX_words h a b]
    simpa [major] using fields

theorem decodeEncodeV : Parts.DecodeEncodeV := by
  intro i hv hwf
  obtain ⟨⟨f, sh⟩, hs⟩ := Option.isSome_iff_exists.1 hv
  rw [Instr.wf, hs, Bool.and_eq_true] at hwf
  obtain ⟨w, v, words, nibble, fields⟩ := fieldsV_words (vReadsBack hs hwf.2) hwf.1
  refine ⟨w, v, (encode_of_isV hv).trans words, decodeV_eq_some.2 ⟨nibble, fields, ?_⟩⟩
  rw [Instr.wf, hs, Bool.and_eq_true]
  exact hwf

/-- Settles O2: the encoder's words hold the fields of a well-formed instruction where the decoders read them. -/
theorem decodeEncode : Obligations.DecodeEncode := ⟨decodeEncodeC, decodeEncodeV⟩

end Sys2Proof
end

section
/-! SUPPORT. Words that decode are the words of one C-stream instruction: each bit is a field of it, its opcode or an unused bit
that is zero (R183). -/

namespace Sys2Proof

open BitVec

/-! ### Words from their fields -/

/-- A word in format CR is the one of its fields. -/
theorem cr_eq {w : Word} {h : Hal} {m : BitVec 6} {d a b : Reg} {fn : BitVec 4} (hh : fH w = h) (hm : fMaj w = m.toNat)
    (hd : fD w = d) (ha : fA w = a) (hb : fB w = b) (hf : (fFn w).toNat = fn.toNat) : cr h m d a b fn = w := by
  obtain rfl := eq_of_toNat_eq hm
  obtain rfl := eq_of_toNat_eq hf
  subst hh hd ha hb
  simp (disch := decide) only [cr, fH, fD, fA, fB, fFn, extractLsb'_append_extractLsb'_eq_extractLsb']
  exact extractLsb'_eq_self

/-- A word in format CI is the one of its fields. -/
theorem ci_eq {w : Word} {h : Hal} {m : BitVec 6} {d a : Reg} {imm : BitVec 10} (hh : fH w = h) (hm : fMaj w = m.toNat)
    (hd : fD w = d) (ha : fA w = a) (hi : fImm w = imm) : ci h m d a imm = w := by
  obtain rfl := eq_of_toNat_eq hm
  subst hh hd ha hi
  simp (disch := decide) only [ci, fH, fD, fA, fImm, extractLsb'_append_extractLsb'_eq_extractLsb']
  exact extractLsb'_eq_self

/-- A word in format CU is the one of its fields. -/
theorem cu_eq {w : Word} {m : BitVec 6} (hm : fMaj w = m.toNat) : cu (fH w) m (fD w) (fI16 w) = w := by
  obtain rfl := eq_of_toNat_eq hm
  simp (disch := decide) only [cu, fH, fD, fI16, extractLsb'_append_extractLsb'_eq_extractLsb']
  exact extractLsb'_eq_self

/-- A second word with a zero nibble is the one of its body. -/
theorem w2_eq {v : Word} {body : BitVec 28} (hn : v.extractLsb' 28 4 = 0) (hb : v.extractLsb' 0 28 = body) : w2 body = v := by
  rw [w2, ← hn, ← hb, extractLsb'_append_extractLsb'_eq_extractLsb' (by decide)]
  exact extractLsb'_eq_self

/-- A word is its high part before its low part. -/
theorem high_append_low {m n : Nat} {x : BitVec (m + n)} {y : BitVec m} (h : x.extractLsb' n m = y) :
    y ++ x.extractLsb' 0 n = x := by
  rw [← h, extractLsb'_append_extractLsb'_eq_extractLsb' (by omega)]
  exact extractLsb'_eq_self

/-- A field with a known number. -/
theorem extract_eq_of_toNat {n : Nat} {x : BitVec n} {p l : Nat} {y : BitVec l} (h : x.toNat / 2 ^ p % 2 ^ l = y.toNat) :
    x.extractLsb' p l = y :=
  eq_of_toNat_eq (by rwa [extractLsb'_toNat, Nat.shiftRight_eq_div_pow])

/-- A number of at most `k` bits in a wider field. -/
theorem zero_append_low {n k : Nat} {x : BitVec (n + k)} (h : x.toNat < 2 ^ k) : (0 : BitVec n) ++ x.extractLsb' 0 k = x :=
  high_append_low (extract_eq_of_toNat (by rw [Nat.div_eq_of_lt h]; simp))

theorem fB_eq_r4 {w : Word} (h : (fB w).toNat < 16) : fB w = r4 (w.extractLsb' 4 4) := by
  have part : (fB w).extractLsb' 0 4 = w.extractLsb' 4 4 := extract_extract w (by decide)
  exact (part ▸ zero_append_low (n := 2) h).symm

theorem fB_eq_r5 {w : Word} (h : (fB w).toNat < 32) : fB w = r5 (w.extractLsb' 4 5) := by
  have part : (fB w).extractLsb' 0 5 = w.extractLsb' 4 5 := extract_extract w (by decide)
  exact (part ▸ zero_append_low (n := 1) h).symm

theorem fD_eq_r3 {w : Word} (h : (fD w).toNat < 8) : fD w = r3 (w.extractLsb' 16 3) := by
  have part : (fD w).extractLsb' 0 3 = w.extractLsb' 16 3 := extract_extract w (by decide)
  exact (part ▸ zero_append_low (n := 3) h).symm

theorem fD_eq_r2 {w : Word} (h : (fD w).toNat < 4) : fD w = r2 (w.extractLsb' 16 2) := by
  have part : (fD w).extractLsb' 0 2 = w.extractLsb' 16 2 := extract_extract w (by decide)
  exact (part ▸ zero_append_low (n := 4) h).symm

@[simp] theorem b1_beq_one (x : BitVec 1) : b1 (x == 1) = x := by revert x; decide

/-- A `qfill` source field is the one of its source (R258). -/
theorem encQSrc_of_decQSrc {x : BitVec 6} {s : QSrc} (e : decQSrc x = some s) : encQSrc s = x := by
  have all : ∀ x : BitVec 6, (decQSrc x).all (fun s => encQSrc s == x) = true := by decide
  simpa [e] using all x

/-- The second word of major 0x27 is the one of its fields (R190). -/
theorem encMem_bodyMem {v : Word} {op : BitVec 4} {c : Reg} (hn : v.extractLsb' 28 4 = 0) (ho : v.extractLsb' 15 4 = op)
    (hc : v.extractLsb' 9 6 = c) : encMem (bodyMem v) op c = v := by
  subst ho hc
  exact w2_eq hn (by simp (disch := decide) only [bodyMem, b1_beq_one, extractLsb'_append_extractLsb'_eq_extractLsb'])

/-- The second word of the copy group is the one of its fields (R268). -/
theorem encCopy_bodyCopy {v : Word} (hn : v.extractLsb' 28 4 = 0) : encCopy (bodyCopy v) = v :=
  w2_eq hn (by simp (disch := decide) only [bodyCopy, b1_beq_one, extractLsb'_append_extractLsb'_eq_extractLsb'])

/-! ### One-word groups

Each arm of a decoder gives the words of its instruction: the fields it reads, its opcode, and the fields it checks for zero. -/

/-- A C-stream instruction with these words. -/
def Words (i : Instr) (ws : List Word) : Prop := i.isC = true ∧ encodeC i = ws

theorem Words.one {i : Instr} {x w : Word} (hc : i.isC = true) (words : encodeC i = [x]) (hx : x = w) : Words i [w] :=
  ⟨hc, hx ▸ words⟩

theorem Words.two {i : Instr} {x y w v : Word} (hc : i.isC = true) (words : encodeC i = [x, y]) (hx : x = w) (hy : y = v) :
    Words i [w, v] := ⟨hc, hx ▸ hy ▸ words⟩

/-- All sixteen function codes are allocated (R188). -/
theorem words_of_decIntA {w : Word} {i : Instr} (hm : fMaj w = 0x01) (e : decIntA w = some i) : Words i [w] := by
  unfold decIntA at e
  have bound := (fFn w).isLt
  interval_cases hk : (fFn w).toNat <;> cases e <;> exact .one rfl rfl (cr_eq rfl hm rfl rfl rfl hk)

theorem words_of_decIntB {w : Word} {i : Instr} (hm : fMaj w = 0x02) (e : decIntB w = some i) : Words i [w] := by
  simp only [decIntB] at e
  split at e <;> simp only [ifc_eq_some, z6_iff, Option.some.injEq, reduceCtorEq] at e
  case h_1 hk | h_2 hk | h_3 hk | h_4 hk | h_5 hk =>
    subst e
    exact .one rfl rfl (cr_eq rfl hm rfl rfl rfl hk)
  case h_6 hk | h_7 hk | h_8 hk =>
    obtain ⟨hb, rfl⟩ := e
    exact .one rfl rfl (cr_eq rfl hm rfl rfl hb hk)

theorem words_of_decPtr {w : Word} {i : Instr} (hm : fMaj w = 0x03) (e : decPtr w = some i) : Words i [w] := by
  simp only [decPtr] at e
  split at e <;> simp only [ifc_eq_some, z6_iff, Option.some.injEq, reduceCtorEq] at e
  case h_1 hk | h_2 hk =>
    subst e
    exact .one rfl rfl (cr_eq rfl hm rfl rfl rfl hk)
  case h_3 hk =>
    obtain ⟨hb, rfl⟩ := e
    exact .one rfl rfl (cr_eq rfl hm rfl rfl hb hk)

theorem words_of_decFloat {w : Word} {i : Instr} (hm : fMaj w = 0x04) (e : decFloat w = some i) : Words i [w] := by
  simp only [decFloat] at e
  split at e <;> simp only [Option.some.injEq, reduceCtorEq] at e
  case h_1 hk | h_2 hk | h_3 hk | h_4 hk | h_5 hk | h_6 hk | h_7 hk =>
    subst e
    exact .one rfl rfl (cr_eq rfl hm rfl rfl rfl hk)

theorem words_of_decSync {w : Word} {i : Instr} (hm : fMaj w = 0x05) (e : decSync w = some i) : Words i [w] := by
  simp only [decSync] at e
  split at e <;> simp only [ifc_eq_some, z6_iff, Bool.and_eq_true, decide_eq_true_eq, reduceCtorEq] at e
  case h_1 hk =>
    obtain ⟨⟨hd, hb⟩, rfl⟩ := e
    exact .one rfl rfl (cr_eq rfl hm hd rfl (fB_eq_r4 hb) hk)
  case h_2 hk =>
    obtain ⟨hb, rfl⟩ := e
    exact .one rfl rfl (cr_eq rfl hm rfl rfl (fB_eq_r4 hb) hk)
  case h_3 hk | h_4 hk | h_5 hk | h_6 hk =>
    obtain ⟨⟨⟨hd, ha⟩, hb⟩, rfl⟩ := e
    exact .one rfl rfl (cr_eq rfl hm hd ha (fB_eq_r4 hb) hk)
  case h_7 hk =>
    obtain ⟨⟨⟨hd, ha⟩, hb⟩, rfl⟩ := e
    exact .one rfl rfl (cr_eq rfl hm hd ha (fB_eq_r5 hb) hk)
  case h_8 hk =>
    obtain ⟨⟨ha, hb⟩, rfl⟩ := e
    exact .one rfl rfl (cr_eq rfl hm rfl ha (fB_eq_r5 hb) hk)

theorem words_of_decVi {w : Word} {i : Instr} (hm : fMaj w = 0x06) (e : decVi w = some i) : Words i [w] := by
  simp only [decVi] at e
  split at e <;> simp only [ifc_eq_some, z6_iff, Bool.and_eq_true, decide_eq_true_eq, reduceCtorEq] at e
  case h_1 hk | h_2 hk =>
    obtain ⟨⟨hd, hb⟩, rfl⟩ := e
    exact .one rfl rfl (cr_eq rfl hm hd rfl hb hk)
  case h_3 hk =>
    obtain ⟨⟨ha, hb⟩, rfl⟩ := e
    exact .one rfl rfl (cr_eq rfl hm rfl ha hb hk)
  case h_4 hk | h_8 hk =>
    obtain ⟨⟨⟨hd, ha⟩, hb⟩, rfl⟩ := e
    exact .one rfl rfl (cr_eq rfl hm hd ha hb hk)
  case h_5 hk | h_6 hk =>
    obtain ⟨⟨ha, hb⟩, rfl⟩ := e
    exact .one rfl rfl (cr_eq rfl hm rfl ha (fB_eq_r4 hb) hk)
  case h_7 hk =>
    obtain ⟨hd, rfl⟩ := e
    exact .one rfl rfl (cr_eq rfl hm hd rfl rfl hk)

theorem words_of_decEnv {w : Word} {i : Instr} (hm : fMaj w = 0x07) (e : decEnv w = some i) : Words i [w] := by
  simp only [decEnv] at e
  split at e <;> simp only [ifc_eq_some, beq_iff_eq, reduceCtorEq] at e
  case h_1 hk | h_2 hk | h_3 hk =>
    obtain ⟨hz, rfl⟩ := e
    obtain ⟨hd, ha, hb⟩ := ext_dab_eq_zero.1 hz
    exact .one rfl rfl (cr_eq rfl hm hd ha hb hk)

theorem words_of_decImm {w : Word} {i : Instr} (e : decImm w = some i) : Words i [w] := by
  simp only [decImm] at e
  split at e <;>
    simp only [ifc_eq_some, z6_iff, Bool.and_eq_true, decide_eq_true_eq, beq_iff_eq, Option.some.injEq, reduceCtorEq] at e
  case h_1 hm | h_2 hm | h_3 hm | h_4 hm | h_8 hm | h_13 hm =>
    subst e
    exact .one rfl rfl (ci_eq rfl hm rfl rfl rfl)
  case h_5 hm | h_6 hm | h_7 hm | h_9 hm =>
    obtain ⟨hz, rfl⟩ := e
    exact .one rfl rfl (ci_eq rfl hm rfl rfl
      (by simp (disch := decide) only [fImm, ← hz, extractLsb'_append_extractLsb'_eq_extractLsb']))
  case h_10 hm | h_11 hm | h_12 hm =>
    subst e
    exact .one rfl rfl (ci_eq rfl hm rfl rfl
      (by simp (disch := decide) only [fImm, extractLsb'_append_extractLsb'_eq_extractLsb']))
  case h_14 hm =>
    obtain ⟨hd, rfl⟩ := e
    exact .one rfl rfl (ci_eq rfl hm (fD_eq_r3 hd) rfl rfl)
  case h_15 hm =>
    obtain ⟨⟨ha, hz⟩, rfl⟩ := e
    exact .one rfl rfl (ci_eq rfl hm rfl ha
      (by simp (disch := decide) only [fImm, ← hz, extractLsb'_append_extractLsb'_eq_extractLsb']))
  case h_16 hm =>
    obtain ⟨⟨⟨hd, ha⟩, hz⟩, rfl⟩ := e
    exact .one rfl rfl (ci_eq rfl hm hd ha
      (by simp (disch := decide) only [fImm, ← hz, extractLsb'_append_extractLsb'_eq_extractLsb']))
  case h_17 hm =>
    obtain ⟨ha, rfl⟩ := e
    exact .one rfl rfl (ci_eq rfl hm rfl ha rfl)
  case h_18 hm | h_19 hm | h_20 hm =>
    obtain ⟨hd, rfl⟩ := e
    exact .one rfl rfl (ci_eq rfl hm hd rfl rfl)
  case h_21 hm | h_22 hm | h_23 hm =>
    subst e
    exact .one rfl rfl (cu_eq hm)

theorem words_of_decBranch {w : Word} {i : Instr} (e : decBranch w = some i) : Words i [w] := by
  simp only [decBranch] at e
  split at e <;> simp only [ifc_eq_some, z6_iff, Bool.and_eq_true, decide_eq_true_eq, Option.some.injEq, reduceCtorEq] at e
  case h_1 hm | h_2 hm | h_3 hm | h_4 hm | h_5 hm | h_6 hm =>
    subst e
    exact .one rfl rfl (ci_eq rfl hm rfl rfl rfl)
  case h_7 hm =>
    obtain ⟨⟨hd, ha⟩, rfl⟩ := e
    exact .one rfl rfl (ci_eq rfl hm (fD_eq_r3 hd) ha rfl)

theorem words_of_decSys {w : Word} {i : Instr} (hm : fMaj w = 0x3F) (e : decSys w = some i) : Words i [w] := by
  simp only [decSys] at e
  split at e <;> simp only [ifc_eq_some, z6_iff, Bool.and_eq_true, decide_eq_true_eq, reduceCtorEq] at e
  case h_1 hk | h_2 hk =>
    obtain ⟨⟨⟨hd, ha⟩, hb⟩, rfl⟩ := e
    exact .one rfl rfl (cr_eq rfl hm hd ha hb hk)
  case h_3 hk =>
    obtain ⟨hd, rfl⟩ := e
    exact .one rfl rfl (cr_eq rfl hm (fD_eq_r2 hd) rfl rfl hk)
  case h_4 hk =>
    obtain ⟨⟨hd, hb⟩, rfl⟩ := e
    exact .one rfl rfl (cr_eq rfl hm (fD_eq_r2 hd) rfl hb hk)
  case h_5 hk | h_8 hk =>
    obtain ⟨hd, rfl⟩ := e
    exact .one rfl rfl (cr_eq rfl hm hd rfl rfl hk)
  case h_6 hk =>
    obtain ⟨⟨hd, hb⟩, rfl⟩ := e
    exact .one rfl rfl (cr_eq rfl hm hd rfl hb hk)
  case h_7 hk =>
    obtain ⟨⟨ha, hb⟩, rfl⟩ := e
    exact .one rfl rfl (cr_eq rfl hm rfl ha hb hk)

/-! ### Two-word groups -/

theorem words_of_decMem {w v : Word} {i : Instr} (hm : fMaj w = 0x27) (hn : v.extractLsb' 28 4 = 0)
    (e : decMem w v = some i) : Words i [w, v] := by
  simp only [decMem] at e
  split at e <;> simp only [ifc_eq_some, z6_iff, Bool.and_eq_true, beq_iff_eq, reduceCtorEq] at e
  case h_1 hk =>
    obtain ⟨hc, rfl⟩ := e
    exact .two rfl rfl (cr_eq rfl hm rfl rfl rfl hk) (encMem_bodyMem hn rfl hc)
  case h_2 hk =>
    obtain ⟨ho, rfl⟩ := e
    exact .two rfl rfl (cr_eq rfl hm rfl rfl rfl hk) (encMem_bodyMem hn ho rfl)
  case h_3 hk =>
    obtain ⟨⟨⟨hd, hc⟩, ho⟩, rfl⟩ := e
    exact .two rfl rfl (cr_eq rfl hm hd rfl rfl hk) (encMem_bodyMem hn ho hc)
  case h_4 hk | h_5 hk | h_6 hk =>
    obtain ⟨⟨⟨hb, hc⟩, ho⟩, rfl⟩ := e
    exact .two rfl rfl (cr_eq rfl hm rfl rfl hb hk) (encMem_bodyMem hn ho hc)

theorem words_of_decStream {w v : Word} {i : Instr} (hm : fMaj w = 0x28) (hn : v.extractLsb' 28 4 = 0)
    (e : decStream w v = some i) : Words i [w, v] := by
  simp only [decStream] at e
  split at e
  case h_7 hk =>
    split at e <;> simp only [ifc_eq_some, z6_iff, Bool.and_eq_true, beq_iff_eq, reduceCtorEq] at e
    case h_1 sa sb hsa hsb =>
      obtain ⟨⟨⟨hd, hb⟩, hz⟩, rfl⟩ := e
      refine .two rfl rfl (cr_eq rfl hm hd rfl hb hk) (w2_eq hn ?_)
      rw [encQSrc_of_decQSrc hsa, encQSrc_of_decQSrc hsb, ← hz]
      simp (disch := decide) only [extractLsb'_append_extractLsb'_eq_extractLsb']
  all_goals simp only [ifc_eq_some, z6_iff, Bool.and_eq_true, beq_iff_eq, reduceCtorEq] at e
  case h_1 hk =>
    obtain ⟨⟨hd, hz⟩, rfl⟩ := e
    exact .two rfl rfl (cr_eq rfl hm hd rfl rfl hk)
      (w2_eq hn (by simp (disch := decide) only [← hz, extractLsb'_append_extractLsb'_eq_extractLsb']))
  case h_2 hk =>
    obtain ⟨hz, rfl⟩ := e
    exact .two rfl rfl (cr_eq rfl hm rfl rfl rfl hk)
      (w2_eq hn (by simp (disch := decide) only [b1_beq_one, ← hz, extractLsb'_append_extractLsb'_eq_extractLsb']))
  case h_3 hk | h_4 hk | h_6 hk | h_8 hk =>
    obtain ⟨⟨⟨hd, hb⟩, hz⟩, rfl⟩ := e
    exact .two rfl rfl (cr_eq rfl hm hd rfl hb hk)
      (w2_eq hn (by simp (disch := decide) only [← hz, extractLsb'_append_extractLsb'_eq_extractLsb']))
  case h_5 hk =>
    obtain ⟨⟨⟨⟨hd, ha⟩, hb⟩, hz⟩, rfl⟩ := e
    exact .two rfl rfl (cr_eq rfl hm hd ha hb hk)
      (w2_eq hn (by simp (disch := decide) only [← hz, extractLsb'_append_extractLsb'_eq_extractLsb']))
  case h_9 hk =>
    obtain ⟨⟨⟨⟨hd, hb⟩, low⟩, high⟩, rfl⟩ := e
    refine .two rfl rfl (cr_eq rfl hm hd rfl hb hk) (w2_eq hn ?_)
    calc v.extractLsb' 0 28
        _ = v.extractLsb' 24 4 ++ v.extractLsb' 23 1 ++ v.extractLsb' 22 1 ++ v.extractLsb' 13 9 ++ v.extractLsb' 12 1 ++
            v.extractLsb' 10 2 ++ v.extractLsb' 5 5 ++ v.extractLsb' 2 3 ++ v.extractLsb' 1 1 ++ v.extractLsb' 0 1 := by
          simp (disch := decide) only [extractLsb'_append_extractLsb'_eq_extractLsb']
        _ = _ := by simp only [high, low, b1_beq_one]

theorem words_of_decGrid {w v : Word} {i : Instr} (hm : fMaj w = 0x29) (hn : v.extractLsb' 28 4 = 0)
    (e : decGrid w v = some i) : Words i [w, v] := by
  simp only [decGrid] at e
  split at e <;> simp only [ifc_eq_some, z6_iff, Bool.and_eq_true, beq_iff_eq, reduceCtorEq] at e
  case h_1 hk =>
    obtain ⟨⟨⟨hd, hb⟩, hz⟩, rfl⟩ := e
    exact .two rfl rfl (cr_eq rfl hm hd rfl hb hk)
      (w2_eq hn (by simp (disch := decide) only [← hz, extractLsb'_append_extractLsb'_eq_extractLsb']))
  case h_2 hk | h_3 hk | h_4 hk =>
    obtain ⟨⟨⟨⟨hd, ha⟩, hb⟩, hz⟩, rfl⟩ := e
    exact .two rfl rfl (cr_eq rfl hm hd ha hb hk)
      (w2_eq hn (by simp (disch := decide) only [← hz, extractLsb'_append_extractLsb'_eq_extractLsb']))
  case h_5 hk =>
    obtain ⟨⟨⟨⟨hd, ha⟩, hb⟩, hz⟩, rfl⟩ := e
    exact .two rfl rfl (cr_eq rfl hm hd ha hb hk) (w2_eq hn hz)

theorem words_of_decCopy {w v : Word} {i : Instr} (hm : fMaj w = 0x2A) (hn : v.extractLsb' 28 4 = 0)
    (e : decCopy w v = some i) : Words i [w, v] := by
  simp only [decCopy] at e
  split at e <;> simp only [ifc_eq_some, z6_iff, Option.some.injEq, reduceCtorEq] at e
  case h_1 hk | h_2 hk | h_3 hk | h_4 hk | h_5 hk | h_6 hk | h_7 hk | h_8 hk | h_9 hk | h_10 hk =>
    subst e
    exact .two rfl rfl (cr_eq rfl hm rfl rfl rfl hk) (encCopy_bodyCopy hn)
  case h_11 hk =>
    obtain ⟨hd, rfl⟩ := e
    exact .two rfl rfl (cr_eq rfl hm hd rfl rfl hk) (encCopy_bodyCopy hn)

theorem words_of_decStat {w v : Word} {i : Instr} (hm : fMaj w = 0x2B) (hn : v.extractLsb' 28 4 = 0)
    (e : decStat w v = some i) : Words i [w, v] := by
  simp only [decStat] at e
  split at e <;> simp only [ifc_eq_some, z6_iff, Bool.and_eq_true, beq_iff_eq, reduceCtorEq] at e
  case h_1 hk =>
    obtain ⟨⟨⟨hd, hb⟩, hz⟩, rfl⟩ := e
    exact .two rfl rfl (cr_eq rfl hm hd rfl hb hk)
      (w2_eq hn (by simp (disch := decide) only [← hz, extractLsb'_append_extractLsb'_eq_extractLsb']))
  case h_2 hk =>
    obtain ⟨⟨⟨hd, hb⟩, hz⟩, rfl⟩ := e
    exact .two rfl rfl (cr_eq rfl hm hd rfl hb hk)
      (w2_eq hn (by simp (disch := decide) only [b1_beq_one, ← hz, extractLsb'_append_extractLsb'_eq_extractLsb']))
  case h_3 hk | h_4 hk =>
    obtain ⟨⟨hd, hz⟩, rfl⟩ := e
    exact .two rfl rfl (cr_eq rfl hm hd rfl rfl hk)
      (w2_eq hn (by simp (disch := decide) only [← hz, extractLsb'_append_extractLsb'_eq_extractLsb']))
  case h_5 hk =>
    obtain ⟨⟨hd, hz⟩, rfl⟩ := e
    exact .two rfl rfl (cr_eq rfl hm hd rfl rfl hk) (w2_eq hn hz)

/-! ### Both formats -/

/-- The words whose fields are an instruction's are the words of that instruction, in every group of majors (R174, R187). -/
theorem words_of_fieldsC {w v : Word} {i : Instr} (hn : isTwoWord w = true → v.extractLsb' 28 4 = 0)
    (e : fieldsC w v = some i) : Words i (if isTwoWord w then [w, v] else [w]) := by
  have one : isTwoWord w = false → Words i [w] → Words i (if isTwoWord w then [w, v] else [w]) := by
    intro single h
    simpa [single] using h
  have two : isTwoWord w = true → (v.extractLsb' 28 4 = 0 → Words i [w, v]) →
      Words i (if isTwoWord w then [w, v] else [w]) := by
    intro double h
    simpa [double] using h (hn double)
  unfold fieldsC at e
  split at e
  case h_1 hm => exact one (by simp [isTwoWord, hm]) (words_of_decIntA hm e)
  case h_2 hm => exact one (by simp [isTwoWord, hm]) (words_of_decIntB hm e)
  case h_3 hm => exact one (by simp [isTwoWord, hm]) (words_of_decPtr hm e)
  case h_4 hm => exact one (by simp [isTwoWord, hm]) (words_of_decFloat hm e)
  case h_5 hm => exact one (by simp [isTwoWord, hm]) (words_of_decSync hm e)
  case h_6 hm => exact one (by simp [isTwoWord, hm]) (words_of_decVi hm e)
  case h_7 hm => exact one (by simp [isTwoWord, hm]) (words_of_decEnv hm e)
  case h_8 hm => exact one (by simp [isTwoWord, hm]) (words_of_decSys hm e)
  case h_9 hm => exact two (by simp [isTwoWord, hm]) fun hz => words_of_decMem hm hz e
  case h_10 hm => exact two (by simp [isTwoWord, hm]) fun hz => words_of_decStream hm hz e
  case h_11 hm => exact two (by simp [isTwoWord, hm]) fun hz => words_of_decGrid hm hz e
  case h_12 hm => exact two (by simp [isTwoWord, hm]) fun hz => words_of_decCopy hm hz e
  case h_13 hm => exact two (by simp [isTwoWord, hm]) fun hz => words_of_decStat hm hz e
  case h_14 not27 not28 not29 not2A not2B =>
    rw [imp_false] at not27 not28 not29 not2A not2B
    refine one (by simp only [isTwoWord, Bool.and_eq_false_iff, decide_eq_false_iff_not]; omega) ?_
    split at e
    · exact words_of_decImm e
    · exact words_of_decBranch e

theorem encodeDecodeC : Parts.EncodeDecodeC := by
  intro w v i e
  obtain ⟨nibble, fields, hok⟩ := decodeC_eq_some.1 e
  obtain ⟨hc, words⟩ := words_of_fieldsC nibble fields
  exact ⟨hc, (wf_of_isC hc).trans hok, (encode_of_isC hc).trans words⟩

end Sys2Proof
end

section
/-! SUPPORT. Words that decode are the words of one V-stream instruction (R183). -/

namespace Sys2Proof

open BitVec

/-! ### The common fields -/

theorem eq_ofNat_of_toNat {n k : Nat} {x : BitVec n} (h : x.toNat = k) : x = BitVec.ofNat n k := by
  subst h
  rw [ofNat_toNat, setWidth_eq]

/-- The encoder writes back the specifier that an index was read as (R179). -/
theorem encSpec_of_decSpec {x : BitVec 11} {s : Spec} (e : decSpec x = some s) : encSpec s = x := by
  have kind : (x.extractLsb' 9 2).toNat = x.toNat / 512 % 4 := by rw [extractLsb'_toNat, Nat.shiftRight_eq_div_pow]
  have idx : (x.extractLsb' 0 9).toNat = x.toNat % 512 := by rw [extractLsb'_toNat]; rfl
  have bound : x.toNat < 2048 := x.isLt
  simp only [decSpec, kind, idx] at e
  split at e
  case h_1 row =>
    split at e <;> cases e
    exact high_append_low (m := 3) (n := 8) (extract_eq_of_toNat (show x.toNat / 256 % 8 = 0 by omega))
  case h_2 col =>
    split at e <;> cases e
    exact high_append_low (m := 2) (n := 9) (extract_eq_of_toNat (show x.toNat / 512 % 4 = 1 by omega))
  case h_3 diag =>
    split at e <;> cases e
    exact high_append_low (m := 2) (n := 9) (extract_eq_of_toNat (show x.toNat / 512 % 4 = 2 by omega))
  case h_4 notRow notCol notDiag =>
    rw [imp_false] at notRow notCol notDiag
    split_ifs at e <;> cases e
    case pos ereg => exact high_append_low (m := 7) (n := 4) (extract_eq_of_toNat (show x.toNat / 16 % 128 = 0x60 by omega))
    case pos port => exact high_append_low (m := 7) (n := 4) (extract_eq_of_toNat (show x.toNat / 16 % 128 = 0x61 by omega))
    case pos absent => exact eq_of_toNat_eq (show 0x6FF = x.toNat by omega)
    case pos imm => exact high_append_low (m := 3) (n := 8) (extract_eq_of_toNat (show x.toNat / 256 % 8 = 7 by omega))

/-- The encoder writes back the mask fields that a mask was read from (R180). -/
theorem enc_of_decMask {w v : Word} {o : Option Mask} (e : decMask w v = some o) : encMaskIdx o = w.extractLsb' 0 9 ∧
    encMaskKind o = v.extractLsb' 3 2 ∧ b1 (encMaskPol o) = v.extractLsb' 5 1 := by
  simp only [decMask] at e
  split at e
  case h_1 hk =>
    split at e <;> cases e
    have kind : v.extractLsb' 3 2 = 0 := eq_of_toNat_eq hk
    have idx := zero_append_low (n := 1) (k := 8) (x := w.extractLsb' 0 9) ‹_›
    rw [extract_extract _ (by decide)] at idx
    exact ⟨idx, kind.symm, b1_beq_one _⟩
  case h_2 hk | h_3 hk =>
    split at e <;> cases e
    exact ⟨rfl, (eq_of_toNat_eq hk).symm, b1_beq_one _⟩
  case h_4 notRow notCol notDiag =>
    split at e <;> cases e
    rename_i blank
    rw [Bool.and_eq_true, beq_iff_eq] at blank
    obtain ⟨idx, pol⟩ := blank
    refine ⟨idx.symm, ?_, ?_⟩
    · generalize v.extractLsb' 3 2 = k at notRow notCol notDiag ⊢
      revert k; decide
    · have positive : (v.extractLsb' 5 1 == 1) = false := by simpa using pol
      rw [← b1_beq_one (v.extractLsb' 5 1), positive]
      rfl

/-- The words of a V-stream instruction are those of its fields. -/
theorem words_of_mkVF {w v : Word} {a b : Spec} {f : VF} (hn : v.extractLsb' 28 4 = 0) (e : mkVF w v a b = some f) :
    f.a = a ∧ f.b = b ∧ v0 (w.extractLsb' 22 6) (w.extractLsb' 20 2) f = w ∧ v1x (v.extractLsb' 6 22) f = v := by
  unfold mkVF at e
  split at e
  case h_2 => cases e
  case h_1 d o hd ho =>
    cases e
    obtain ⟨idx, kind, pol⟩ := enc_of_decMask ho
    refine ⟨rfl, rfl, ?_, ?_⟩
    · simp (disch := decide) only [v0, fH, encSpec_of_decSpec hd, idx, extractLsb'_append_extractLsb'_eq_extractLsb']
      exact extractLsb'_eq_self
    · simp (disch := decide) only [v1x, ← hn, kind, pol, b1_beq_one, extractLsb'_append_extractLsb'_eq_extractLsb']
      exact extractLsb'_eq_self

theorem words_of_decVF {w v : Word} {f : VF} (hn : v.extractLsb' 28 4 = 0) (e : decVF w v = some f) :
    vw (w.extractLsb' 22 6) (w.extractLsb' 20 2) f = [w, v] := by
  unfold decVF at e
  split at e
  case h_2 => cases e
  case h_1 a b ha hb =>
    obtain ⟨rfl, rfl, word0, word1⟩ := words_of_mkVF hn e
    have sources : encSpec f.a ++ encSpec f.b = v.extractLsb' 6 22 := by
      simp (disch := decide) only [encSpec_of_decSpec ha, encSpec_of_decSpec hb, extractLsb'_append_extractLsb'_eq_extractLsb']
    rw [vw, sources, word0, word1]

theorem words_of_decVX {w v : Word} {f : VF} (hn : v.extractLsb' 28 4 = 0) (e : decVX w v = some f) :
    vx (w.extractLsb' 22 6) (w.extractLsb' 20 2) f (v.extractLsb' 6 22) = [w, v] := by
  obtain ⟨-, -, word0, word1⟩ := words_of_mkVF hn e
  rw [vx, word0, word1]

/-! ### The operations -/

/-- Each major and sub-function is of one operation at most, and the encoder writes both of them back (R192). -/
theorem encodeV_of_opV {m : BitVec 6} {s : BitVec 2} {f : VF} {i : Instr} (e : opV m.toNat s.toNat s f = some i) :
    i.isV = true ∧ encodeV i = vw m s f := by
  obtain ⟨⟨m, hm⟩⟩ := m
  obtain ⟨⟨s, hs⟩⟩ := s
  interval_cases m <;> interval_cases s <;> cases e <;> exact ⟨rfl, rfl⟩

/-- So is each of those with another use of word 1 [27:6], whose bits are fields, zero or fixed (R182). -/
theorem encodeV_of_opX {m : BitVec 6} {s : BitVec 2} {v : Word} {f : VF} {i : Instr} (e : opX m.toNat s.toNat v f = some i) :
    i.isV = true ∧ encodeV i = vx m s f (v.extractLsb' 6 22) := by
  simp only [opX] at e
  split at e
  case h_9 => cases e
  all_goals
    rename_i hm hs
    obtain rfl := eq_ofNat_of_toNat hm
    obtain rfl := eq_ofNat_of_toNat hs
  case h_2 | h_4 | h_5 | h_6 | h_8 =>
    cases e
    exact ⟨rfl, rfl⟩
  case h_1 =>
    obtain ⟨hz, rfl⟩ := ifc_eq_some.1 e
    refine ⟨rfl, congrArg (vx _ _ _) ?_⟩
    simp (disch := decide) only [← beq_iff_eq.1 hz, extractLsb'_append_extractLsb'_eq_extractLsb']
  case h_3 =>
    obtain ⟨fixed, rfl⟩ := ifc_eq_some.1 e
    rw [Bool.and_eq_true, beq_iff_eq, beq_iff_eq] at fixed
    obtain ⟨high, (low : v.extractLsb' 6 11 = 0x6FF)⟩ := fixed
    refine ⟨rfl, congrArg (vx _ _ _) ?_⟩
    simp (disch := decide) only [← high, ← low, extractLsb'_append_extractLsb'_eq_extractLsb']
  case h_7 =>
    obtain ⟨hz, rfl⟩ := ifc_eq_some.1 e
    exact ⟨rfl, congrArg (vx _ _ _) (beq_iff_eq.1 hz).symm⟩

theorem encodeV_of_fieldsV {w v : Word} {i : Instr} (hn : v.extractLsb' 28 4 = 0) (e : fieldsV w v = some i) :
    i.isV = true ∧ encodeV i = [w, v] := by
  unfold fieldsV at e
  split at e
  case isTrue =>
    split at e
    case h_1 f hf =>
      obtain ⟨hv, words⟩ := encodeV_of_opX (m := w.extractLsb' 22 6) e
      exact ⟨hv, words.trans (words_of_decVX hn hf)⟩
    case h_2 => cases e
  case isFalse =>
    split at e
    case h_1 f hf =>
      obtain ⟨hv, words⟩ := encodeV_of_opV (m := w.extractLsb' 22 6) e
      exact ⟨hv, words.trans (words_of_decVF hn hf)⟩
    case h_2 => cases e

theorem encodeDecodeV : Parts.EncodeDecodeV := by
  intro w v i e
  obtain ⟨nibble, fields, hwf⟩ := decodeV_eq_some.1 e
  obtain ⟨hv, words⟩ := encodeV_of_fieldsV nibble fields
  exact ⟨hv, hwf, (encode_of_isV hv).trans words⟩

/-- Settles O3: the fields that the decoders read and the bits that they check are all the bits there are. -/
theorem encodeDecode : Obligations.EncodeDecode := ⟨encodeDecodeC, encodeDecodeV⟩

end Sys2Proof
end

section
/-! SUPPORT. Control transfer and hardware loops (R219 to R223). -/

namespace Sys2Proof.Machine

open Sys2Proof.Safety

/-! ### Addresses in registers -/

/-- The bits of a register below bit `k` are zero. -/
theorem lowBits_zero_iff (v : DWord) (k : Nat) : v.extractLsb' 0 k = 0 ↔ v.toNat % 2 ^ k = 0 := by
  rw [← BitVec.toNat_inj, BitVec.extractLsb'_toNat, Nat.shiftRight_zero, BitVec.ofNat_eq_ofNat, BitVec.toNat_ofNat, Nat.zero_mod]

/-- An address with bits above bit 55 is no virtual address (R127). -/
theorem above56_iff (v : DWord) : v.extractLsb' 56 8 ≠ 0 ↔ 2 ^ 56 ≤ v.toNat :=
  (highBits_zero_iff v 56).not.trans Nat.not_lt

/-! ### Branches (R219) -/

section
variable {i : Instr} {h : Hal} {a b : Reg} {off : BitVec 10} {p : DWord → DWord → Bool} {q : Prop} {s : State}

/-- A branch jumps where its condition `q` holds, and goes on where it does not. -/
theorem branch_ready (r : Ready s h) (cond : p (reg s a) (reg s b) = true ↔ q) :
    (q → branch i h a b off p s = jumped s h (s.core.ctl.pc + off.signExtend 56 * 4) s) ∧
    (¬ q → branch i h a b off p s = done s h 4 s) :=
  ⟨fun taken => scalar_jump r (if_pos (cond.2 taken)), fun not => scalar_done r (if_neg (mt cond.1 not))⟩

end

/-- Settles O14: the six branches share one shape and differ in their condition. -/
theorem branchResults : Obligations.BranchResults := by
  simp only [Obligations.BranchResults, Tables.branches, List.forall_mem_cons]
  refine ⟨?beq, ?bne, ?blt, ?bge, ?bltn, ?bgen, fun _ none => nomatch none⟩ <;> intro h a b off s r
  case beq => exact branch_ready (i := .beq h a b off) r beq_iff_eq
  case bne => exact branch_ready (i := .bne h a b off) r bne_iff_ne
  case blt => exact branch_ready (i := .blt h a b off) r BitVec.slt_iff_toInt_lt
  case bge => exact branch_ready (i := .bge h a b off) (p := fun x y => !x.slt y) r (by simp [BitVec.slt])
  case bltn => exact branch_ready (i := .bltn h a b off) r BitVec.ult_iff_toNat_lt
  case bgen => exact branch_ready (i := .bgen h a b off) (p := fun x y => !x.ult y) r (by simp [BitVec.ult])

/-! ### Jumps (R220) -/

theorem execJalr_ready {h : Hal} {d a : Reg} {imm : BitVec 10} {s : State} (r : Ready s h) :
    let t := reg s a + imm.signExtend 64 * 4
    (t.toNat % 4 ≠ 0 → execJalr h d a imm s = trapped s 0x02 t s) ∧
    (t.toNat % 4 = 0 → 2 ^ 56 ≤ t.toNat → execJalr h d a imm s = trapped s 0x08 t s) ∧
    (t.toNat % 4 = 0 → t.toNat < 2 ^ 56 →
      execJalr h d a imm s = jumped s h (t.setWidth 56) (wrote s d ((s.core.ctl.pc + 4).setWidth 64))) := by
  intro t
  have low : t.extractLsb' 0 2 = 0 ↔ t.toNat % 4 = 0 := lowBits_zero_iff t 2
  have high := above56_iff t
  refine ⟨fun odd => ?_, fun aligned above => ?_, fun aligned below => ?_⟩
  · exact scalar_trap r (if_pos (mt low.1 odd))
  · exact scalar_trap r ((if_neg (not_not_intro (low.2 aligned))).trans (if_pos (high.2 above)))
  · exact scalar_jump r ((if_neg (not_not_intro (low.2 aligned))).trans (if_neg (mt high.1 (Nat.not_le.2 below))))

theorem execJal_ready {h : Hal} {d : Reg} {off : BitVec 16} {s : State} (r : Ready s h) : execJal h d off s =
    jumped s h (s.core.ctl.pc + off.signExtend 56 * 4) (wrote s d ((s.core.ctl.pc + 4).setWidth 64)) :=
  scalar_jump r rfl

theorem jumpResults : Parts.JumpResults := fun _ _ _ _ r => ⟨fun _ => execJal_ready r, fun _ => execJalr_ready r⟩

/-! ### Loops (R221 to R223) -/

theorem loopGet_loopSet (c : Core) (n m : Nat) (l : Loop) : loopGet (loopSet c n l) m = if m = n then l else loopGet c m := by
  simp only [loopGet, loopSet, Core.updCtl_ctl, smGet_smPut]

/-- Only what an update makes of the acting core counts. -/
theorem upd_congr {s : State} {f g : Core → Core} (same : f s.core = g s.core) : s.upd f = s.upd g :=
  congrArg s.setCore same

theorem execLpset_ready {h : Hal} {n : BitVec 3} {a : Reg} {imm : BitVec 10} {s : State} (r : Ready s h) :
    execLpset h n a imm s = done s h 4 (s.upd fun c => loopSet c n.toNat
      { active := true, remaining := BitVec.ofNat 32 (max (min ((reg s a).toNat + imm.toNat) (2 ^ 32 - 1)) 1), index := 0,
        start := s.core.ctl.pc + 4, stop := none }) :=
  scalar_done r (congrArg Res.done (upd_congr rfl))

theorem loopSetResults : Parts.LoopSetResults := by
  intro h n a imm s r
  refine ⟨execLpset_ready r, ?_, fun m other => ?_⟩
  · rw [State.core_upd, loopGet_loopSet, if_pos rfl]
  · rw [State.core_upd, loopGet_loopSet, if_neg other]

/-- Settles O15. -/
theorem jumpsAndLoopSet : Obligations.JumpsAndLoopSet := ⟨jumpResults, loopSetResults⟩

/-- The count after a round is 0 in the last one alone. -/
theorem sub_one_ne_zero_iff (n : BitVec 32) : n - 1 ≠ 0 ↔ n ≠ 1 := (sub_eq_zero).not

section
variable {h : Hal} {n : BitVec 3} {off : BitVec 10} {s : State} (r : Ready s h) {l : Loop} (hl : loopGet s.core n.toNat = l)
include r hl

theorem execLpend_inactive (idle : l.active = false) : execLpend h n off s = done s h 4 s := by
  subst hl
  exact scalar_done r (if_pos (by rw [idle]; rfl))

variable (active : l.active = true)
include active

theorem execLpend_wrong (wrong : s.core.ctl.pc + off.signExtend 56 * 4 ≠ l.start) :
    execLpend h n off s = trapped s 0x01 (encWord (.lpend h n off)) s := by
  subst hl
  exact scalar_trap r ((if_neg (by rw [active]; decide)).trans (if_pos wrong))

/-- What `lpend` does with an active loop whose start it names: another round, or the end of the loop. -/
theorem execLpend_round {l' : Loop} (hl' : l' = { l with stop := some s.core.ctl.pc, index := l.index + 1, remaining := l.remaining - 1 })
    (start : s.core.ctl.pc + off.signExtend 56 * 4 = l.start) :
    (l.remaining ≠ 1 → execLpend h n off s = jumped s h l.start (s.upd fun c => loopSet c n.toNat l')) ∧
    (l.remaining = 1 → execLpend h n off s = done s h 4 (s.upd fun c => loopSet c n.toNat { l' with active := false })) := by
  subst hl hl'
  have busy : ¬ (!(loopGet s.core n.toNat).active) = true := by rw [active]; decide
  have named : ¬ pcRel s.core.ctl.pc off ≠ (loopGet s.core n.toNat).start := not_not_intro start
  have counts := sub_one_ne_zero_iff (loopGet s.core n.toNat).remaining
  refine ⟨fun more => scalar_jump r ?_, fun last => scalar_done r ?_⟩
  · exact (if_neg busy).trans ((if_neg named).trans (if_pos (counts.2 more)))
  · exact (if_neg busy).trans ((if_neg named).trans (if_neg (mt counts.1 (not_not_intro last))))

end

theorem execLpidx_ready {h : Hal} {d : Reg} {n : BitVec 3} {s : State} (r : Ready s h) :
    execLpidx h d n s = done s h 4 (wrote s d ((loopGet s.core n.toNat).index.setWidth 64)) := regOp_ready r

/-- Settles O16: an inactive loop, a wrong target, and the rounds of an active loop but the last and the last. -/
theorem loopEndResults : Obligations.LoopEndResults := by
  intro h d n off s r l pc l'
  refine ⟨execLpend_inactive r rfl, execLpend_wrong r rfl, fun active start => ?_, fun active start => ?_, execLpidx_ready r⟩
  · exact (execLpend_round r rfl active rfl start).1
  · exact (execLpend_round r rfl active rfl start).2

end Sys2Proof.Machine
end

section
/-! SUPPORT. Integer and pointer arithmetic of the control core (R211 to R216). -/

namespace Sys2Proof.Machine

open Sys2Proof.Safety

section
variable {i : Instr} {h : Hal} {d a b : Reg} {s : State} (r : Ready s h)
include r

/-- An instruction that runs as `rr` writes its result, which may be stated as any equal one. -/
theorem rr_ready {o : Out} {f : DWord → DWord → DWord} {v : DWord} (runs : o = rr i h d a b f s)
    (value : f (reg s a) (reg s b) = v) : o = done s h 4 (wrote s d v) := by
  rw [runs, ← value]; exact regOp_ready r

theorem ri_ready {o : Out} {f : DWord → DWord} {v : DWord} (runs : o = ri i h d a f s) (value : f (reg s a) = v) :
    o = done s h 4 (wrote s d v) := by
  rw [runs, ← value]; exact regOp_ready r

end

/-! ### Division (R213) -/

theorem divS_zero (x : DWord) : divS x 0 = BitVec.allOnes 64 := rfl
theorem remS_zero (x : DWord) : remS x 0 = x := rfl
theorem divU_zero (x : DWord) : divU x 0 = BitVec.allOnes 64 := rfl
theorem remU_zero (x : DWord) : remU x 0 = x := rfl

section
variable {x y : DWord} (hy : y ≠ 0)
include hy

theorem divS_eq : divS x y = BitVec.ofInt 64 (x.toInt.tdiv y.toInt) := if_neg hy
theorem remS_eq : remS x y = BitVec.ofInt 64 (x.toInt.tmod y.toInt) := if_neg hy
theorem divU_eq : divU x y = BitVec.ofNat 64 (x.toNat / y.toNat) := (if_neg hy).trans BitVec.udiv_def
theorem remU_eq : remU x y = BitVec.ofNat 64 (x.toNat % y.toNat) := (if_neg hy).trans BitVec.umod_def

theorem toInt_ne_zero : y.toInt ≠ 0 := fun zero => hy (BitVec.eq_of_toInt_eq zero)
theorem toNat_pos : 0 < y.toNat := Nat.pos_of_ne_zero fun zero => hy (BitVec.eq_of_toNat_eq zero)

theorem divS_eq_sdiv : divS x y = x.sdiv y := by
  rw [divS_eq hy]
  exact BitVec.eq_of_toInt_eq (by rw [BitVec.toInt_ofInt, BitVec.toInt_sdiv])

theorem remS_eq_srem : remS x y = x.srem y := by
  rw [remS_eq hy, ← BitVec.toInt_srem, BitVec.ofInt_toInt]

end

/-- A remainder of a division that truncates toward zero is 0 or has the sign of the dividend. -/
theorem tmod_sign (x y : Int) : x.tmod y = 0 ∨ (x.tmod y < 0 ↔ x < 0) := by
  have sign := Int.sign_tmod x y
  split at sign
  · exact .inl (Int.sign_eq_zero_iff_zero.1 sign)
  · exact .inr (by rw [← Int.sign_eq_neg_one_iff_neg, sign, Int.sign_eq_neg_one_iff_neg])

/-- Settles O11: the corners, and the quotients and remainders of a division that truncates. -/
theorem divisionCorners : Obligations.DivisionCorners := by
  intro h d a b s r x y
  refine ⟨fun zero => ?_, fun least minusOne => ?_, fun nonzero _ => ?_, fun nonzero => ?_⟩
  · replace zero : reg s b = 0 := zero
    exact ⟨rr_ready (o := execDiv h d a b s) r rfl (by rw [zero, divS_zero]),
      rr_ready (o := execRem h d a b s) r rfl (by rw [zero, remS_zero]),
      rr_ready (o := execDivn h d a b s) r rfl (by rw [zero, divU_zero]),
      rr_ready (o := execRemn h d a b s) r rfl (by rw [zero, remU_zero])⟩
  · replace least : reg s a = 0x8000000000000000 := least
    replace minusOne : reg s b = BitVec.allOnes 64 := minusOne
    exact ⟨rr_ready (o := execDiv h d a b s) r rfl (by rw [least, minusOne]; decide),
      rr_ready (o := execRem h d a b s) r rfl (by rw [least, minusOne]; decide)⟩
  · refine ⟨x.toInt.tdiv y.toInt, x.toInt.tmod y.toInt, (Int.mul_tdiv_add_tmod ..).symm, ?_, tmod_sign .., ?_, ?_⟩
    · rw [Int.natAbs_tmod]
      exact Nat.mod_lt _ (Int.natAbs_pos.2 (toInt_ne_zero nonzero))
    · exact rr_ready (o := execDiv h d a b s) r rfl (divS_eq nonzero)
    · exact rr_ready (o := execRem h d a b s) r rfl (remS_eq nonzero)
  · refine ⟨x.toNat / y.toNat, x.toNat % y.toNat, (Nat.div_add_mod ..).symm, Nat.mod_lt _ (toNat_pos nonzero), ?_, ?_⟩
    · exact rr_ready (o := execDivn h d a b s) r rfl (divU_eq nonzero)
    · exact rr_ready (o := execRemn h d a b s) r rfl (remU_eq nonzero)

/-! ### The results of two registers (R212, R213, R216) -/

theorem signExtend_eq_ofInt (a : DWord) : a.signExtend 128 = BitVec.ofInt 128 a.toInt := by
  rw [← BitVec.toInt_signExtend_of_le (v := 128) (by decide), BitVec.ofInt_toInt]

/-- The upper half of a signed product of 128 bits. -/
theorem mulHi_signed (a b : DWord) : mulHi true a b = (a.signExtend 128 * b.signExtend 128).extractLsb' 64 64 := by
  rw [signExtend_eq_ofInt, signExtend_eq_ofInt, ← BitVec.ofInt_mul]
  show BitVec.ofInt 64 (a.toInt * b.toInt / 2 ^ 64) = _
  generalize a.toInt * b.toInt = p
  apply BitVec.eq_of_toNat_eq
  rw [BitVec.extractLsb'_toNat, BitVec.toNat_ofInt, BitVec.toNat_ofInt, Nat.shiftRight_eq_div_pow]
  omega

theorem mulHi_unsigned (a b : DWord) : mulHi false a b = (a.setWidth 128 * b.setWidth 128).extractLsb' 64 64 := by
  have bound : a.toNat * b.toNat < 2 ^ 64 * 2 ^ 64 := Nat.mul_lt_mul'' a.isLt b.isLt
  apply BitVec.eq_of_toNat_eq
  rw [BitVec.extractLsb'_toNat, BitVec.toNat_mul, BitVec.toNat_setWidth_of_le (by decide), BitVec.toNat_setWidth_of_le (by decide),
    Nat.shiftRight_eq_div_pow, Nat.mod_eq_of_lt (b := 2 ^ 128) (by omega)]
  exact BitVec.toNat_ofNat ..

/-- A shift count is the low 6 bits of its register. -/
theorem shiftCount (b : DWord) : (b.extractLsb' 0 6).toNat = b.toNat % 64 := by
  rw [BitVec.extractLsb'_toNat, Nat.shiftRight_zero]

theorem bit_decide (p : Prop) [Decidable p] : (bit (decide p) : DWord) = if p then 1 else 0 := by
  by_cases hp : p <;> simp [bit, hp]

theorem bit_slt (a b : DWord) : (bit (a.slt b) : DWord) = if a.toInt < b.toInt then 1 else 0 := bit_decide _
theorem bit_ult (a b : DWord) : (bit (a.ult b) : DWord) = if a.toNat < b.toNat then 1 else 0 := bit_decide _

theorem ofInt_ite (a b : DWord) (p : Prop) [Decidable p] :
    BitVec.ofInt 64 (if p then a.toInt else b.toInt) = if p then a else b := by
  split <;> exact BitVec.ofInt_toInt
theorem ofNat_ite (a b : DWord) (p : Prop) [Decidable p] :
    BitVec.ofNat 64 (if p then a.toNat else b.toNat) = if p then a else b := by
  split <;> rw [BitVec.ofNat_toNat, BitVec.setWidth_eq]

theorem min_signed (a b : DWord) : (if a.slt b then a else b) = BitVec.ofInt 64 (min a.toInt b.toInt) := by
  rw [min_def_lt, ofInt_ite]; simp only [BitVec.slt_iff_toInt_lt]
theorem max_signed (a b : DWord) : (if a.slt b then b else a) = BitVec.ofInt 64 (max a.toInt b.toInt) := by
  rw [max_def_lt, ofInt_ite]; simp only [BitVec.slt_iff_toInt_lt]
theorem min_unsigned (a b : DWord) : (if a.ult b then a else b) = BitVec.ofNat 64 (min a.toNat b.toNat) := by
  rw [min_def_lt, ofNat_ite]; simp only [BitVec.ult_iff_toNat_lt]
theorem max_unsigned (a b : DWord) : (if a.ult b then b else a) = BitVec.ofNat 64 (max a.toNat b.toNat) := by
  rw [max_def_lt, ofNat_ite]; simp only [BitVec.ult_iff_toNat_lt]

/-- The low bits of a sum are the sum of the low bits. -/
theorem low56_add (a b : DWord) : a.extractLsb' 0 56 + b.setWidth 56 = (a + b).extractLsb' 0 56 := by
  apply BitVec.eq_of_toNat_eq
  simp only [BitVec.toNat_add, BitVec.extractLsb'_toNat, BitVec.toNat_setWidth, Nat.shiftRight_zero]
  omega

theorem divU_result (a b : DWord) : divU a b = if b = 0 then BitVec.allOnes 64 else a / b := rfl
theorem remU_result (a b : DWord) : remU a b = if b = 0 then a else a % b := rfl
theorem divS_result (a b : DWord) : divS a b = if b = 0 then BitVec.allOnes 64 else a.sdiv b := by
  split
  · next zero => rw [zero, divS_zero]
  · next nonzero => exact divS_eq_sdiv nonzero
theorem remS_result (a b : DWord) : remS a b = if b = 0 then a else a.srem b := by
  split
  · next zero => rw [zero, remS_zero]
  · next nonzero => exact remS_eq_srem nonzero

theorem integerResults : Parts.IntegerResults := by
  simp only [Parts.IntegerResults, Tables.intOps, List.forall_mem_cons]
  refine ⟨?add, ?sub, ?mul, ?mulh, ?mulhn, ?div, ?divn, ?rem, ?remn, ?and, ?or, ?xor, ?sll, ?srl, ?sra, ?slt, ?sltn, ?min, ?max,
    ?minn, ?maxn, ?adda, ?tagset, fun _ none => nomatch none⟩ <;> intro h d a b s r
  case add => exact rr_ready (o := execAdd h d a b s) r rfl rfl
  case sub => exact rr_ready (o := execSub h d a b s) r rfl rfl
  case mul => exact rr_ready (o := execMul h d a b s) r rfl rfl
  case mulh => exact rr_ready (o := execMulh h d a b s) r rfl (mulHi_signed ..)
  case mulhn => exact rr_ready (o := execMulhn h d a b s) r rfl (mulHi_unsigned ..)
  case div => exact rr_ready (o := execDiv h d a b s) r rfl (divS_result ..)
  case divn => exact rr_ready (o := execDivn h d a b s) r rfl (divU_result ..)
  case rem => exact rr_ready (o := execRem h d a b s) r rfl (remS_result ..)
  case remn => exact rr_ready (o := execRemn h d a b s) r rfl (remU_result ..)
  case and => exact rr_ready (o := execAnd h d a b s) r rfl rfl
  case or => exact rr_ready (o := execOr h d a b s) r rfl rfl
  case xor => exact rr_ready (o := execXor h d a b s) r rfl rfl
  case sll => exact rr_ready (o := execSll h d a b s) r rfl (congrArg (reg s a <<< ·) (shiftCount _))
  case srl => exact rr_ready (o := execSrl h d a b s) r rfl (congrArg (reg s a >>> ·) (shiftCount _))
  case sra => exact rr_ready (o := execSra h d a b s) r rfl (congrArg (reg s a).sshiftRight (shiftCount _))
  case slt => exact rr_ready (o := execSlt h d a b s) r rfl (bit_slt ..)
  case sltn => exact rr_ready (o := execSltn h d a b s) r rfl (bit_ult ..)
  case min => exact rr_ready (o := execMin h d a b s) r rfl (min_signed ..)
  case max => exact rr_ready (o := execMax h d a b s) r rfl (max_signed ..)
  case minn => exact rr_ready (o := execMinn h d a b s) r rfl (min_unsigned ..)
  case maxn => exact rr_ready (o := execMaxn h d a b s) r rfl (max_unsigned ..)
  case adda => exact rr_ready (o := execAdda h d a b s) r rfl (congrArg ((reg s a).extractLsb' 56 8 ++ ·) (low56_add ..))
  case tagset => exact rr_ready (o := execTagset h d a b s) r rfl rfl

/-! ### Immediate forms (R214, R215) -/

/-- `lis` puts its immediate below the low 48 bits of its register. -/
theorem lis_value (x : DWord) (m : BitVec 16) : (x <<< 16) ||| m.setWidth 64 = x.extractLsb' 0 48 ++ m := by
  have high : (x.extractLsb' 0 48).setWidth 64 <<< 16 = x <<< 16 := by
    apply BitVec.eq_of_toNat_eq
    simp only [BitVec.toNat_shiftLeft, BitVec.toNat_setWidth, BitVec.extractLsb'_toNat, Nat.shiftLeft_eq, Nat.shiftRight_zero]
    omega
  rw [BitVec.append_def, BitVec.shiftLeftZeroExtend_eq, high, BitVec.setWidth'_eq]

theorem execLi_ready {h : Hal} {d : Reg} {m : BitVec 16} {s : State} (r : Ready s h) :
    execLi h d m s = done s h 4 (wrote s d (m.signExtend 64)) := regOp_ready r

theorem execLis_ready {h : Hal} {d : Reg} {m : BitVec 16} {s : State} (r : Ready s h) :
    execLis h d m s = done s h 4 (wrote s d ((reg s d).extractLsb' 0 48 ++ m)) := by
  rw [← lis_value]; exact regOp_ready r

theorem immediateResults : Parts.ImmediateResults := by
  simp only [Parts.ImmediateResults, Tables.immOps, Tables.shiftOps, List.forall_mem_cons]
  refine ⟨⟨?addi, ?andi, ?ori, ?xori, ?slti, fun _ none => nomatch none⟩, ⟨?slli, ?srli, ?srai, fun _ none => nomatch none⟩, ?li⟩
  case addi => exact fun h d a m s r => ri_ready (o := execAddi h d a m s) r rfl rfl
  case andi => exact fun h d a m s r => ri_ready (o := execAndi h d a m s) r rfl rfl
  case ori => exact fun h d a m s r => ri_ready (o := execOri h d a m s) r rfl rfl
  case xori => exact fun h d a m s r => ri_ready (o := execXori h d a m s) r rfl rfl
  case slti => exact fun h d a m s r => ri_ready (o := execSlti h d a m s) r rfl (bit_slt ..)
  case slli => exact fun h d a k s r => ri_ready (o := execSlli h d a k s) r rfl (BitVec.shiftLeft_eq' ..)
  case srli => exact fun h d a k s r => ri_ready (o := execSrli h d a k s) r rfl (BitVec.ushiftRight_eq' ..)
  case srai => exact fun h d a k s r => ri_ready (o := execSrai h d a k s) r rfl rfl
  case li => intro h d m s r; exact ⟨execLi_ready r, execLis_ready r⟩

/-! ### Counts of bits, and the tag (R212, R216) -/

theorem getLsbD_eq_testBit (x : DWord) (i : Nat) : x.getLsbD i = x.toNat.testBit i := rfl

theorem log2_le_63 {x : DWord} (hx : x ≠ 0) : Nat.log2 x.toNat ≤ 63 :=
  Nat.le_of_lt_succ ((Nat.log2_lt (toNat_pos hx).ne').2 x.isLt)

/-- The zero bits above the highest 1. -/
theorem clz64_spec (x : DWord) : clz64 x ≤ 64 ∧ (∀ i, i < clz64 x → x.getLsbD (63 - i) = false) ∧
    (clz64 x < 64 → x.getLsbD (63 - clz64 x) = true) := by
  by_cases hx : x = 0
  · subst hx
    exact ⟨Nat.le_refl 64, fun i _ => by simp, fun less => absurd less (by decide)⟩
  · have top := log2_le_63 hx
    have highest := Nat.testBit_log2 (toNat_pos hx).ne'
    rw [clz64, if_neg hx]
    refine ⟨by omega, fun i hi => ?_, fun _ => ?_⟩
    · rw [getLsbD_eq_testBit]
      exact Nat.testBit_lt_two_pow (Nat.lt_log2_self.trans_le (Nat.pow_le_pow_right (by decide) (by omega)))
    · rw [getLsbD_eq_testBit, show 63 - (63 - Nat.log2 x.toNat) = Nat.log2 x.toNat by omega]
      exact highest

theorem length_bitsOf (x : DWord) : (bitsOf x).length = 64 := by simp [bitsOf]
theorem getElem_bitsOf (x : DWord) {i : Nat} (hi : i < (bitsOf x).length) : (bitsOf x)[i] = x.getLsbD i := by simp [bitsOf]

/-- The zero bits below the lowest 1. -/
theorem ctz64_spec (x : DWord) : ctz64 x ≤ 64 ∧ (∀ i, i < ctz64 x → x.getLsbD i = false) ∧
    (ctz64 x < 64 → x.getLsbD (ctz64 x) = true) := by
  have bound : ctz64 x ≤ (bitsOf x).length := List.findIdx_le_length
  refine ⟨length_bitsOf x ▸ bound, fun i hi => ?_, fun less => ?_⟩
  · rw [← getElem_bitsOf x (hi.trans_le bound)]
    exact List.not_of_lt_findIdx hi
  · rw [← length_bitsOf x] at less
    rw [← getElem_bitsOf x less]
    exact List.findIdx_getElem (p := id) (w := less)

/-- The 1 bits of a word. -/
theorem popc64_eq (x : DWord) : popc64 x = (Finset.univ.filter fun i : Fin 64 => x.getLsbD i = true).card := by
  have counted : popc64 x = Nat.count (fun i => x.getLsbD i = true) 64 := by
    rw [popc64, bitsOf, List.countP_map, Nat.count]
    congr 1
    funext i
    simp
  rw [counted, Nat.count_eq_card_filter_range, Finset.card_filter, Finset.card_filter, Finset.sum_range]

theorem tag_value (x : DWord) : (x.extractLsb' 60 4).setWidth 64 = BitVec.ofNat 64 (x.toNat / 2 ^ 60) := by
  apply BitVec.eq_of_toNat_eq
  rw [BitVec.toNat_setWidth, BitVec.extractLsb'_toNat, BitVec.toNat_ofNat, Nat.shiftRight_eq_div_pow]
  omega

theorem bitCounts : Parts.BitCounts := by
  intro h d a s r x
  obtain ⟨clzBound, clzAbove, clzHighest⟩ := clz64_spec x
  obtain ⟨ctzBound, ctzBelow, ctzLowest⟩ := ctz64_spec x
  refine ⟨⟨clz64 x, clzBound, clzAbove, clzHighest, ?clz⟩, ⟨ctz64 x, ctzBound, ctzBelow, ctzLowest, ?ctz⟩, ?popc, ?tagget⟩
  case clz => exact ri_ready (o := execClz h d a s) r rfl rfl
  case ctz => exact ri_ready (o := execCtz h d a s) r rfl rfl
  case popc => exact ri_ready (o := execPopc h d a s) r rfl (congrArg (BitVec.ofNat 64) (popc64_eq _))
  case tagget => exact ri_ready (o := execTagget h d a s) r rfl (tag_value _)

/-- Settles O12. -/
theorem integerInstructions : Obligations.IntegerInstructions := ⟨integerResults, immediateResults, bitCounts⟩

end Sys2Proof.Machine
end

section
/-! SUPPORT. The control core's side of the vector engine, the cross queues, the inboxes and the arrival interrupt (R236 to R242), and
the environment group (R243 to R245). -/

namespace Sys2Proof.Machine

open Sys2Proof.Safety

/-! ### The vector engine (R236, R238) -/

theorem upd_upd (s : State) (f g : Core → Core) : (s.upd f).upd g = s.upd fun c => g (f c) := setCore_upd s (f s.core) g

/-- The engine is halted with no convoy in flight. -/
theorem vecHalted_iff (v : Vec) : (v.halted && v.cv.isNone) = true ↔ v.halted = true ∧ v.cv = none := by
  rw [Bool.and_eq_true, Option.isNone_iff_eq_none]

section
variable {h : Hal} {a : Reg} {s : State} (r : Ready s h)
include r

theorem execVstart_misaligned (odd : (reg s a).toNat % 8 ≠ 0) : execVstart h a s = trapped s 0x02 (reg s a) s :=
  scalar_trap r (if_pos (mt (lowBits_zero_iff (reg s a) 3).1 odd))

section
variable (aligned : (reg s a).toNat % 8 = 0)
include aligned

theorem execVstart_above (above : 2 ^ 56 ≤ (reg s a).toNat) : execVstart h a s = trapped s 0x08 (reg s a) s :=
  scalar_trap r ((if_neg (not_not_intro ((lowBits_zero_iff (reg s a) 3).2 aligned))).trans (if_pos ((above56_iff _).2 above)))

/-- With a legal address the vector engine decides. -/
theorem execVstart_legal (below : (reg s a).toNat < 2 ^ 56) :
    (s.core.vec.halted = true ∧ s.core.vec.cv = none → execVstart h a s = done s h 4 (s.upd fun c => c.updVec fun v =>
      { v with pc := (reg s a).setWidth 56, halted := false, paid := [], img := some s.mem, imgFenced := none })) ∧
    (¬ (s.core.vec.halted = true ∧ s.core.vec.cv = none) → execVstart h a s = waits h s) := by
  have low : ¬ (reg s a).extractLsb' 0 3 ≠ 0 := not_not_intro ((lowBits_zero_iff (reg s a) 3).2 aligned)
  have high : ¬ (reg s a).extractLsb' 56 8 ≠ 0 := mt (above56_iff _).1 (Nat.not_le.2 below)
  refine ⟨fun halted => scalar_done r ?_, fun runs => scalar_wait r ?_⟩
  · refine (if_neg low).trans ((if_neg high).trans ((if_pos ((vecHalted_iff _).2 halted)).trans ?_))
    exact congrArg Res.done (upd_upd s _ _)
  · exact (if_neg low).trans ((if_neg high).trans (if_neg (mt (vecHalted_iff _).1 runs)))

end

theorem execVsync_halted (halted : s.core.vec.halted = true ∧ s.core.vec.cv = none) : execVsync h s = done s h 4 s :=
  scalar_done r (if_pos ((vecHalted_iff _).2 halted))
theorem execVsync_runs (runs : ¬ (s.core.vec.halted = true ∧ s.core.vec.cv = none)) : execVsync h s = waits h s :=
  scalar_wait r (if_neg (mt (vecHalted_iff _).1 runs))

end

theorem vectorStart : Parts.VectorStart := fun _ _ _ r =>
  ⟨execVstart_misaligned r, execVstart_above r, fun aligned below => (execVstart_legal r aligned below).1,
    fun aligned below => (execVstart_legal r aligned below).2, execVsync_halted r, execVsync_runs r⟩

/-! ### The cross queues (R48, R237) -/

section
variable {h : Hal} {d a : Reg} {s : State} (r : Ready s h)
include r

theorem execVpush_room (room : s.core.c2v.length < 8) :
    execVpush h a s = done s h 4 (s.upd fun c => { c with c2v := c.c2v ++ [reg s a] }) :=
  scalar_done r ((if_pos room).trans (congrArg Res.done (upd_congr rfl)))
theorem execVpush_full (full : 8 ≤ s.core.c2v.length) : execVpush h a s = waits h s :=
  scalar_wait r (if_neg (Nat.not_lt.2 full))

theorem execVpop_entry {x : DWord} {xs : List DWord} (entry : s.core.v2c = x :: xs) :
    execVpop h d s = done s h 4 (wrote (s.upd fun c => { c with v2c := xs }) d x) := by
  rw [wrote, upd_upd]
  exact scalar_done r (by rw [entry])
theorem execVpop_empty (empty : s.core.v2c = []) : execVpop h d s = waits h s := scalar_wait r (by rw [empty])

end

theorem crossQueues : Parts.CrossQueues := fun _ _ _ _ r =>
  ⟨execVpush_room r, execVpush_full r, fun _ _ => execVpop_entry r, execVpop_empty r⟩

/-! ### The inboxes (R239) -/

theorem inboxGet_regSet (c : Core) (d : Reg) (v : DWord) (b : Nat) : inboxGet (regSet c d v) b = inboxGet c b := by
  show inboxGet (Core.still (regSet c d v)) b = inboxGet (Core.still c) b
  rw [still_regSet]

/-- The core after the four register writes of `inpop`. -/
def popInto (c : Core) (d : Reg) (x : BitVec 256) : Core :=
  regSet (regSet (regSet (regSet c d (x.extractLsb' 0 64)) (d + 1) (x.extractLsb' 64 64)) (d + 2) (x.extractLsb' 128 64)) (d + 3)
    (x.extractLsb' 192 64)

theorem inboxGet_popInto (c : Core) (d : Reg) (x : BitVec 256) (b : Nat) : inboxGet (popInto c d x) b = inboxGet c b := by
  simp only [popInto, inboxGet_regSet]

/-- The four registers are apart, and none is `s0`. -/
theorem fourRegs {d : Reg} (low : 4 ≤ d.toNat) (even : d.toNat % 4 = 0) : d ≠ 0 ∧ d + 1 ≠ 0 ∧ d + 2 ≠ 0 ∧ d + 3 ≠ 0 ∧ d ≠ d + 1 ∧
    d ≠ d + 2 ∧ d ≠ d + 3 ∧ d + 1 ≠ d + 2 ∧ d + 1 ≠ d + 3 ∧ d + 2 ≠ d + 3 := by
  bv_omega

theorem regGet_popInto {d : Reg} (low : 4 ≤ d.toNat) (even : d.toNat % 4 = 0) (c : Core) (x : BitVec 256) {k : Nat} (hk : k < 4) :
    regGet (popInto c d x) (d + BitVec.ofNat 6 k) = x.extractLsb' (64 * k) 64 := by
  obtain ⟨d0, d1, d2, d3, n01, n02, n03, n12, n13, n23⟩ := fourRegs low even
  rw [popInto]
  match k, hk with
  | 0, _ =>
    rw [show d + BitVec.ofNat 6 0 = d from BitVec.add_zero d, regGet_regSet_of_ne _ _ _ _ n03, regGet_regSet_of_ne _ _ _ _ n02,
      regGet_regSet_of_ne _ _ _ _ n01, regGet_regSet_same, if_neg d0]
  | 1, _ =>
    rw [show BitVec.ofNat 6 1 = 1 from rfl, regGet_regSet_of_ne _ _ _ _ n13, regGet_regSet_of_ne _ _ _ _ n12, regGet_regSet_same,
      if_neg d1]
  | 2, _ => rw [show BitVec.ofNat 6 2 = 2 from rfl, regGet_regSet_of_ne _ _ _ _ n23, regGet_regSet_same, if_neg d2]
  | 3, _ => rw [show BitVec.ofNat 6 3 = 3 from rfl, regGet_regSet_same, if_neg d3]

theorem regGet_popInto_other (c : Core) (x : BitVec 256) {d q : Reg} (other : ∀ k, k < 4 → q ≠ d + BitVec.ofNat 6 k) :
    regGet (popInto c d x) q = regGet c q := by
  have q0 : q ≠ d := by have := other 0 (by decide); rwa [show d + BitVec.ofNat 6 0 = d from BitVec.add_zero d] at this
  have q1 : q ≠ d + 1 := other 1 (by decide)
  have q2 : q ≠ d + 2 := other 2 (by decide)
  have q3 : q ≠ d + 3 := other 3 (by decide)
  rw [popInto, regGet_regSet_of_ne _ _ _ _ q3, regGet_regSet_of_ne _ _ _ _ q2, regGet_regSet_of_ne _ _ _ _ q1,
    regGet_regSet_of_ne _ _ _ _ q0]

section
variable {h : Hal} {d : Reg} {b : BitVec 4} {s : State} (r : Ready s h)
include r

theorem execInpop_entry {x : BitVec 256} {xs : List (BitVec 256)} (entry : inboxGet s.core b.toNat = x :: xs) :
    execInpop h d b s = done s h 4 (s.upd fun c => popInto { c with inbox := smSet [] c.inbox b.toNat xs } d x) :=
  scalar_done r (by rw [entry]; rfl)
theorem execInpop_empty (empty : inboxGet s.core b.toNat = []) : execInpop h d b s = waits h s := scalar_wait r (by rw [empty])
theorem execInpeek_ready : execInpeek h d b s = done s h 4 (wrote s d (BitVec.ofNat 64 (inboxGet s.core b.toNat).length)) :=
  regOp_ready r

end

theorem inboxResults : Parts.InboxResults := by
  intro h d b s r
  refine ⟨fun x xs entry low even => ⟨_, execInpop_entry r entry, ?_, fun k hk => ?_, fun q other => ?_, fun j other => ?_⟩,
    execInpop_empty r, execInpeek_ready r⟩
  · rw [State.core_upd, inboxGet_popInto, inboxGet, smGet_smSet, if_pos rfl]
  · rw [reg, State.core_upd, regGet_popInto low even _ _ hk]
  · rw [reg, State.core_upd, regGet_popInto_other _ _ other]; rfl
  · rw [State.core_upd, inboxGet_popInto, inboxGet, smGet_smSet, if_neg other]; rfl

/-- Settles O26. -/
theorem engineInterface : Obligations.EngineInterface := ⟨vectorStart, crossQueues, inboxResults⟩

/-! ### The arrival interrupt (R240, R242) -/

/-- A slot of a source mask that lies at or above the launch's tokens. -/
def BadSlot (m : DWord) (tokens k : Nat) : Prop := k < 32 ∧ m.getLsbD (16 + k) = true ∧ tokens ≤ k

theorem badSlot_iff (m : DWord) (tokens k : Nat) :
    (m.getLsbD (16 + k) && decide (tokens ≤ k)) = true ↔ m.getLsbD (16 + k) = true ∧ tokens ≤ k := by
  rw [Bool.and_eq_true, decide_eq_true_iff]

theorem badSlot_some {m : DWord} {tokens k : Nat} (bad : BadSlot m tokens k) (first : ∀ j, j < k → ¬ BadSlot m tokens j) :
    badSlot m tokens = some k := by
  obtain ⟨bound, hit⟩ := bad
  refine List.find?_range_eq_some.2 ⟨(badSlot_iff ..).2 hit, List.mem_range.2 bound, fun j hj => ?_⟩
  rw [Bool.not_eq_true', Bool.eq_false_iff]
  exact fun hits => first j hj ⟨hj.trans bound, (badSlot_iff ..).1 hits⟩

theorem badSlot_none {m : DWord} {tokens : Nat} (good : ∀ k, ¬ BadSlot m tokens k) : badSlot m tokens = none := by
  refine List.find?_range_eq_none.2 fun j hj => ?_
  rw [Bool.not_eq_true', Bool.eq_false_iff]
  exact fun hits => good j ⟨hj, (badSlot_iff ..).1 hits⟩

section
variable {h : Hal} {a b : Reg} {s : State} (r : Ready s h)
include r

theorem execAiset_misaligned (odd : ¬ (reg s a).toNat % 4 = 0) : execAiset h a b s = trapped s 0x02 (reg s a) s :=
  scalar_trap r (if_pos (mt (lowBits_zero_iff (reg s a) 2).1 odd))

variable (aligned : (reg s a).toNat % 4 = 0)
include aligned

theorem execAiset_above (above : ¬ (reg s a).toNat < 2 ^ 56) : execAiset h a b s = trapped s 0x08 (reg s a) s :=
  scalar_trap r ((if_neg (not_not_intro ((lowBits_zero_iff (reg s a) 2).2 aligned))).trans
    (if_pos ((above56_iff _).2 (Nat.not_lt.1 above))))

variable (below : (reg s a).toNat < 2 ^ 56)
include below

theorem execAiset_reserved (wide : ¬ (reg s b).toNat < 2 ^ 48) : execAiset h a b s = trapped s 0x01 (reg s b) s :=
  scalar_trap r ((if_neg (not_not_intro ((lowBits_zero_iff (reg s a) 2).2 aligned))).trans
    ((if_neg (mt (above56_iff _).1 (Nat.not_le.2 below))).trans (if_pos (mt (highBits_zero_iff _ 48).1 wide))))

variable (narrow : (reg s b).toNat < 2 ^ 48)
include narrow

/-- With legal registers the slots of the mask decide. -/
theorem execAiset_legal :
    (∀ k, badSlot (reg s b) (s.gangOf s.cur).tokens = some k → execAiset h a b s = trapped s 0x08 (BitVec.ofNat 64 k) s) ∧
    (badSlot (reg s b) (s.gangOf s.cur).tokens = none → execAiset h a b s = done s h 4 (withCtl s fun k =>
      { k with arrHandler := (reg s a).setWidth 56, arrMask := (reg s b).setWidth 48,
               arrPend := if reg s a = 0 then 0 else k.arrPend &&& (reg s b).setWidth 48 })) := by
  have low : ¬ (reg s a).extractLsb' 0 2 ≠ 0 := not_not_intro ((lowBits_zero_iff (reg s a) 2).2 aligned)
  have high : ¬ (reg s a).extractLsb' 56 8 ≠ 0 := mt (above56_iff _).1 (Nat.not_le.2 below)
  have mask : ¬ (reg s b).extractLsb' 48 16 ≠ 0 := not_not_intro ((highBits_zero_iff _ 48).2 narrow)
  refine ⟨fun k bad => scalar_trap r ?_, fun good => scalar_done r ?_⟩
  · exact (if_neg low).trans ((if_neg high).trans ((if_neg mask).trans (by rw [← reg, bad])))
  · exact (if_neg low).trans ((if_neg high).trans ((if_neg mask).trans (by rw [← reg, good]; rfl)))

end

theorem arrivalSet : Parts.ArrivalSet := fun _ _ _ _ r =>
  ⟨execAiset_misaligned r, execAiset_above r, execAiset_reserved r,
    fun k aligned below narrow bad first => (execAiset_legal r aligned below narrow).1 k (badSlot_some bad first),
    fun aligned below narrow good => (execAiset_legal r aligned below narrow).2 (badSlot_none good)⟩

theorem execAret_outside {h : Hal} {s : State} (r : Ready s h) (out : s.core.ctl.inHandler = false) :
    execAret h s = trapped s 0x01 (encWord (.aret h)) s := scalar_trap r (if_neg (by rw [out]; decide))
theorem execAret_inside {h : Hal} {s : State} (r : Ready s h) (inside : s.core.ctl.inHandler = true) : execAret h s =
    .next (finish (withCtl s fun k => { k with inHandler := false, staleFenced := [] }) h s.core.ctl.arrRet) :=
  scalar_own r (if_pos inside)

theorem arrivalReturn : Parts.ArrivalReturn := fun _ _ r => ⟨execAret_outside r, execAret_inside r⟩

/-! ### What the command processors write for a queue (R396, R398, R400) -/

/-- A state but for what the logs of a queue are written to: memory, the queue itself and the interrupts. -/
def logFrame (s : State) : State := { s with mem := [], queues := [], msix := [] }

theorem logFrame_cpWrite {s t : State} {die : Nat} {asid : BitVec 10} {va n v : Nat} (h : cpWrite s die asid va n v = some t) :
    logFrame t = logFrame s := by
  obtain ⟨pa, -, rfl⟩ := Option.map_eq_some_iff.1 h
  rfl

theorem logFrame_cpField (s : State) (q : Queue) (off n v : Nat) : logFrame (cpField s q off n v) = logFrame s := by
  unfold cpField
  cases h : cpWrite s q.home q.asid (q.ctl.toNat + off) n v with
  | none => rfl
  | some t => exact logFrame_cpWrite h

theorem logFrame_cpWords {s t : State} {die : Nat} {asid : BitVec 10} {va : Nat} {ws : List Nat}
    (h : cpWords s die asid va ws = some t) : logFrame t = logFrame s := by
  induction ws generalizing s va with
  | nil => cases h; rfl
  | cons w ws ih =>
    obtain ⟨u, hu, h⟩ := Option.bind_eq_some_iff.1 h
    exact (ih h).trans (logFrame_cpWrite hu)

theorem logFrame_msixRaise (s : State) (v : Nat) : logFrame (msixRaise s v) = logFrame s := by
  unfold msixRaise; split <;> rfl

theorem logFrame_logFail (s : State) (k : Nat) : logFrame (logFail s k) = logFrame s := by
  unfold logFail
  split
  · rfl
  · exact (logFrame_msixRaise ..).trans (logFrame_cpField ..)

theorem logFrame_mlogAppend (s : State) (k : Nat) (ws : List Nat) : logFrame (mlogAppend s k ws) = logFrame s := by
  unfold mlogAppend
  cases smFind s.queues k with
  | none => rfl
  | some q =>
    dsimp only
    cases h : cpWords s q.home q.asid (q.mlog.toNat + 16 * (q.mlogTail.toNat % 2 ^ q.mlogLog)) ws with
    | none => exact (logFrame_logFail ..).trans (logFrame_cpField ..)
    | some t =>
      have written : logFrame t = logFrame s := logFrame_cpWords h
      exact (logFrame_msixRaise ..).trans ((logFrame_cpField ..).trans written)

theorem cores_of_logFrame {s t : State} (h : logFrame t = logFrame s) : t.cores = s.cores :=
  (congrArg State.cores h : (logFrame t).cores = (logFrame s).cores)

/-! ### Environment calls (R243) -/

theorem scalar_trapAfter {i : Instr} {h : Hal} {len : VAddr} {body : State → Res} {s t : State} {c : BitVec 8} {v : DWord}
    (r : Ready s h) (hb : body s = .trapAfter c v t) : scalar i h len body s = trappedAfter s h len c v t := by
  rw [scalar_ready r, hb]; rfl

/-- The message of service 0x2 leaves every core (log 13). -/
def ecallMessage (s : State) : State :=
  match smFind s.launches (s.gangOf s.cur).launch with
  | some l => mlogAppend s l.queue [l.id.toNat * 2 ^ 32 + s.cur * 256 + s.core.rank, (regGet s.core 40).toNat]
  | none => s

theorem cores_ecallMessage (s : State) : (ecallMessage s).cores = s.cores := by
  unfold ecallMessage
  split
  · exact cores_of_logFrame (logFrame_mlogAppend ..)
  · rfl

section
variable {h : Hal} {s : State} (r : Ready s h)
include r

theorem execEcall_exit (v : reg s 63 = 0) :
    execEcall h s = .next (s.upd fun c => (takeOnce c h).updCtl fun k => { k with exiting := true, took := some h }) :=
  scalar_own r (if_pos v)

theorem execEcall_service (v0 : reg s 63 ≠ 0) (v2 : reg s 63 ≠ 2) : execEcall h s = trappedAfter s h 4 0x0E (reg s 63) s :=
  scalar_trapAfter r ((if_neg v0).trans (by rw [← reg, if_neg v2]))

theorem execEcall_message (v : reg s 63 = 2) : execEcall h s = trappedAfter s h 4 0x0E (reg s 63) (ecallMessage s) :=
  scalar_trapAfter r ((if_neg (by rw [← reg, v]; decide)).trans (by rw [← reg, if_pos v]; rfl))

end

theorem ecallResults : Parts.EcallResults := fun _ s r =>
  ⟨execEcall_exit r, execEcall_service r, fun v => ⟨ecallMessage s, execEcall_message r v, cores_ecallMessage s⟩⟩

/-! ### Breakpoints (R244, R447) -/

theorem cur_requestFreeze (s : State) (n : Nat) (reason : BitVec 3) (unit : BitVec 4) (src : BitVec 3) :
    (requestFreeze s n reason unit src).cur = s.cur := by
  unfold requestFreeze
  dsimp only
  split
  · rfl
  · exact foldl_keeps (f := fun s m => s.updN m fun c => { c.dropPins with freezeLatch := true }) State.cur (fun _ _ => rfl) _ _

/-- A request of a freeze leaves the control core of the acting core. -/
theorem ctl_requestFreeze {s : State} {n : Nat} (hf : (s.dbgOf (clusterOf n)).frozen = false)
    (hp : (s.dbgOf (clusterOf n)).pending = false) (reason : BitVec 3) (unit : BitVec 4) (src : BitVec 3) :
    (requestFreeze s n reason unit src).core.ctl = s.core.ctl := by
  rw [State.core, cur_requestFreeze, coreN_requestFreeze hf hp]
  split <;> rfl

section
variable {h : Hal} {s : State} (r : Ready s h)
include r

theorem execEbreak_trap (free : ¬ (s.dbgOf (clusterOf s.cur)).claim.getLsbD (s.cur % 24) = true ∨ s.core.ebrkAt = some s.core.ctl.pc) :
    execEbreak h s = trapped s 0x0F 0 (s.upd fun c => c.setEbrk none) := by
  refine scalar_trap r (if_neg ?_)
  rw [Bool.and_eq_true, bne_iff_ne]
  rintro ⟨claimed, new⟩
  exact free.elim (· claimed) new

theorem execEbreak_freeze (claimed : (s.dbgOf (clusterOf s.cur)).claim.getLsbD (s.cur % 24) = true)
    (new : s.core.ebrkAt ≠ some s.core.ctl.pc) :
    execEbreak h s = waits h (requestFreeze (s.upd fun c => c.setEbrk (some s.core.ctl.pc)) s.cur 4 0 0) := by
  refine scalar_wait r ((if_pos ?_).trans ?_)
  · rw [Bool.and_eq_true, bne_iff_ne]; exact ⟨claimed, new⟩
  · exact congrArg (fun t => Res.wait (requestFreeze t s.cur 4 0 0)) (upd_congr rfl)

/-! ### Pauses (R245) -/

theorem execPause_begins (new : s.core.ctl.pauseEnd = none) :
    execPause h s = waits h (withCtl s fun k => { k with pauseEnd := some (s.clock + 64) }) := scalar_wait r (by rw [new]; rfl)

variable {e : DWord} (ends : s.core.ctl.pauseEnd = some e)
include ends

theorem execPause_over (past : e.toNat ≤ s.clock.toNat) :
    execPause h s = done s h 4 (withCtl s fun k => { k with pauseEnd := none }) := scalar_done r (by rw [ends]; exact if_pos past)
theorem execPause_goesOn (more : s.clock.toNat < e.toNat) : execPause h s = waits h s :=
  scalar_wait r (by rw [ends]; exact if_neg (Nat.not_le.2 more))

end

section
variable {clk e : DWord} {c : Core} (ends : c.ctl.pauseEnd = some e) (later : clk + 1 < e)
include ends later

theorem pauseEnd_wakePause : (wakePause clk c).ctl.pauseEnd = some (clk + 1) := by
  rw [wakePause, ends]
  exact congrArg some (if_pos later)

theorem pauseEnd_arrive (n : Nat) : (arrive clk c n).ctl.pauseEnd = some (clk + 1) := by
  rw [← pauseEnd_wakePause ends later, arrive]
  split <;> rfl

theorem pauseEnd_tokIdle (n : Nat) : (tokIdle clk c n).ctl.pauseEnd = some (clk + 1) := pauseEnd_arrive (by exact ends) later _

theorem pauseEnd_signalOne {n : Nat} (wakes : n = 1 ∨ n = 8) (room : halGet c n < 63) :
    (signalOne clk c n).ctl.pauseEnd = some (clk + 1) := by
  have bumped (k : Core) (i : Nat) : (bump k i).ctl = k.ctl := by unfold bump; split <;> rfl
  rw [signalOne, bumped, if_pos ⟨wakes, room⟩, pauseEnd_wakePause ends later]

end

theorem breakAndPause : Parts.BreakAndPause := by
  intro h s r
  refine ⟨execEbreak_trap r, fun claimed new hf hp => ⟨_, execEbreak_freeze r claimed new, ?_, ?_, ?_⟩, execPause_begins r,
    fun e ends past => execPause_over r ends past, fun e ends more => execPause_goesOn r ends more,
    fun clk e c n ends later => ⟨pauseEnd_arrive ends later n, pauseEnd_tokIdle ends later n, pauseEnd_signalOne ends later⟩⟩
  · rw [dbgOf_requestFreeze (by exact hf) (by exact hp)]
  · rw [dbgOf_requestFreeze (by exact hf) (by exact hp)]
  · rw [ctl_requestFreeze (by exact hf) (by exact hp), State.core_upd]; rfl

/-- Settles O27. -/
theorem arrivalAndEnvironment : Obligations.ArrivalAndEnvironment := ⟨arrivalSet, arrivalReturn, ecallResults, breakAndPause⟩

end Sys2Proof.Machine
end

section
/-! SUPPORT. Loads and stores of the control core (R224 to R226, R228) with each outcome of their access. -/

namespace Sys2Proof.Machine

open Sys2Proof.Safety

/-! ### Numbers of a width (R5) -/

/-- The signed value of the low `w` bits is that of the word they make. -/
theorem toS_eq_toInt {w : Nat} (hw : 0 < w) (v : Nat) : toS w v = (BitVec.ofNat w v).toInt := by
  obtain ⟨k, rfl⟩ : ∃ k, w = k + 1 := ⟨w - 1, by omega⟩
  rw [toS, BitVec.toInt_eq_toNat_cond, BitVec.toNat_ofNat, Nat.add_sub_cancel]
  have half : 2 ^ (k + 1) = 2 * 2 ^ k := by rw [Nat.pow_succ, Nat.mul_comm]
  refine if_congr ?_ rfl rfl
  omega

theorem sextBytes_eq (sz : BitVec 2) (v : Nat) : sextBytes (szBytes sz) v = Tables.sext (2 ^ sz.toNat) v := by
  have width : 0 < 8 * szBytes sz := Nat.mul_pos (by decide) (Nat.two_pow_pos _)
  rw [sextBytes, toS_eq_toInt width]
  rfl

/-! ### Loads (R224 to R226) -/

section
variable {s t : State} {sp : BitVec 2} {ea : DWord} {n : Nat} {d : Reg} {f : Nat → DWord}

theorem loadReg_value {v : Nat} (access : Tables.cLoad s sp ea n = (t, .val v none)) :
    loadReg sp ea n d f s = .done (Tables.loaded t d (f v)) := by
  rw [Tables.cLoad] at access
  rw [loadReg, access]
  rfl
theorem loadReg_mismatch {v : Nat} {tag : BitVec 4 × BitVec 4} (access : Tables.cLoad s sp ea n = (t, .val v (some tag))) :
    loadReg sp ea n d f s = .trapAfter 0x05 ea (Tables.loaded t d (f v)) := by
  rw [Tables.cLoad] at access
  rw [loadReg, access]
  rfl
theorem loadReg_fault {c : BitVec 8} {x : DWord} (access : Tables.cLoad s sp ea n = (t, .fault c x)) :
    loadReg sp ea n d f s = .trap c x t := by
  rw [Tables.cLoad] at access
  rw [loadReg, access]
theorem loadReg_held (access : Tables.cLoad s sp ea n = (t, .held)) : loadReg sp ea n d f s = .wait (holdAt t t.cur 0 ea) := by
  rw [Tables.cLoad] at access
  rw [loadReg, access]

end

/-- An instruction that runs as a load has each outcome of its access. -/
theorem loadOutcome {s : State} {i : Instr} {h : Hal} {len : VAddr} {d : Reg} {sp : BitVec 2} {ea : State → DWord} {n : Nat}
    {f : Nat → DWord} (r : Ready s h) (runs : exec i s = scalar i h len (fun s => loadReg sp (ea s) n d f s) s) :
    Tables.LoadOutcome s i h len d (ea s) (Tables.cLoad s sp (ea s) n) f := by
  generalize access : Tables.cLoad s sp (ea s) n = outcome
  match outcome with
  | (t, .val v none) => exact runs.trans (scalar_done r (loadReg_value access))
  | (t, .val v (some _)) => exact runs.trans (scalar_trapAfter r (loadReg_mismatch access))
  | (t, .fault c x) => exact runs.trans (scalar_trap r (loadReg_fault access))
  | (t, .held) => exact runs.trans (scalar_wait r (loadReg_held access))
  | (_, .done) => exact trivial

theorem loadResults : Parts.LoadResults := by
  intro h d a sp sz off m s r
  have extends_ (z : BitVec 2) : sextBytes (szBytes z) = Tables.sext (2 ^ z.toNat) := funext (sextBytes_eq z)
  have ci (f : Nat → DWord) (i : Instr) (runs : exec i s = _) := loadOutcome (d := d) (sp := sp) (n := 2 ^ sz.toNat) (f := f) (i := i)
    (len := 4) (ea := fun s => Tables.ciEa s a sp sz off) r runs
  have ordered (f : Nat → DWord) (i : Instr) (runs : exec i s = _) := loadOutcome (d := d) (sp := m.space) (n := 2 ^ m.size.toNat)
    (f := f) (i := i) (len := 8) (ea := fun s => Tables.ordEa s a m) r runs
  refine ⟨⟨?ld, ci _ (.ldn h d a sp sz off) rfl⟩, ?ldOrdered, ordered _ (.ldnOrdered h d a m) rfl⟩
  case ld => rw [← extends_]; exact ci _ (.ld h d a sp sz off) rfl
  case ldOrdered => rw [← extends_]; exact ordered _ (.ldOrdered h d a m) rfl

/-! ### Stores (R224 to R226) -/

section
variable {s t : State} {sp : BitVec 2} {ea : DWord} {n : Nat} {d : Reg}

theorem storeReg_done (access : Tables.cStore s sp ea n d = (t, .done)) : storeReg sp ea n d s = .done (Tables.unheld t) := by
  rw [Tables.cStore] at access
  rw [storeReg, ← reg, access]
  rfl
theorem storeReg_fault {c : BitVec 8} {x : DWord} (access : Tables.cStore s sp ea n d = (t, .fault c x)) :
    storeReg sp ea n d s = .trap c x t := by
  rw [Tables.cStore] at access
  rw [storeReg, ← reg, access]
theorem storeReg_held (access : Tables.cStore s sp ea n d = (t, .held)) : storeReg sp ea n d s = .wait (holdAt t t.cur 0 ea) := by
  rw [Tables.cStore] at access
  rw [storeReg, ← reg, access]

end

/-! ### Releases (R141, R228) -/

section
variable {m : MemOrd} {s t : State} {k : State → Res × Bool}

/-- What keeps a write from happening keeps its release from flushing. -/
theorem releasing_trap {c : BitVec 8} {x : DWord} {w : Bool} (access : k s = (.trap c x t, w)) :
    releasing m.rl m.scope k s = .trap c x t := by rw [releasing, access]
theorem releasing_wait {w : Bool} (access : k s = (.wait t, w)) : releasing m.rl m.scope k s = .wait t := by rw [releasing, access]

/-- A release whose flush is complete makes its write in the state after the flush. -/
theorem releasing_open (access : k s = (.done t, true)) (clear : Tables.relOpen m s) :
    releasing m.rl m.scope k s = (k (Tables.relState m s)).1 := by
  rw [releasing, access, Tables.relState, releaseAt]
  dsimp only
  by_cases rl : m.rl = true
  · by_cases wide : 2 ≤ m.scope.toNat
    · rw [if_pos rl, if_pos wide, if_pos ⟨rl, wide⟩, clear rl wide]
    · rw [if_pos rl, if_neg wide, if_neg fun both : _ ∧ _ => wide both.2]
  · rw [if_neg rl, if_neg fun both : _ ∧ _ => rl both.1, access]

/-- A release with an entry held waits, its flush made. -/
theorem releasing_held (access : k s = (.done t, true)) (held : ¬ Tables.relOpen m s) :
    releasing m.rl m.scope k s = .wait (Tables.relState m s) := by
  simp only [Tables.relOpen, Classical.not_imp, Bool.not_eq_true] at held
  obtain ⟨rl, wide, left⟩ := held
  rw [releasing, access, Tables.relState, releaseAt]
  dsimp only
  rw [if_pos rl, if_pos wide, if_pos ⟨rl, wide⟩, left]

end

section
variable {h : Hal} {d a : Reg} {s : State} (r : Ready s h)
include r

/-- `st` of the CI form with each outcome of its access. -/
theorem execSt_ready {sp sz : BitVec 2} {off : BitVec 6} {t : State} :
    let ea := Tables.ciEa s a sp sz off
    let access := Tables.cStore s sp ea (2 ^ sz.toNat) d
    (access = (t, .done) → execSt h d a sp sz off s = done s h 4 (Tables.unheld t)) ∧
    (∀ c x, access = (t, .fault c x) → execSt h d a sp sz off s = trapped s c x t) ∧
    (access = (t, .held) → execSt h d a sp sz off s = waits h (holdAt t t.cur 0 ea)) :=
  ⟨fun access => scalar_done r (storeReg_done access), fun _ _ access => scalar_trap r (storeReg_fault access),
    fun access => scalar_wait r (storeReg_held access)⟩

section
variable {m : MemOrd} {t u v : State}

/-- A store of major 0x27 whose access is held or faults does so before any flush. -/
theorem execStOrdered_fault {c : BitVec 8} {x : DWord}
    (access : Tables.cStore s m.space (Tables.ordEa s a m) (2 ^ m.size.toNat) d = (t, .fault c x)) :
    execStOrdered h d a m s = trapped s c x t := scalar_trap r (releasing_trap (congrArg (·, true) (storeReg_fault access)))
theorem execStOrdered_held (access : Tables.cStore s m.space (Tables.ordEa s a m) (2 ^ m.size.toNat) d = (t, .held)) :
    execStOrdered h d a m s = waits h (holdAt t t.cur 0 (Tables.ordEa s a m)) :=
  scalar_wait r (releasing_wait (congrArg (·, true) (storeReg_held access)))

variable (access : Tables.cStore s m.space (Tables.ordEa s a m) (2 ^ m.size.toNat) d = (v, .done))
include access

theorem execStOrdered_flushing (held : ¬ Tables.relOpen m s) : execStOrdered h d a m s = waits h (Tables.relState m s) :=
  scalar_wait r (releasing_held (congrArg (·, true) (storeReg_done access)) held)

/-- With the flush complete, the store makes its access in the state after it. -/
theorem execStOrdered_open (clear : Tables.relOpen m s) :
    let s' := Tables.relState m s
    let after := Tables.cStore s' m.space (Tables.ordEa s' a m) (2 ^ m.size.toNat) d
    (after = (u, .done) → execStOrdered h d a m s = done s h 8 (Tables.unheld u)) ∧
    (after = (u, .held) → execStOrdered h d a m s = waits h (holdAt u u.cur 0 (Tables.ordEa s' a m))) := by
  have runs := releasing_open (k := fun s => (storeReg m.space (ordAddr s m a) (szBytes m.size) d s, true))
    (congrArg (·, true) (storeReg_done access)) clear
  exact ⟨fun after => scalar_done r (runs.trans (storeReg_done after)), fun after => scalar_wait r (runs.trans (storeReg_held after))⟩

end

end

theorem storeResults : Parts.StoreResults := fun _ _ _ _ _ _ _ _ _ r =>
  ⟨execSt_ready r, fun _ access clear => (execStOrdered_open r access clear).1, fun access => execStOrdered_flushing r access,
    fun _ access clear => (execStOrdered_open r access clear).2, fun _ _ => execStOrdered_fault r, execStOrdered_held r⟩

/-- Settles O18. -/
theorem loadsAndStores : Obligations.LoadsAndStores := ⟨loadResults, storeResults⟩

end Sys2Proof.Machine
end

section
/-! SUPPORT. The frame of a store (R132, R224, R388, R389): what an access leaves before it writes, what it writes, and what a flush
of the combining buffers leaves. -/

namespace Sys2Proof.Machine

open Sys2Proof.Safety

/-! ### What an access leaves before it reads or writes (R380, R405, R443) -/

/-- A state but for what the way to a location may change: the translations and the watchpoint that a core keeps, the free choices,
the byte budgets. -/
def accessFrame (s : State) : State × (Nat → Core) :=
  ({ s with cores := [], free := 0, classes := [] }, fun n => { s.coreN n with tlb := [], walkc := [], watchHit := none })

theorem accessFrame_updN {s : State} {n : Nat} {f : Core → Core}
    (hf : ∀ c, ({ f c with tlb := [], walkc := [], watchHit := none } : Core) = { c with tlb := [], walkc := [], watchHit := none }) :
    accessFrame (s.updN n f) = accessFrame s := by
  refine Prod.ext rfl (funext fun m => ?_)
  simp only [accessFrame, State.coreN_updN]
  split
  · exact hf _
  · rfl

theorem accessFrame_watchCheck (s : State) (w : Who) (va n : Nat) (rd wr : Bool) :
    accessFrame (watchCheck s w va n rd wr) = accessFrame s := by
  unfold watchCheck
  split
  · exact accessFrame_updN fun _ => rfl
  · rfl

theorem accessFrame_translated (s : State) (n va : Nat) (t : TlbEntry) (p : List (Nat × Nat)) :
    accessFrame (walkAdd (tlbAdd s n t) n va p) = accessFrame s := by
  unfold walkAdd tlbAdd
  rw [accessFrame_updN, accessFrame_updN] <;> exact fun _ => rfl

theorem accessFrame_xlate (s : State) (n : Nat) (pins : List TlbEntry) (va : Nat) :
    accessFrame (xlate s n pins va).1 = accessFrame s := by
  have chosen (b : Bool) : accessFrame (if b = true then s else s.bumpFree) = accessFrame s := by cases b <;> rfl
  unfold xlate
  split
  · rfl
  · dsimp only
    split
    · exact (accessFrame_translated ..).trans (chosen _)
    · exact chosen _

theorem accessFrame_resolve {s t : State} {w : Who} {pins : List TlbEntry} {sp : BitVec 2} {ea : DWord} {n : Nat} {k : Kind} {l : Loc}
    (h : resolve s w pins sp ea n k = (t, .ok l)) : accessFrame t = accessFrame s := by
  unfold resolve at h
  split at h
  · cases h
  split at h
  · cases h
  split at h
  · cases h; rfl
  · have checked := accessFrame_watchCheck s w (ea.extractLsb' 0 56).toNat n k.reads k.writes
    have translated := accessFrame_xlate (watchCheck s w (ea.extractLsb' 0 56).toNat n k.reads k.writes) w.core pins
      (ea.extractLsb' 0 56).toNat
    dsimp only at h
    split at h
    · cases h
    · cases h
    · cases h
    · next x =>
      rw [x] at translated
      split at h
      · cases h
      · cases h
      · cases h; exact translated.trans checked

theorem accessFrame_charge {s t : State} {c pa n : Nat} {d : Dir} (h : charge s c pa n d = some t) : accessFrame t = accessFrame s := by
  unfold charge chargeDies at h
  split at h
  · cases h; rfl
  · dsimp only at h
    split at h
    · cases h; rfl
    · cases h

/-- What a store that is not held and does not fault may do: it writes at its location, or is dropped with a report, for a lost path or
for a mismatch, which has its entry in the report ring. -/
theorem storeAt_done {s u : State} {w : Who} {pins : List TlbEntry} {sp : BitVec 2} {ea : DWord} {n : Nat} {k : Kind} {f : Nat → Nat}
    (h : storeAt s w pins sp ea n k f = (u, .done)) : ∃ t0 l v, resolve s w pins sp ea n k = (t0, .ok l) ∧ accessFrame v = accessFrame s ∧
      (u = locWrite v w l n (f (locRead v l n)) ∨ u = report v w.core 0x08 ea ∨
        ∃ found expected, u = report (ringAppend v w 0x06 false ea found expected) w.core 0x06 ea) := by
  unfold storeAt at h
  split at h
  · cases h
  · next t0 l located =>
    have same := accessFrame_resolve located
    split at h
    · next pa pte =>
      split at h
      · cases h
      · next v paid =>
        have same := (accessFrame_charge paid).trans same
        refine ⟨t0, _, v, located, same, ?_⟩
        split at h
        · cases h; exact .inr (.inl rfl)
        · split at h
          · cases h; exact .inr (.inr ⟨_, _, rfl⟩)
          · cases h; exact .inl rfl
    · cases h; exact ⟨t0, l, t0, located, same, .inl rfl⟩

/-! ### Bytes at a location (R5) -/

theorem memBytes_eq_map (m : Mem) (a n : Nat) : memBytes m a n = (List.range n).map fun i => memGet m (a + i) := by
  induction n generalizing a with
  | zero => rfl
  | succ n ih =>
    rw [memBytes, ih, List.range_succ_eq_map, List.map_cons, List.map_map, Nat.add_zero]
    congr 2
    funext i
    exact congrArg (memGet m) (by rw [Nat.succ_eq_add_one]; omega)

theorem locRead_eq_valueAt (s : State) (l : Loc) (n : Nat) : locRead s l n = valueAt s l n := by
  cases l <;> simp only [locRead, memRd, memBytes_eq_map] <;> rfl

/-- A write to physical memory: besides the bytes it changes poison records and what fetch does not see yet (R209, R392). -/
theorem locWrite_phys (s : State) (w : Who) (pa : Nat) (e : DWord) (n v : Nat) : ∃ poison stale, locWrite s w (.phys pa e) n v =
    ({ s with mem := memWr s.mem pa n v, poison := poison } : State).updN w.core fun c => c.updCtl fun k => { k with stale := stale } := by
  have cleared : ∃ poison, (if n = 32 then clearPoison { s with mem := memWr s.mem pa n v } pa else { s with mem := memWr s.mem pa n v }) =
      ({ s with mem := memWr s.mem pa n v, poison := poison } : State) := by
    split
    · unfold clearPoison
      split
      · exact ⟨_, rfl⟩
      · exact ⟨_, rfl⟩
    · exact ⟨_, rfl⟩
  obtain ⟨poison, cleared⟩ := cleared
  refine ⟨poison, if w.src = 0 then keepStale (s.coreN w.core).ctl.stale s.mem pa n else (s.coreN w.core).ctl.stale, ?_⟩
  rw [locWrite, cleared]
  split <;> rfl

theorem mem_locWrite (s : State) (w : Who) (pa : Nat) (e : DWord) (n v : Nat) :
    (locWrite s w (.phys pa e) n v).mem = memWr s.mem pa n v := by
  obtain ⟨_, _, h⟩ := locWrite_phys s w pa e n v
  rw [h]; rfl

/-- What a write leaves at its own location is its value, at its width. -/
theorem valueAt_locWrite (s : State) (w : Who) (l : Loc) (n v : Nat) : valueAt (locWrite s w l n v) l n = v % 256 ^ n := by
  rw [← locRead_eq_valueAt]
  cases l with
  | phys pa e => rw [locRead, mem_locWrite, memRd_memWr]
  | spad k a => rw [locRead, locWrite, State.clu_setClu, if_pos rfl, memRd_memWr]
  | tcm c a => rw [locRead, tcm_locWrite, memRd_memWr]

/-- An address that is none of `n` from another lies outside. -/
theorem outside_of_ne {a b n : Nat} (apart : ∀ i, i < n → a ≠ b + i) : a < b ∨ b + n ≤ a := by
  by_contra inside
  exact apart (a - b) (by omega) (by omega)

/-- A write changes the bytes at its location alone. -/
theorem otherBytes_locWrite (s : State) (w : Who) (l : Loc) (n v : Nat) : OtherBytes s (locWrite s w l n v) l n := by
  intro x apart
  cases l with
  | phys pa e =>
    obtain ⟨poison, stale, h⟩ := locWrite_phys s w pa e n v
    rw [h]
    cases x with
    | phys a _ => exact memGet_memWr_of_outside _ _ _ _ _ (outside_of_ne apart)
    | spad j a => rfl
    | tcm j a => simp only [byteAt, State.coreN_updN]; split <;> rfl
  | spad k b =>
    cases x with
    | phys a _ => rfl
    | spad j a =>
      rw [byteAt, byteAt, locWrite, State.clu_setClu]
      split
      · next same => subst same; exact memGet_memWr_of_outside _ _ _ _ _ (outside_of_ne fun i hi here => apart i hi ⟨rfl, here⟩)
      · rfl
    | tcm j a => rfl
  | tcm k b =>
    cases x with
    | phys a _ => rfl
    | spad j a => rfl
    | tcm j a =>
      rw [byteAt, byteAt, locWrite, State.coreN_updN]
      split
      · next same => subst same; exact memGet_memWr_of_outside _ _ _ _ _ (outside_of_ne fun i hi here => apart i hi ⟨rfl, here⟩)
      · rfl

/-- Words written one after another from an address on change no byte outside them. -/
theorem memGet_words_of_outside {a n b : Nat} {l : List (Nat × Nat)} (inside : ∀ p ∈ l, p.2 < n) (outside : b < a ∨ a + 8 * n ≤ b)
    (m : Mem) : memGet (l.foldl (fun m p => memWr m (a + 8 * p.2) 8 p.1) m) b = memGet m b := by
  refine List.foldlRecOn (motive := fun t => memGet t b = memGet m b) l _ rfl fun t same p hp => ?_
  have := inside p hp
  rw [memGet_memWr_of_outside, same]
  omega

/-- An entry of the report ring lies in the ring of its core (R389). -/
theorem otherBytes_ringAppend (s : State) (w : Who) (c : BitVec 8) (rd : Bool) (a : DWord) (f e : BitVec 4) :
    OtherBytes s (ringAppend s w c rd a f e) (Tables.ringOf s w.core) 4096 := by
  intro x apart
  unfold ringAppend
  cases x with
  | phys b _ =>
    have outside := outside_of_ne apart
    rw [byteAt, byteAt, State.updN_mem]
    rw [memGet_words_of_outside (n := 8) _ (by omega)]
    exact fun p hp => List.mem_range.1 (List.of_mem_zip hp).2
  | spad j b => rfl
  | tcm j b => simp only [byteAt, State.coreN_updN]; split <;> rfl

/-! ### Registers and flags -/

/-- The registers and the flags of every core, and which core acts. -/
def registers (s : State) : Nat × (Nat → (Reg → DWord) × Flags) :=
  (s.cur, fun n => (regGet (s.coreN n), (s.coreN n).ctl.fflags))

theorem registers_congr {s t : State} (cores : t.cores = s.cores) (cur : t.cur = s.cur) : registers t = registers s := by
  refine Prod.ext cur (funext fun n => ?_)
  show (regGet (t.coreN n), (t.coreN n).ctl.fflags) = _
  rw [coreN_congr cores]; rfl

theorem registers_updN {s : State} {n : Nat} {f : Core → Core} (hr : ∀ c, regGet (f c) = regGet c)
    (hf : ∀ c, (f c).ctl.fflags = c.ctl.fflags) : registers (s.updN n f) = registers s := by
  refine congrArg (Prod.mk s.cur) (funext fun m => ?_)
  rw [State.coreN_updN]
  split
  · rw [hr, hf]
  · rfl

section
variable {s t : State} (same : registers t = registers s)
include same

theorem cur_of_registers : t.cur = s.cur := congrArg Prod.fst same
theorem regGet_of_registers (n : Nat) : regGet (t.coreN n) = regGet (s.coreN n) := congrArg (fun p => (p.2 n).1) same
theorem fflags_of_registers (n : Nat) : (t.coreN n).ctl.fflags = (s.coreN n).ctl.fflags := congrArg (fun p => (p.2 n).2) same
theorem reg_of_registers (x : Reg) : reg t x = reg s x := by
  rw [reg, State.core, regGet_of_registers same, cur_of_registers same]; rfl

end

theorem registers_of_accessFrame {s t : State} (h : accessFrame t = accessFrame s) : registers t = registers s := by
  have cur : t.cur = s.cur := congrArg (fun p : State × (Nat → Core) => p.1.cur) h
  refine Prod.ext cur (funext fun n => ?_)
  have core : ({ t.coreN n with tlb := [], walkc := [], watchHit := none } : Core) =
    { s.coreN n with tlb := [], walkc := [], watchHit := none } := congrArg (fun p => p.2 n) h
  exact (congrArg (fun c : Core => (regGet c, c.ctl.fflags)) core :
    (regGet { t.coreN n with tlb := [], walkc := [], watchHit := none }, _) =
      (regGet { s.coreN n with tlb := [], walkc := [], watchHit := none }, _))

theorem registers_of_logFrame {s t : State} (h : logFrame t = logFrame s) : registers t = registers s :=
  registers_congr (cores_of_logFrame h) (congrArg State.cur h : (logFrame t).cur = (logFrame s).cur)

theorem registers_report (s : State) (n : Nat) (c : BitVec 8) (v : DWord) : registers (report s n c v) = registers s :=
  registers_updN (fun _ => rfl) fun _ => rfl

theorem registers_ringAppend (s : State) (w : Who) (c : BitVec 8) (rd : Bool) (a : DWord) (f e : BitVec 4) :
    registers (ringAppend s w c rd a f e) = registers s :=
  (registers_updN (fun _ => by rfl) fun _ => by rfl).trans (registers_congr (by rfl) (by rfl))

theorem registers_locWrite (s : State) (w : Who) (l : Loc) (n v : Nat) : registers (locWrite s w l n v) = registers s := by
  cases l with
  | phys pa e =>
    obtain ⟨poison, stale, h⟩ := locWrite_phys s w pa e n v
    rw [h]
    exact (registers_updN (fun _ => by rfl) fun _ => by rfl).trans (registers_congr (by rfl) (by rfl))
  | spad k a => rfl
  | tcm c a => exact registers_updN (fun _ => rfl) fun _ => rfl

theorem registers_holdAt (s : State) (n src : Nat) (ea : DWord) : registers (holdAt s n src ea) = registers s :=
  registers_updN (fun _ => rfl) fun _ => rfl
theorem registers_unhold (s : State) (n src : Nat) : registers (unhold s n src) = registers s :=
  registers_updN (fun _ => rfl) fun _ => rfl

theorem registers_completed (s : State) (h : Hal) (p : VAddr) : registers (finish s h p) = registers s := by
  refine registers_updN (fun c => ?_) fun c => ?_
  · rw [← regGet_settled, settled_signal, settled_tookDone, settled_takeOnce, settled_setPc, regGet_settled]
  · rw [← fflags_settled, settled_signal, settled_tookDone, settled_takeOnce, settled_setPc, fflags_settled]

/-! ### What a flush of the combining buffers leaves (R165, R166, R173, R409) -/

theorem registers_updLaunch (s : State) (k : Nat) (f : Launch → Launch) : registers (s.updLaunch k f) = registers s := by
  unfold State.updLaunch; split <;> rfl

theorem registers_latchCores (why : StopWhy) (l : List Nat) (s : State) :
    registers (l.foldl (fun s n => s.updN n (latchCore why)) s) = registers s :=
  foldl_keeps (f := fun s n => s.updN n (latchCore why)) registers (fun _ _ => registers_updN (fun _ => rfl) fun _ => rfl) l s

theorem registers_latchAll (s : State) (g : Nat) (why : StopWhy) : registers (latchAll s g why) = registers s :=
  registers_latchCores ..

theorem registers_slotReason (s : State) (t : Gang) (code : Nat) : registers (slotReason s t code) = registers s :=
  foldl_keeps registers (fun s n => by split <;> rfl) t.cores s

theorem registers_latchNow (s : State) (g : Nat) (why : StopWhy) : registers (latchNow s g why) = registers s := by
  unfold latchNow
  dsimp only
  split
  · rfl
  split
  · rfl
  split
  · exact registers_latchAll ..
  split
  · split
    · exact registers_latchAll ..
    · rfl
  split
  · split
    · exact registers_latchCores ..
    · exact registers_latchAll ..
  split
  · exact registers_slotReason ..
  · rfl

theorem registers_latchGang (s : State) (g : Nat) (why : StopWhy) : registers (latchGang s g why) = registers s := by
  unfold latchGang
  dsimp only
  split
  · rfl
  split
  · rfl
  · exact registers_latchNow ..

theorem logFrame_completion (s : State) (l : Launch) (status count : Nat) : logFrame (completion s l status count) = logFrame s := by
  unfold completion
  dsimp only
  split
  · exact logFrame_logFail ..
  · cases h : cpWrite s l.home l.asid ((descWord l 7).extractLsb' 0 56).toNat 8 (count * 2 ^ 32 + status) with
    | none => exact logFrame_logFail ..
    | some t => exact logFrame_cpWrite h

theorem registers_endLaunch (s : State) (k : Nat) : registers (endLaunch s k) = registers s := by
  unfold endLaunch
  split
  · rfl
  · split
    · rfl
    · exact (registers_of_logFrame (logFrame_completion ..)).trans (registers_congr (by rfl) (by rfl))

/-- The end of a task that holds no core. -/
theorem registers_endTask_saved {s : State} {g : Nat} (saved : (s.gangN g).life = .saved) (how : Nat) :
    registers (endTask s g how) = registers s := by
  unfold endTask
  dsimp only
  rw [if_pos saved, registers_endLaunch, registers_updLaunch]
  rfl

theorem registers_cancelGang (s : State) (g : Nat) : registers (cancelGang s g) = registers s := by
  unfold cancelGang
  dsimp only
  split
  · next saved => exact registers_endTask_saved saved 6
  · exact registers_latchGang ..

theorem registers_cancelLaunch (s : State) (k : Nat) : registers (cancelLaunch s k) = registers s := by
  unfold cancelLaunch
  split
  · rfl
  · split
    · rfl
    · dsimp only
      rw [registers_endLaunch, foldl_keeps registers registers_cancelGang, registers_updLaunch]

theorem registers_cancelToken (s : State) (asid : BitVec 10) (tok : BitVec 32) : registers (cancelToken s asid tok) = registers s := by
  unfold cancelToken
  split
  · rfl
  · exact foldl_keeps registers registers_cancelLaunch _ s

theorem registers_applyEntry (s : State) (e : Comb) : registers (applyEntry s e) = registers s := by
  unfold applyEntry
  split
  · exact registers_report ..
  · dsimp only
    split
    · split
      · exact registers_cancelToken ..
      · rfl
    · rfl

theorem registers_applyCore (s : State) (n : Nat) : registers (applyCore s n) = registers s :=
  foldl_keeps registers registers_applyEntry _ _

theorem registers_sendEntry {s t : State} {n : Nat} {e : Comb} (h : sendEntry s n e = some t) : registers t = registers s := by
  unfold sendEntry at h
  split at h
  · cases h; exact registers_report ..
  · obtain ⟨u, paid, rfl⟩ := Option.map_eq_some_iff.1 h
    have same := registers_of_accessFrame (accessFrame_charge paid)
    exact (registers_congr (by rfl) (by rfl)).trans same

theorem registers_sendFrom (s : State) (n k : Nat) (p : Comb → Bool) : registers (sendFrom s n k p) = registers s := by
  unfold sendFrom
  refine foldl_keeps registers (fun s e => ?_) _ s
  split
  · rfl
  · split
    · next t sent =>
      exact (registers_updN (fun _ => by rfl) fun _ => by rfl).trans ((registers_unhold ..).trans (registers_sendEntry sent))
    · exact registers_holdAt ..

theorem registers_flushAll (s : State) (n : Nat) : registers (flushAll s n) = registers s :=
  (registers_applyCore ..).trans (foldl_keeps registers (fun s k => registers_sendFrom s n k _) _ s)

theorem registers_relState (m : MemOrd) (s : State) : registers (Tables.relState m s) = registers s := by
  unfold Tables.relState
  split
  · exact registers_flushAll ..
  · rfl

end Sys2Proof.Machine
end

section
/-! SUPPORT. The stores of both encodings leave every byte but their own (R132, R224, R388, R389). -/

namespace Sys2Proof.Machine

open Sys2Proof.Safety

/-! ### What completion leaves: bytes and reports on their way -/

theorem settled_coreN_finish (s : State) (h : Hal) (p : VAddr) (m : Nat) : ((finish s h p).coreN m).settled = (s.coreN m).settled := by
  rw [finish, State.upd, State.coreN_updN]
  split
  · rw [settled_signal, settled_tookDone, settled_takeOnce, settled_setPc]
  · rfl

/-- The reports on their way to each core (R388). -/
def inflightOf (s : State) (n : Nat) : List Report := (s.coreN n).inflight

theorem allBytes_completed (s : State) (h : Hal) (p : VAddr) : AllBytes s (finish (Tables.unheld s) h p) := by
  intro x
  cases x with
  | phys a _ => rfl
  | spad k a => rfl
  | tcm n a =>
    have finished := congrArg Core.tcm (settled_coreN_finish (Tables.unheld s) h p n)
    exact congrArg (memGet · a) (Eq.trans finished (tcm_unhold ..))

theorem inflight_completed (s : State) (h : Hal) (p : VAddr) : inflightOf (finish (Tables.unheld s) h p) = inflightOf s := by
  funext n
  have finished := congrArg Core.inflight (settled_coreN_finish (Tables.unheld s) h p n)
  refine Eq.trans finished ?_
  show ((unhold s s.cur 0).coreN n).inflight = _
  rw [unhold, State.coreN_updN]
  split <;> rfl

/-! ### What an access leaves before it writes -/

section
variable {s t : State} (same : accessFrame t = accessFrame s)
include same

theorem allBytes_of_accessFrame : AllBytes s t := by
  intro x
  cases x with
  | phys a _ => exact congrArg (fun p => memGet p.1.mem a) same
  | spad k a => exact congrArg (fun p => memGet (p.1.clu k).spad a) same
  | tcm n a => exact congrArg (fun p => memGet (p.2 n).tcm a) same

theorem inflight_of_accessFrame : inflightOf t = inflightOf s := funext fun n => congrArg (fun p => (p.2 n).inflight) same

theorem ringOf_of_accessFrame (n : Nat) : Tables.ringOf t n = Tables.ringOf s n :=
  congrArg (fun p : State × (Nat → Core) => Loc.phys (smGet 0 p.1.ringBase (clusterOf n) + 4096 * (n % 24)) 0) same

end

/-! ### What each end of a store leaves of the reports -/

theorem inflight_locWrite (s : State) (w : Who) (l : Loc) (n v : Nat) : inflightOf (locWrite s w l n v) = inflightOf s := by
  funext m
  cases l with
  | phys pa e =>
    obtain ⟨poison, stale, h⟩ := locWrite_phys s w pa e n v
    rw [inflightOf, h, State.coreN_updN]
    split <;> rfl
  | spad k a => rfl
  | tcm c a => rw [inflightOf, locWrite, State.coreN_updN]; split <;> rfl

theorem inflight_ringAppend (s : State) (w : Who) (c : BitVec 8) (rd : Bool) (a : DWord) (f e : BitVec 4) :
    inflightOf (ringAppend s w c rd a f e) = inflightOf s := by
  funext m
  rw [inflightOf, ringAppend, State.coreN_updN]
  split <;> rfl

theorem inflight_report (s : State) (n : Nat) (c : BitVec 8) (v : DWord) :
    inflightOf (report s n c v) n = inflightOf s n ++ [⟨c, v⟩] := by
  rw [inflightOf, report, State.coreN_updN, if_pos rfl]; rfl

theorem allBytes_report (s : State) (n : Nat) (c : BitVec 8) (v : DWord) : AllBytes s (report s n c v) := by
  intro x
  cases x with
  | phys a _ => rfl
  | spad k a => rfl
  | tcm m a => simp only [byteAt, report, State.coreN_updN]; split <;> rfl

/-! ### Frames in a row -/

theorem allBytes_trans {s t u : State} (st : AllBytes s t) (tu : AllBytes t u) : AllBytes s u := fun x => (tu x).trans (st x)

theorem otherBytes_between {r v u t : State} {l : Loc} {n : Nat} (h : OtherBytes v u l n) (before : AllBytes r v) (after : AllBytes u t) :
    OtherBytes r t l n := fun x apart => (after x).trans ((h x apart).trans (before x))

theorem valueAt_of_allBytes {s t : State} (h : AllBytes s t) (l : Loc) (n : Nat) : valueAt t l n = valueAt s l n := by
  simp only [valueAt, h _]

/-! ### The stores -/

/-- What a store of the control core leaves once it is done, from the state `r` in which it makes its access: `s` is the state in which
its instruction began, with the same registers. -/
theorem storeLeaves {s r u : State} {sp : BitVec 2} {ea : DWord} {n : Nat} {d : Reg} (began : registers r = registers s)
    (access : Tables.cStore r sp ea n d = (u, .done)) (h : Hal) (p : VAddr) :
    Tables.StoreLeaves s r u (finish (Tables.unheld u) h p) sp ea n (reg s d).toNat := by
  have bytes := allBytes_completed u h p
  have flying := inflight_completed u h p
  obtain ⟨t0, l, v, located, before, ends⟩ := storeAt_done access
  have registersU : registers u = registers r := by
    rcases ends with rfl | rfl | ⟨found, expected, rfl⟩
    · rw [registers_locWrite, registers_of_accessFrame before]
    · rw [registers_report, registers_of_accessFrame before]
    · rw [registers_report, registers_ringAppend, registers_of_accessFrame before]
  have registersT : registers (finish (Tables.unheld u) h p) = registers s := by
    rw [registers_completed, Tables.unheld, registers_unhold, registersU, began]
  have curU : u.cur = r.cur := cur_of_registers registersU
  have curT : (finish (Tables.unheld u) h p).cur = r.cur := curU
  have flyingU : u.core.inflight = inflightOf u r.cur := by rw [← curU]; rfl
  have flyingT : (finish (Tables.unheld u) h p).core.inflight = inflightOf u r.cur := by rw [← flying, ← curT]; rfl
  have flyingV : inflightOf v r.cur = r.core.inflight := congrFun (inflight_of_accessFrame before) r.cur
  refine ⟨fun t1 l' located' kept => ?landed, fun dropped => ?dropped, reg_of_registers registersT, ?flags,
    fun k _ => congrFun (regGet_of_registers registersT k)⟩
  case flags => rw [State.core, State.core, fflags_of_registers registersT, cur_of_registers registersT]
  case landed =>
    obtain ⟨rfl, rfl⟩ : t0 = t1 ∧ l = l' := by simpa using located.symm.trans located'
    rcases ends with rfl | rfl | ⟨found, expected, rfl⟩
    · refine ⟨otherBytes_between (otherBytes_locWrite v _ l n _) (allBytes_of_accessFrame before) bytes, ?_⟩
      rw [valueAt_of_allBytes bytes, valueAt_locWrite, reg_of_registers began]
    · rw [flyingU, cWho, inflight_report, flyingV] at kept
      simp at kept
    · rw [flyingU, cWho, inflight_report, inflight_ringAppend, flyingV] at kept
      simp at kept
  case dropped =>
    rw [flyingT]
    rcases ends with rfl | rfl | ⟨found, expected, rfl⟩
    · rw [flyingU, inflight_locWrite, flyingV] at dropped
      exact absurd rfl dropped
    · refine ⟨0x08, by rw [cWho, inflight_report, flyingV], .inr ⟨rfl, ?_⟩⟩
      exact allBytes_trans (allBytes_trans (allBytes_of_accessFrame before) (allBytes_report _ _ _ _)) bytes
    · refine ⟨0x06, by rw [cWho, inflight_report, inflight_ringAppend, flyingV], .inl ⟨rfl, ?_⟩⟩
      rw [← ringOf_of_accessFrame before]
      exact otherBytes_between (otherBytes_ringAppend v (cWho r) _ _ _ _ _) (allBytes_of_accessFrame before)
        (allBytes_trans (allBytes_report _ _ _ _) bytes)

/-- Settles O19: a store that is done has landed or been dropped, in the state `s` or, as a release, after its flush. -/
theorem storeFrame : Obligations.StoreFrame := by
  intro h d a sp sz off m s t u ready
  refine ⟨fun runs access => ?_, fun v runs first clear access => ?_⟩
  · obtain rfl := Host.Outcome.next.inj (((execSt_ready ready).1 access).symm.trans runs)
    exact storeLeaves rfl access h _
  · obtain rfl := Host.Outcome.next.inj (((execStOrdered_open ready first clear).1 access).symm.trans runs)
    exact storeLeaves (registers_relState m s) access h _

end Sys2Proof.Machine
end

section
/-! SUPPORT. Rounding of an exact magnitude to a grid (R75): what one rounding to an integer does, and what it makes of a grid of
values that rises. -/

namespace Sys2Proof.Machine

/-! ### Directions of a magnitude -/

/-- How a magnitude is rounded: to the nearest, ties to even; toward zero; away from zero. -/
inductive MagDir where
  | near | down | up

/-- The direction that a mode means for the magnitude of a signed value (R75). -/
def magDir (mode : Nat) (neg : Bool) : MagDir :=
  match mode with
  | 0 => .near
  | 1 => .down
  | 2 => if neg then .up else .down
  | _ => if neg then .down else .up

/-- Whether a magnitude that lies `r` of `D` above the value numbered `k` goes to the next one. -/
def MagDir.goesUp : MagDir → Nat → Nat → Nat → Prop
  | .near, k, r, D => D < 2 * r ∨ (2 * r = D ∧ k % 2 = 1)
  | .down, _, _, _ => False
  | .up, _, r, _ => r ≠ 0

/-- The number `c` is that of the value a magnitude is rounded to which lies `r` of `D` above the value numbered `k`. -/
def Steps (d : MagDir) (k r D c : Nat) : Prop := (d.goesUp k r D ∧ c = k + 1) ∨ (¬ d.goesUp k r D ∧ c = k)

/-- One rounding to an integer is one step from the quotient. -/
theorem steps_rndInt {mode : Nat} (hmode : mode < 4) (neg : Bool) (draw : Nat) {num den : Nat} (hden : 0 < den) :
    Steps (magDir mode neg) (num / den) (num % den) den (rndInt mode neg draw num den) := by
  unfold rndInt
  dsimp only
  by_cases exact_ : num % den = 0
  · rw [if_pos exact_, exact_]
    refine .inr ⟨?_, rfl⟩
    cases magDir mode neg <;> simp [MagDir.goesUp]
    omega
  · rw [if_neg exact_]
    match mode, hmode with
    | 0, _ =>
      show Steps .near _ _ _ (if den < 2 * (num % den) ∨ (2 * (num % den) = den ∧ num / den % 2 = 1) then num / den + 1 else num / den)
      split
      · next up => exact .inl ⟨up, rfl⟩
      · next not => exact .inr ⟨not, rfl⟩
    | 1, _ => exact .inr ⟨id, rfl⟩
    | 2, _ => cases neg <;> [exact .inr ⟨id, rfl⟩; exact .inl ⟨exact_, rfl⟩]
    | 3, _ => cases neg <;> [exact .inl ⟨exact_, rfl⟩; exact .inr ⟨id, rfl⟩]

theorem Steps.bounds {d : MagDir} {k r D c : Nat} (h : Steps d k r D c) : k ≤ c ∧ c ≤ k + 1 := by
  rcases h with ⟨-, rfl⟩ | ⟨-, rfl⟩ <;> omega

/-- Numbers may be counted from any even one. -/
theorem Steps.add {d : MagDir} {k r D c b : Nat} (even : b % 2 = 0) (h : Steps d k r D c) : Steps d (b + k) r D (b + c) := by
  have same : d.goesUp (b + k) r D ↔ d.goesUp k r D := by
    cases d
    case near => simp only [MagDir.goesUp]; omega
    case down | up => exact Iff.rfl
  rcases h with ⟨up, rfl⟩ | ⟨not, rfl⟩
  · exact .inl ⟨same.2 up, rfl⟩
  · exact .inr ⟨mt same.1 not, rfl⟩

/-! ### Equal ratios -/

section
variable {num den M D : Nat} (ratio : num * D = M * den)
include ratio

theorem mod_of_ratio : num % den * D = M % D * den := by
  rw [← Nat.mul_mod_mul_right, ratio, Nat.mul_comm den D, Nat.mul_mod_mul_right]

variable (hden : 0 < den) (hD : 0 < D)
include hden hD

theorem div_of_ratio : num / den = M / D := by
  rw [← Nat.mul_div_mul_right num den hD, ratio, Nat.mul_comm den D, Nat.mul_div_mul_right _ _ hden]

theorem mod_zero_of_ratio : num % den = 0 ↔ M % D = 0 := by
  have scaled := mod_of_ratio ratio
  constructor
  · intro zero
    rw [zero, Nat.zero_mul] at scaled
    exact (Nat.mul_eq_zero.1 scaled.symm).resolve_right hden.ne'
  · intro zero
    rw [zero, Nat.zero_mul] at scaled
    exact (Nat.mul_eq_zero.1 scaled).resolve_right hD.ne'

theorem goesUp_of_ratio (d : MagDir) (k : Nat) : d.goesUp k (num % den) den ↔ d.goesUp k (M % D) D := by
  have scaled := mod_of_ratio ratio
  cases d
  case near =>
    have less : den < 2 * (num % den) ↔ D < 2 * (M % D) := by
      rw [← Nat.mul_lt_mul_right hD, Nat.mul_assoc, scaled, ← Nat.mul_assoc, Nat.mul_comm den D, Nat.mul_lt_mul_right hden]
    have same : 2 * (num % den) = den ↔ 2 * (M % D) = D := by
      rw [← Nat.mul_left_inj hD.ne', Nat.mul_assoc, scaled, ← Nat.mul_assoc, Nat.mul_comm den D, Nat.mul_left_inj hden.ne']
    simp only [MagDir.goesUp, less, same]
  case down => exact Iff.rfl
  case up => exact (mod_zero_of_ratio ratio hden hD).not

/-- A rounding depends on the ratio alone. -/
theorem steps_of_ratio {d : MagDir} {c : Nat} (h : Steps d (num / den) (num % den) den c) : Steps d (M / D) (M % D) D c := by
  unfold Steps at *
  rwa [div_of_ratio ratio hden hD, goesUp_of_ratio ratio hden hD] at h

end

/-! ### Rounding to a grid -/

/-- The number `c` is that of the value of the grid `V` to which the magnitude `M` is rounded. -/
def Rounds (d : MagDir) (V : Nat → Nat) (M c : Nat) : Prop :=
  match d with
  | .near => (∀ b, b < c → V b + V c ≤ 2 * M ∧ (V b + V c = 2 * M → c % 2 = 0)) ∧
      ∀ b, c < b → 2 * M ≤ V b + V c ∧ (V b + V c = 2 * M → c % 2 = 0)
  | .down => V c ≤ M ∧ M < V (c + 1)
  | .up => M ≤ V c ∧ ∀ b, b < c → V b < M

section
variable {d : MagDir} {V : Nat → Nat} (rising : StrictMono V) {M k r D c : Nat}
include rising

/-- One step from the value below rounds to the grid. -/
theorem rounds_of_steps (below : M = V k + r) (inside : r < D) (next : V (k + 1) = V k + D) (step : Steps d k r D c) :
    Rounds d V M c := by
  have le (a b : Nat) (h : a ≤ b) : V a ≤ V b := rising.monotone h
  cases d
  case near =>
    simp only [Steps, MagDir.goesUp] at step
    refine ⟨fun b hb => ?_, fun b hb => ?_⟩
    · rcases step with ⟨up, rfl⟩ | ⟨not, rfl⟩
      · have := le b _ (Nat.le_of_lt_succ hb); omega
      · have := rising hb; omega
    · rcases step with ⟨up, rfl⟩ | ⟨not, rfl⟩
      · have := rising hb; omega
      · have := le (_ + 1) b hb; omega
  case down =>
    obtain ⟨no, -⟩ | ⟨-, rfl⟩ := step
    · exact no.elim
    · exact ⟨by omega, by omega⟩
  case up =>
    rcases step with ⟨up, rfl⟩ | ⟨not, rfl⟩
    · refine ⟨by omega, fun b hb => ?_⟩
      have := le b _ (Nat.le_of_lt_succ hb)
      have : r ≠ 0 := up
      omega
    · have : r = 0 := not_not.1 not
      refine ⟨by omega, fun b hb => ?_⟩
      have := rising hb
      omega

end

/-- A rounding is exact where nothing lies between. -/
theorem steps_exact {d : MagDir} {V : Nat → Nat} {M k r D c : Nat} (below : M = V k + r) (inside : r < D) (next : V (k + 1) = V k + D) (step : Steps d k r D c) : V c = M ↔ r = 0 := by
  rcases step with ⟨up, rfl⟩ | ⟨-, rfl⟩
  · refine ⟨fun same => by omega, fun zero => ?_⟩
    subst zero
    cases d
    case near => simp only [MagDir.goesUp] at up; omega
    case down => exact up.elim
    case up => exact (up rfl).elim
  · omega

/-- What makes a magnitude be rounded above the value numbered `top`. -/
def Exceeds (d : MagDir) (V : Nat → Nat) (top M : Nat) : Prop :=
  match d with
  | .near => if top % 2 = 1 then V top + V (top + 1) ≤ 2 * M else V top + V (top + 1) < 2 * M
  | .down => V (top + 1) ≤ M
  | .up => V top < M

theorem exceeds_iff {d : MagDir} {V : Nat → Nat} (rising : StrictMono V) {M c : Nat} (h : Rounds d V M c) (top : Nat) :
    Exceeds d V top M ↔ top < c := by
  have le (a b : Nat) (h : a ≤ b) : V a ≤ V b := rising.monotone h
  cases d
  case near =>
    obtain ⟨lower, upper⟩ := h
    simp only [Exceeds]
    constructor
    · intro past
      by_contra within
      obtain ⟨half, tie⟩ := upper (top + 1) (by omega)
      have := le c top (by omega)
      have top_of_same : V c = V top → c = top := fun same => rising.injective same
      split at past <;> omega
    · intro above
      obtain ⟨half, tie⟩ := lower top above
      have := le (top + 1) c above
      have next_of_same : V c = V (top + 1) → c = top + 1 := fun same => rising.injective same
      split <;> omega
  case down =>
    obtain ⟨lower, upper⟩ := h
    constructor
    · intro (past : V (top + 1) ≤ M)
      exact Nat.lt_of_succ_lt_succ (rising.lt_iff_lt.1 (by omega : V (top + 1) < V (c + 1)))
    · exact fun above => (le (top + 1) c above).trans lower
  case up =>
    obtain ⟨upper, lower⟩ := h
    exact ⟨fun past => rising.lt_iff_lt.1 (lt_of_lt_of_le past upper), lower top⟩

end Sys2Proof.Machine
end

section
/-! SUPPORT. The finite codes of a float format as a grid of values (R67, R68), and the rounding of an exact magnitude to it (R75 to
R77, R79). -/

namespace Sys2Proof.Machine

/-! ### The finite codes as a grid -/

/-- What the formats of R67 have in common: the largest finite code is a normal one, not the first of its binade, below the special
codes; the smallest value is at least 2^-149. -/
structure FFmt.Ok (f : FFmt) : Prop where
  mb_pos : 1 ≤ f.mb
  bias_pos : 1 ≤ f.bias
  room : f.bias + f.mb ≤ 150
  top_normal : 2 ^ f.mb ≤ f.maxCode
  top_inner : f.maxCode % 2 ^ f.mb ≠ 0
  top_below : f.maxCode < 2 ^ (f.eb + f.mb)
  top_special0 : f.style = 0 → f.maxCode < (2 ^ f.eb - 1) * 2 ^ f.mb
  top_special1 : f.style = 1 → f.maxCode < 2 ^ (f.eb + f.mb) - 1

/-- How often the step between values has doubled below a code. -/
def FFmt.binade (f : FFmt) (c : Nat) : Nat := c / 2 ^ f.mb - 1
/-- The significand of a code. -/
def FFmt.sig (f : FFmt) (c : Nat) : Nat := c - f.binade c * 2 ^ f.mb
/-- The step between the subnormal values, in units of 2^-149. -/
def FFmt.low (f : FFmt) : Nat := 150 - f.bias - f.mb
/-- The value of a magnitude code in units of 2^-(149 + L), the exponent field unbounded. -/
def FFmt.grid (f : FFmt) (L c : Nat) : Nat := f.sig c * 2 ^ (f.low + L + f.binade c)

section
variable {f : FFmt}

theorem code_eq (f : FFmt) (c : Nat) : c = f.binade c * 2 ^ f.mb + f.sig c := by
  have : f.binade c * 2 ^ f.mb ≤ c := (Nat.mul_le_mul_right _ (Nat.sub_le ..)).trans (Nat.div_mul_le_self ..)
  rw [FFmt.sig]; omega

theorem sig_lt (f : FFmt) (c : Nat) : f.sig c < 2 * 2 ^ f.mb := by
  have split := Nat.div_add_mod c (2 ^ f.mb)
  have small := Nat.mod_lt c (Nat.two_pow_pos f.mb)
  rw [FFmt.sig, FFmt.binade, Nat.sub_mul, Nat.one_mul, Nat.mul_comm]
  omega

theorem sig_normal (f : FFmt) (c : Nat) : f.binade c = 0 ∨ 2 ^ f.mb ≤ f.sig c := by
  have split := Nat.div_add_mod c (2 ^ f.mb)
  by_cases first : c / 2 ^ f.mb = 0
  · exact .inl (by rw [FFmt.binade, first])
  · refine .inr ?_
    have := Nat.mul_le_mul_left (2 ^ f.mb) (Nat.one_le_iff_ne_zero.2 first)
    rw [FFmt.sig, FFmt.binade, Nat.sub_mul, Nat.one_mul, Nat.mul_comm]
    omega

/-- A significand of its binade, or the first one above, counts steps of the binade. -/
theorem grid_at (f : FFmt) (L : Nat) {q k : Nat} (hk : k ≤ 2 * 2 ^ f.mb) (normal : q = 0 ∨ 2 ^ f.mb ≤ k) :
    f.grid L (q * 2 ^ f.mb + k) = k * 2 ^ (f.low + L + q) := by
  have pos := Nat.two_pow_pos f.mb
  rcases Nat.lt_or_eq_of_le hk with inside | rfl
  · have binade : f.binade (q * 2 ^ f.mb + k) = q := by
      rw [FFmt.binade, Nat.add_comm, Nat.add_mul_div_right _ _ pos]
      have upper : k / 2 ^ f.mb < 2 := Nat.div_lt_of_lt_mul (by rwa [Nat.mul_comm])
      rcases normal with rfl | lower
      · omega
      · have := Nat.div_pos lower pos; omega
    rw [FFmt.grid, FFmt.sig, binade, Nat.add_sub_cancel_left]
  · have whole : q * 2 ^ f.mb + 2 * 2 ^ f.mb = (q + 1) * 2 ^ f.mb + 2 ^ f.mb := by
      rw [Nat.add_mul, Nat.one_mul, Nat.two_mul, Nat.add_assoc]
    have binade : f.binade (q * 2 ^ f.mb + 2 * 2 ^ f.mb) = q + 1 := by
      rw [FFmt.binade, whole, ← Nat.succ_mul, Nat.mul_div_cancel _ pos]; rfl
    rw [FFmt.grid, FFmt.sig, binade, whole, Nat.add_sub_cancel_left, ← Nat.add_assoc, Nat.pow_succ]
    ring

/-- The next code is one step of its binade above. -/
theorem grid_succ (f : FFmt) (L c : Nat) : f.grid L (c + 1) = f.grid L c + 2 ^ (f.low + L + f.binade c) := by
  have here := code_eq f c
  have next : c + 1 = f.binade c * 2 ^ f.mb + (f.sig c + 1) := by omega
  have normal := sig_normal f c
  have lt := sig_lt f c
  rw [next, grid_at f L (k := f.sig c + 1) (by omega) (by omega), Nat.add_mul, Nat.one_mul, ← grid_at f L lt.le normal, ← here]

theorem grid_rising (f : FFmt) (L : Nat) : StrictMono (f.grid L) :=
  strictMono_nat_of_lt_succ fun c => by rw [grid_succ]; exact Nat.lt_add_of_pos_right (Nat.two_pow_pos _)

theorem grid_zero (f : FFmt) (L : Nat) : f.grid L 0 = 0 := by
  rw [FFmt.grid, FFmt.sig, Nat.zero_sub, Nat.zero_mul]

/-- Finer units scale the grid. -/
theorem grid_units (f : FFmt) (L c : Nat) : f.grid L c = f.grid 0 c * 2 ^ L := by
  rw [FFmt.grid, FFmt.grid, Nat.mul_assoc, ← Nat.pow_add]
  congr 2
  omega

end

/-! ### Magnitudes as ratios -/

/-- `a × 2^i = b × 2^j` where the exponents differ as the ratio of the values says. -/
theorem ratOf_ratio (m : Nat) (e : Int) {i j : Nat} (h : (i : Int) - j = -e) : (ratOf m e).num * 2 ^ i = m * 2 ^ j * (ratOf m e).den := by
  unfold ratOf
  split
  · dsimp only
    rw [Nat.mul_one, Nat.mul_assoc, ← Nat.pow_add]
    congr 2
    omega
  · dsimp only
    rw [Nat.mul_assoc, ← Nat.pow_add]
    congr 2
    omega

theorem ratOf_den_pos (m : Nat) (e : Int) : 0 < (ratOf m e).den := by
  unfold ratOf
  split
  · exact Nat.one_pos
  · exact Nat.two_pow_pos _

theorem scale_den_pos {r : Ratio} (h : 0 < r.den) (q : Int) : 0 < (r.scale q).den := by
  unfold Ratio.scale
  split
  · exact Nat.mul_pos h (Nat.two_pow_pos _)
  · exact h

/-- A magnitude in units of 2^q. -/
theorem scale_ratio (m : Nat) (e q : Int) {i j : Nat} (h : (i : Int) - j = q - e) :
    ((ratOf m e).scale q).num * 2 ^ i = m * 2 ^ j * ((ratOf m e).scale q).den := by
  unfold Ratio.scale
  split
  · next up =>
    have base := ratOf_ratio m e (i := i) (j := j + q.toNat) (by omega)
    dsimp only
    rw [base, Nat.pow_add]
    ring
  · next down =>
    have base := ratOf_ratio m e (i := (-q).toNat + i) (j := j) (by omega)
    dsimp only
    rw [Nat.mul_assoc, ← Nat.pow_add, base]

theorem log2_mul_two_pow {m : Nat} (hm : m ≠ 0) (k : Nat) : Nat.log2 (m * 2 ^ k) = Nat.log2 m + k := by
  have pos := Nat.two_pow_pos k
  obtain ⟨lower, upper⟩ := (Nat.log2_eq_iff hm).1 rfl
  rw [Nat.log2_eq_iff (Nat.mul_ne_zero hm pos.ne'), Nat.pow_add, Nat.add_right_comm, Nat.pow_add]
  exact ⟨Nat.mul_le_mul_right _ lower, Nat.mul_lt_mul_of_pos_right upper pos⟩

/-- The binary exponent of a magnitude. -/
theorem log2_ratOf {m : Nat} (hm : m ≠ 0) (e : Int) : (ratOf m e).log2 = Nat.log2 m + e := by
  have exponent : (Nat.log2 (ratOf m e).num : Int) - Nat.log2 (ratOf m e).den = Nat.log2 m + e := by
    unfold ratOf
    split
    · next up =>
      dsimp only
      rw [log2_mul_two_pow hm, show Nat.log2 1 = 0 from rfl]
      omega
    · next down =>
      dsimp only
      rw [Nat.log2_two_pow]
      omega
  have scaled := scale_ratio m e (Nat.log2 m + e) (i := Nat.log2 m) (j := 0) (by omega)
  rw [Nat.pow_zero, Nat.mul_one] at scaled
  have notLess : ¬ ((ratOf m e).scale (Nat.log2 m + e)).num < ((ratOf m e).scale (Nat.log2 m + e)).den := by
    intro less
    have : m * ((ratOf m e).scale (Nat.log2 m + e)).den < m * ((ratOf m e).scale (Nat.log2 m + e)).den := by
      calc m * ((ratOf m e).scale (Nat.log2 m + e)).den
        _ = ((ratOf m e).scale (Nat.log2 m + e)).num * 2 ^ Nat.log2 m := scaled.symm
        _ < ((ratOf m e).scale (Nat.log2 m + e)).den * 2 ^ Nat.log2 m := Nat.mul_lt_mul_of_pos_right less (Nat.two_pow_pos _)
        _ ≤ ((ratOf m e).scale (Nat.log2 m + e)).den * m := Nat.mul_le_mul_left _ (Nat.log2_self_le hm)
        _ = _ := Nat.mul_comm ..
    exact this.false
  rw [Ratio.log2]
  rw [exponent, if_neg notLess]

end Sys2Proof.Machine
end

section
/-! SUPPORT. What one rounding of an exact magnitude to a float format gives (R75 to R77, R79). -/

namespace Sys2Proof.Machine

/-! ### Finite codes -/

theorem sig_of_subnormal {f : FFmt} {c : Nat} (h : c / 2 ^ f.mb = 0) : f.binade c = 0 ∧ f.sig c = c % 2 ^ f.mb := by
  have binade : f.binade c = 0 := by rw [FFmt.binade, h]
  rw [FFmt.sig, binade, Nat.zero_mul, Nat.sub_zero, Nat.mod_eq_of_lt ((Nat.div_eq_zero_iff_lt (Nat.two_pow_pos f.mb)).1 h)]
  exact ⟨rfl, rfl⟩

theorem sig_of_normal {f : FFmt} {c : Nat} (h : c / 2 ^ f.mb ≠ 0) : f.binade c + 1 = c / 2 ^ f.mb ∧ f.sig c = 2 ^ f.mb + c % 2 ^ f.mb := by
  have split := Nat.div_add_mod c (2 ^ f.mb)
  have := Nat.mul_le_mul_left (2 ^ f.mb) (Nat.one_le_iff_ne_zero.2 h)
  refine ⟨Nat.sub_add_cancel (Nat.one_le_iff_ne_zero.2 h), ?_⟩
  rw [FFmt.sig, FFmt.binade, Nat.sub_mul, Nat.one_mul, Nat.mul_comm]
  omega

/-- A finite code is its significand times the step of its binade (R68). -/
theorem val_of_finite {f : FFmt} (ok : f.Ok) {c : Nat} (finite : c % 2 ^ (f.eb + f.mb) ≤ f.maxCode) :
    f.val c = .fin (f.neg c) (f.sig (c % 2 ^ (f.eb + f.mb))) (f.binade (c % 2 ^ (f.eb + f.mb)) + 1 - f.bias - f.mb) := by
  unfold FFmt.val
  dsimp only
  generalize c % 2 ^ (f.eb + f.mb) = a at finite ⊢
  have notInf : ¬ (f.style = 0 ∧ a / 2 ^ f.mb = 2 ^ f.eb - 1) := by
    rintro ⟨style, top⟩
    have := (Nat.div_lt_iff_lt_mul (Nat.two_pow_pos f.mb)).2 (lt_of_le_of_lt finite (ok.top_special0 style))
    omega
  have notNan : ¬ (f.style = 1 ∧ a = 2 ^ (f.eb + f.mb) - 1) := by
    rintro ⟨style, top⟩
    have := ok.top_special1 style
    omega
  rw [if_neg notInf, if_neg notNan]
  split
  · next first =>
    obtain ⟨binade, sig⟩ := sig_of_subnormal first
    rw [sig, binade]
    rfl
  · next normal =>
    obtain ⟨binade, sig⟩ := sig_of_normal normal
    rw [sig, ← binade]
    rfl

theorem val_maxCode {f : FFmt} (ok : f.Ok) :
    f.val f.maxCode = .fin (f.neg f.maxCode) (f.sig f.maxCode) (f.binade f.maxCode + 1 - f.bias - f.mb) := by
  have own := Nat.mod_eq_of_lt ok.top_below
  have := val_of_finite ok (c := f.maxCode) own.le
  rwa [own] at this

/-- Two magnitudes compare as the numbers of a common unit. -/
theorem scaled_lt (m k : Nat) (a b : Int) {i j : Nat} (h : (i : Int) - j = a - b) :
    m * 2 ^ (a - b).toNat < k * 2 ^ (b - a).toNat ↔ m * 2 ^ i < k * 2 ^ j := by
  rcases Int.le_total b a with le | le
  · have above : i = (a - b).toNat + j := by omega
    rw [show (b - a).toNat = 0 by omega, above, Nat.pow_add, ← Nat.mul_assoc, Nat.mul_lt_mul_right (Nat.two_pow_pos _), Nat.pow_zero,
      Nat.mul_one]
  · have above : j = (b - a).toNat + i := by omega
    rw [show (a - b).toNat = 0 by omega, above, Nat.pow_add, ← Nat.mul_assoc, Nat.mul_lt_mul_right (Nat.two_pow_pos _), Nat.pow_zero,
      Nat.mul_one]

/-! ### The binade of a magnitude -/

/-- The binade of the value below a magnitude of units 2^-(149 + L). -/
def FFmt.binadeOf (f : FFmt) (L M : Nat) : Nat := Nat.log2 M - (f.low + L + f.mb)
/-- The step of that binade. -/
def FFmt.stepOf (f : FFmt) (L M : Nat) : Nat := 2 ^ (f.low + L + f.binadeOf L M)

section
variable {f : FFmt} {L M : Nat}

theorem quotient_lt : M / f.stepOf L M < 2 * 2 ^ f.mb := by
  rw [FFmt.stepOf, Nat.div_lt_iff_lt_mul (Nat.two_pow_pos _), ← Nat.pow_succ', ← Nat.pow_add]
  exact Nat.lt_of_lt_of_le Nat.lt_log2_self (Nat.pow_le_pow_right Nat.two_pos (by rw [FFmt.binadeOf]; omega))

variable (hM : M ≠ 0)
include hM

theorem quotient_normal : f.binadeOf L M = 0 ∨ 2 ^ f.mb ≤ M / f.stepOf L M := by
  by_cases first : f.binadeOf L M = 0
  · exact .inl first
  · refine .inr ?_
    rw [FFmt.stepOf, Nat.le_div_iff_mul_le (Nat.two_pow_pos _), ← Nat.pow_add]
    refine (Nat.pow_le_pow_right Nat.two_pos ?_).trans (Nat.log2_self_le hM)
    rw [FFmt.binadeOf] at first ⊢
    omega

/-- A magnitude rounded to a whole number of steps of its binade is rounded to the grid. -/
theorem rounds_of_quotient (ok : f.Ok) {d : MagDir} {k : Nat} (step : Steps d (M / f.stepOf L M) (M % f.stepOf L M) (f.stepOf L M) k) :
    Rounds d (f.grid L) M (f.binadeOf L M * 2 ^ f.mb + k) ∧
      f.grid L (f.binadeOf L M * 2 ^ f.mb + k) = k * f.stepOf L M ∧
      (f.grid L (f.binadeOf L M * 2 ^ f.mb + k) = M ↔ M % f.stepOf L M = 0) := by
  have lt := quotient_lt (f := f) (L := L) (M := M)
  have normal := quotient_normal (f := f) (L := L) hM
  have here := grid_at f L lt.le normal
  have next := grid_at f L (q := f.binadeOf L M) (k := M / f.stepOf L M + 1) (by omega) (by omega)
  have even : f.binadeOf L M * 2 ^ f.mb % 2 = 0 := by
    obtain ⟨mb, hmb⟩ := Nat.exists_eq_add_of_le' ok.mb_pos
    rw [hmb, Nat.pow_succ, ← Nat.mul_assoc, Nat.mul_mod_left]
  have bounds := step.bounds
  rw [← FFmt.stepOf] at here next
  have below : M = f.grid L (f.binadeOf L M * 2 ^ f.mb + M / f.stepOf L M) + M % f.stepOf L M := by
    rw [here, Nat.mul_comm, Nat.div_add_mod]
  have above : f.grid L (f.binadeOf L M * 2 ^ f.mb + M / f.stepOf L M + 1) =
      f.grid L (f.binadeOf L M * 2 ^ f.mb + M / f.stepOf L M) + f.stepOf L M := by
    rw [here, Nat.add_assoc, next, Nat.add_mul, Nat.one_mul]
  have inside := Nat.mod_lt M (y := f.stepOf L M) (Nat.two_pow_pos _)
  exact ⟨rounds_of_steps (grid_rising f L) below inside above (step.add even), grid_at f L (by omega) (by omega),
    steps_exact below inside above (step.add even)⟩

end

/-! ### Values below the smallest normal -/

/-- The smallest normal value. -/
def FFmt.normal (f : FFmt) (L : Nat) : Nat := 2 ^ (150 - f.bias + L)

/-- A magnitude whose rounding with an unbounded exponent lies below the smallest normal. -/
def Tiny (d : MagDir) (f : FFmt) (L M : Nat) : Prop :=
  match d with
  | .near => 2 ^ (f.mb + 2) * M < (2 ^ (f.mb + 2) - 1) * f.normal L
  | .down => M < f.normal L
  | .up => 2 ^ (f.mb + 1) * M ≤ (2 ^ (f.mb + 1) - 1) * f.normal L

theorem not_tiny_of_normal {d : MagDir} {f : FFmt} {L M : Nat} (h : f.normal L ≤ M) : ¬ Tiny d f L M := by
  have scaled (p : Nat) (hp : 0 < p) : (p - 1) * f.normal L < p * M := by
    have pos : 0 < f.normal L := Nat.two_pow_pos _
    calc (p - 1) * f.normal L < p * f.normal L := Nat.mul_lt_mul_of_pos_right (by omega) pos
      _ ≤ p * M := Nat.mul_le_mul_left _ h
  cases d
  case near => exact Nat.not_lt_of_lt (scaled _ (Nat.two_pow_pos _))
  case down => exact Nat.not_lt_of_le h
  case up => exact Nat.not_le_of_lt (scaled _ (Nat.two_pow_pos _))

theorem tiny_of_half {d : MagDir} {f : FFmt} {L M : Nat} (h : 2 * M < f.normal L) : Tiny d f L M := by
  have scaled (p : Nat) (hp : 2 ≤ p) : p * M < (p - 1) * f.normal L := by
    obtain ⟨q, rfl⟩ := Nat.exists_eq_add_of_le' hp
    calc (q + 2) * M ≤ (q + 1) * (2 * M) := by nlinarith
      _ < (q + 1) * f.normal L := Nat.mul_lt_mul_of_pos_left h (by omega)
  have two (n : Nat) : 2 ≤ 2 ^ (f.mb + (n + 1)) := by
    have := Nat.two_pow_pos (f.mb + n)
    rw [← Nat.add_assoc, Nat.pow_succ]
    omega
  cases d
  case near => exact scaled _ (two 1)
  case down => exact (by omega : M < f.normal L)
  case up => exact (scaled _ (two 0)).le

/-- In the binade below the smallest normal the step of an unbounded exponent is half as wide. -/
theorem tiny_iff_of_steps {d : MagDir} {f : FFmt} (ok : f.Ok) {L M k : Nat} (below : M < f.normal L)
    (step : Steps d (2 * M / 2 ^ (f.low + L)) (2 * M % 2 ^ (f.low + L)) (2 ^ (f.low + L)) k) :
    Tiny d f L M ↔ k < 2 * 2 ^ f.mb := by
  obtain ⟨D, hD⟩ : ∃ D, D = 2 ^ (f.low + L) := ⟨_, rfl⟩
  obtain ⟨P, hP⟩ : ∃ P, P = 2 ^ f.mb := ⟨_, rfl⟩
  have posD : 0 < D := hD ▸ Nat.two_pow_pos _
  have posP : 0 < P := hP ▸ Nat.two_pow_pos _
  have normal : f.normal L = P * D := by
    rw [FFmt.normal, hP, hD, ← Nat.pow_add]
    have := ok.room
    congr 1
    rw [FFmt.low]; omega
  rw [← hD] at step
  rw [normal] at below
  have rising : StrictMono (fun c => c * D) := fun a b h => Nat.mul_lt_mul_of_pos_right h posD
  have rounds : Rounds d (fun c => c * D) (2 * M) k :=
    rounds_of_steps rising (Nat.div_add_mod' ..).symm (Nat.mod_lt _ posD) (by rw [Nat.add_mul, Nat.one_mul]) step
  have past := exceeds_iff rising rounds (2 * P - 1)
  have four : 2 ^ (f.mb + 2) = P * 4 := by rw [Nat.pow_add, ← hP]
  have two : 2 ^ (f.mb + 1) = P * 2 := by rw [Nat.pow_add, ← hP]
  have last : (2 * P - 1) * D + D = 2 * (P * D) := by
    rw [← Nat.succ_mul, Nat.succ_eq_add_one, show 2 * P - 1 + 1 = 2 * P by omega, Nat.mul_assoc]
  have bound : k < 2 * P ↔ ¬ 2 * P - 1 < k := by omega
  rw [← hP, bound, ← past]
  cases d
  case near =>
    have less : (P * 4) * M < (P * 4 - 1) * (P * D) ↔ 4 * M < (P * 4 - 1) * D := by
      rw [Nat.mul_assoc, Nat.mul_left_comm _ P D, Nat.mul_lt_mul_left posP]
    have quarter : (P * 4 - 1) * D + D = 4 * (P * D) := by
      rw [← Nat.succ_mul, Nat.succ_eq_add_one, show P * 4 - 1 + 1 = 4 * P by omega, Nat.mul_assoc]
    simp only [Tiny, Exceeds, normal, four, less, show 2 * P - 1 + 1 = 2 * P by omega, Nat.mul_assoc 2 P D]
    rw [if_pos (by omega)]
    omega
  case down =>
    simp only [Tiny, Exceeds, normal, show 2 * P - 1 + 1 = 2 * P by omega, Nat.mul_assoc 2 P D]
    omega
  case up =>
    have less : (P * 2) * M ≤ (P * 2 - 1) * (P * D) ↔ 2 * M ≤ (2 * P - 1) * D := by
      rw [Nat.mul_comm 2 P, Nat.mul_assoc, Nat.mul_left_comm _ P D, Nat.mul_le_mul_left_iff posP]
    simp only [Tiny, Exceeds, normal, two, less]
    omega

end Sys2Proof.Machine
end

section
/-! SUPPORT. The rounding of a magnitude to a float format, its overflow and its flags (R76, R77, R79). -/

namespace Sys2Proof.Machine

/-- What takes the place of a rounding above the largest value. -/
def MagDir.pastTop : MagDir → Nat → Nat → Nat
  | .down, _, top => top
  | _, inf, _ => inf

/-- The magnitude rounded with an unbounded exponent, in units of its own significand. -/
def unboundedSig (f : FFmt) (mode : Nat) (neg : Bool) (x : Ratio) (E : Int) : Nat :=
  rndInt mode neg 0 (x.scale (E - f.mb)).num (x.scale (E - f.mb)).den

/-- The model's test that this rounding lies below the smallest normal. -/
def TinyTest (f : FFmt) (k : Nat) (E : Int) : Prop :=
  (E < 1 - (f.bias : Int) ∧
    k * 2 ^ (E - f.mb - (1 - (f.bias : Int) - 200 - f.mb)).toNat < 2 ^ (1 - (f.bias : Int) - (1 - (f.bias : Int) - 200 - f.mb)).toNat) ∨
  E < 1 - (f.bias : Int) - 150

/-- `roundMag` by what it compares: the rounding with an unbounded exponent with the largest value, and the same with the smallest
normal. -/
theorem roundMag_eq {f : FFmt} {mode : Nat} (hmode : mode < 4) (neg : Bool) {x : Ratio} {E q : Int} {k : Nat}
    (hE : x.log2 = E) (hq : (if E < 1 - (f.bias : Int) then 1 - (f.bias : Int) - f.mb else E - f.mb) = q)
    (hk : rndInt mode neg 0 (x.scale q).num (x.scale q).den = k)
    {n : Bool} {top : Nat} {qtop : Int} (htop : f.val f.maxCode = .fin n top qtop) :
    (top * 2 ^ (qtop - (E - f.mb)).toNat < unboundedSig f mode neg x E * 2 ^ (E - f.mb - qtop).toNat →
      roundMag f false mode 0 neg x = ((magDir mode neg).pastTop (if f.style = 0 then f.infCode else f.maxCode) f.maxCode, fOF ||| fNX)) ∧
    (¬ top * 2 ^ (qtop - (E - f.mb)).toNat < unboundedSig f mode neg x E * 2 ^ (E - f.mb - qtop).toNat →
      (roundMag f false mode 0 neg x).1 = (q + f.mb + f.bias).toNat * 2 ^ f.mb + k - 2 ^ f.mb ∧
        ((x.scale q).num % (x.scale q).den = 0 → (roundMag f false mode 0 neg x).2 = 0) ∧
        ((x.scale q).num % (x.scale q).den ≠ 0 →
          (TinyTest f (unboundedSig f mode neg x E) E → (roundMag f false mode 0 neg x).2 = fNX ||| fUF) ∧
          (¬ TinyTest f (unboundedSig f mode neg x E) E → (roundMag f false mode 0 neg x).2 = fNX))) := by
  unfold roundMag TinyTest
  dsimp only
  rw [htop]
  dsimp only
  rw [hE, hq, hk, ← unboundedSig]
  refine ⟨fun big => ?_, fun notBig => ?_⟩
  · rw [if_pos (decide_eq_true big)]
    refine Prod.ext ?_ rfl
    by_cases style : f.style = 0
    · match mode, hmode with
      | 0, _ => simp [style, magDir, MagDir.pastTop]
      | 1, _ => simp [style, magDir, MagDir.pastTop]
      | 2, _ => cases neg <;> simp [style, magDir, MagDir.pastTop]
      | 3, _ => cases neg <;> simp [style, magDir, MagDir.pastTop]
    · cases magDir mode neg <;> simp [style, MagDir.pastTop]
  · rw [if_neg (mt of_decide_eq_true notBig)]
    refine ⟨rfl, ?_⟩
    simp only [Bool.or_eq_true, Bool.and_eq_true, decide_eq_true_eq]
    refine ⟨fun exact_ => ?_, fun inexact => ⟨fun small => ?_, fun normal => ?_⟩⟩
    · simp [exact_]
    · rw [if_pos inexact, if_pos (And.intro inexact small)]
    · rw [if_pos inexact, if_neg fun both => normal both.2]; rfl

end Sys2Proof.Machine
end

section
/-! SUPPORT. A rounded magnitude is the rounding to the grid of the format (R75 to R77, R79). -/

namespace Sys2Proof.Machine

/-- A magnitude rounded to a whole number of units 2^q. -/
theorem steps_of_scale {mode : Nat} (hmode : mode < 4) (neg : Bool) (m : Nat) (e q : Int) {i j : Nat} (h : (i : Int) - j = q - e) :
    Steps (magDir mode neg) (m * 2 ^ j / 2 ^ i) (m * 2 ^ j % 2 ^ i) (2 ^ i)
        (rndInt mode neg 0 ((ratOf m e).scale q).num ((ratOf m e).scale q).den) ∧
      (((ratOf m e).scale q).num % ((ratOf m e).scale q).den = 0 ↔ m * 2 ^ j % 2 ^ i = 0) := by
  have ratio := scale_ratio m e q h
  have den := scale_den_pos (ratOf_den_pos m e) q
  have pos := Nat.two_pow_pos i
  exact ⟨steps_of_ratio ratio den pos (steps_rndInt hmode neg 0 den), mod_zero_of_ratio ratio den pos⟩

theorem unboundedSig_bounds {f : FFmt} {mode : Nat} (hmode : mode < 4) (neg : Bool) {m : Nat} (hm : m ≠ 0) (e : Int) :
    2 ^ f.mb ≤ unboundedSig f mode neg (ratOf m e) (Nat.log2 m + e) ∧
      unboundedSig f mode neg (ratOf m e) (Nat.log2 m + e) ≤ 2 * 2 ^ f.mb := by
  obtain ⟨step, -⟩ := steps_of_scale hmode neg m e (Nat.log2 m + e - f.mb) (i := Nat.log2 m) (j := f.mb) (by omega)
  have bounds := step.bounds
  have lower : 2 ^ f.mb ≤ m * 2 ^ f.mb / 2 ^ Nat.log2 m := by
    rw [Nat.le_div_iff_mul_le (Nat.two_pow_pos _), Nat.mul_comm]
    exact Nat.mul_le_mul_right _ (Nat.log2_self_le hm)
  have upper : m * 2 ^ f.mb / 2 ^ Nat.log2 m < 2 * 2 ^ f.mb := by
    rw [Nat.div_lt_iff_lt_mul (Nat.two_pow_pos _), Nat.mul_right_comm, ← Nat.pow_succ']
    exact Nat.mul_lt_mul_of_pos_right Nat.lt_log2_self (Nat.two_pow_pos _)
  exact ⟨lower.trans bounds.1, by rw [unboundedSig]; omega⟩

section
variable {f : FFmt} (ok : f.Ok) {mode : Nat} (hmode : mode < 4) (neg : Bool) {m : Nat} (hm : m ≠ 0) {e : Int} {L k : Nat}
  (units : (k : Int) = e + 149 + L)
include ok hmode hm units

/-- The model's test for tininess is that of the exact magnitude. -/
theorem tinyTest_iff :
    TinyTest f (unboundedSig f mode neg (ratOf m e) (Nat.log2 m + e)) (Nat.log2 m + e) ↔ Tiny (magDir mode neg) f L (m * 2 ^ k) := by
  obtain ⟨low, hlow⟩ : ∃ low, low = f.low := ⟨_, rfl⟩
  have room := ok.room
  have lowBias : low + f.mb + f.bias = 150 := by rw [hlow, FFmt.low]; omega
  have hM : m * 2 ^ k ≠ 0 := Nat.mul_ne_zero hm (Nat.two_pow_pos k).ne'
  have exponent := log2_mul_two_pow hm k
  have least := Nat.log2_self_le hM
  have most : m * 2 ^ k < 2 ^ (Nat.log2 (m * 2 ^ k) + 1) := Nat.lt_log2_self
  have shift : (1 - (f.bias : Int) - (1 - (f.bias : Int) - 200 - f.mb)).toNat = 200 + f.mb := by omega
  unfold TinyTest
  rw [shift]
  by_cases normal : low + L + f.mb ≤ Nat.log2 (m * 2 ^ k)
  · have large : f.normal L ≤ m * 2 ^ k := (Nat.pow_le_pow_right Nat.two_pos (by omega)).trans least
    refine ⟨fun test => ?_, fun tiny => (not_tiny_of_normal large tiny).elim⟩
    omega
  · have below : m * 2 ^ k < f.normal L := most.trans_le (Nat.pow_le_pow_right Nat.two_pos (by omega))
    obtain ⟨lower, upper⟩ := unboundedSig_bounds (f := f) hmode neg hm e
    by_cases next : Nat.log2 (m * 2 ^ k) + 1 = low + L + f.mb
    · obtain ⟨step, -⟩ := steps_of_scale hmode neg m e (Nat.log2 m + e - f.mb) (i := low + L) (j := k + 1) (by omega)
      rw [← unboundedSig, Nat.pow_succ, ← Nat.mul_assoc, Nat.mul_comm _ 2, hlow] at step
      rw [tiny_iff_of_steps ok below step]
      rw [show (Nat.log2 m + e - f.mb - (1 - (f.bias : Int) - 200 - f.mb)).toNat = 199 by omega, Nat.pow_add, Nat.mul_comm (2 ^ 200)]
      constructor
      · intro test
        omega
      · intro less
        exact .inl ⟨by omega, by omega⟩
    · have half : 2 * (m * 2 ^ k) < f.normal L := by
        calc 2 * (m * 2 ^ k) < 2 * 2 ^ (Nat.log2 (m * 2 ^ k) + 1) := Nat.mul_lt_mul_of_pos_left most Nat.two_pos
          _ = 2 ^ (Nat.log2 (m * 2 ^ k) + 2) := by rw [Nat.pow_succ' (n := Nat.log2 (m * 2 ^ k) + 1)]
          _ ≤ f.normal L := Nat.pow_le_pow_right Nat.two_pos (by omega)
      refine ⟨fun _ => tiny_of_half half, fun _ => ?_⟩
      by_cases far : Nat.log2 m + e < 1 - (f.bias : Int) - 150
      · exact .inr far
      · refine .inl ⟨by omega, ?_⟩
        obtain ⟨n, hn⟩ : ∃ n, n = (Nat.log2 m + e - f.mb - (1 - (f.bias : Int) - 200 - f.mb)).toNat := ⟨_, rfl⟩
        rw [← hn]
        calc unboundedSig f mode neg (ratOf m e) (Nat.log2 m + e) * 2 ^ n ≤ 2 * 2 ^ f.mb * 2 ^ n := Nat.mul_le_mul_right _ upper
          _ = 2 ^ (f.mb + 1 + n) := by rw [Nat.pow_add, Nat.pow_succ']
          _ < 2 ^ (200 + f.mb) := Nat.pow_lt_pow_right (by omega) (by omega)

/-- The model's test for overflow is that the rounding to the grid lies above the largest code. -/
theorem bigTest_iff {c : Nat}
    (hc : f.binadeOf L (m * 2 ^ k) * 2 ^ f.mb + rndInt mode neg 0 ((ratOf m e).scale (1 - (f.bias : Int) - f.mb + f.binadeOf L (m * 2 ^ k))).num
      ((ratOf m e).scale (1 - (f.bias : Int) - f.mb + f.binadeOf L (m * 2 ^ k))).den = c) :
    f.sig f.maxCode * 2 ^ ((f.binade f.maxCode : Int) + 1 - f.bias - f.mb - (Nat.log2 m + e - f.mb)).toNat <
        unboundedSig f mode neg (ratOf m e) (Nat.log2 m + e) *
          2 ^ (Nat.log2 m + e - f.mb - ((f.binade f.maxCode : Int) + 1 - f.bias - f.mb)).toNat ↔
      f.maxCode < c := by
  have room := ok.room
  have lowBias : f.low + f.mb + f.bias = 150 := by rw [FFmt.low]; omega
  have hM : m * 2 ^ k ≠ 0 := Nat.mul_ne_zero hm (Nat.two_pow_pos k).ne'
  have exponent := log2_mul_two_pow hm k
  have hb : f.binadeOf L (m * 2 ^ k) = Nat.log2 (m * 2 ^ k) - (f.low + L + f.mb) := rfl
  obtain ⟨step, -⟩ := steps_of_scale hmode neg m e (1 - (f.bias : Int) - f.mb + f.binadeOf L (m * 2 ^ k))
    (i := f.low + L + f.binadeOf L (m * 2 ^ k)) (j := k) (by omega)
  by_cases normal : f.low + L + f.mb ≤ Nat.log2 (m * 2 ^ k)
  · have sameUnit : Nat.log2 m + e - f.mb = 1 - (f.bias : Int) - f.mb + f.binadeOf L (m * 2 ^ k) := by omega
    obtain ⟨-, value, -⟩ := rounds_of_quotient hM ok step
    rw [hc] at value
    rw [unboundedSig, sameUnit, scaled_lt _ _ _ _ (i := f.low + L + f.binade f.maxCode) (j := f.low + L + f.binadeOf L (m * 2 ^ k)) (by omega),
      ← FFmt.grid, ← FFmt.stepOf, ← value, (grid_rising f L).lt_iff_lt]
  · have first : f.binadeOf L (m * 2 ^ k) = 0 := by omega
    have below : m * 2 ^ k / 2 ^ (f.low + L) < 2 ^ f.mb := by
      rw [Nat.div_lt_iff_lt_mul (Nat.two_pow_pos _), ← Nat.pow_add]
      exact Nat.lt_of_lt_of_le Nat.lt_log2_self (Nat.pow_le_pow_right Nat.two_pos (by omega))
    have bounds := step.bounds
    have topNormal := ok.top_normal
    rw [first, Nat.add_zero] at bounds
    rw [first, Nat.zero_mul, Nat.zero_add] at hc
    obtain ⟨lower, upper⟩ := unboundedSig_bounds (f := f) hmode neg hm e
    have sigTop : 2 ^ f.mb ≤ f.sig f.maxCode := by
      rcases sig_normal f f.maxCode with zero | large
      · rwa [FFmt.sig, zero, Nat.zero_mul, Nat.sub_zero]
      · exact large
    obtain ⟨n, hn⟩ : ∃ n, ((f.binade f.maxCode : Int) + 1 - f.bias - f.mb - (Nat.log2 m + e - f.mb)).toNat = n + 1 :=
      Nat.exists_eq_add_of_le' (by omega)
    rw [hn, show (Nat.log2 m + e - f.mb - ((f.binade f.maxCode : Int) + 1 - f.bias - f.mb)).toNat = 0 by omega, Nat.pow_zero, Nat.mul_one]
    have large : 2 ^ f.mb * 2 ≤ f.sig f.maxCode * 2 ^ (n + 1) :=
      Nat.mul_le_mul sigTop (by rw [Nat.pow_succ]; exact Nat.le_mul_of_pos_left _ (Nat.two_pow_pos n))
    exact iff_of_false (by omega) (by omega)

/-- `roundMag` rounds to the grid: past the largest code it overflows, up to it the code and the flags are those of the rounding. -/
theorem roundMag_spec : ∃ c, Rounds (magDir mode neg) (f.grid L) (m * 2 ^ k) c ∧
    (f.maxCode < c → roundMag f false mode 0 neg (ratOf m e) =
      ((magDir mode neg).pastTop (if f.style = 0 then f.infCode else f.maxCode) f.maxCode, fOF ||| fNX)) ∧
    (c ≤ f.maxCode → (roundMag f false mode 0 neg (ratOf m e)).1 = c ∧
      (f.grid L c = m * 2 ^ k → (roundMag f false mode 0 neg (ratOf m e)).2 = 0) ∧
      (f.grid L c ≠ m * 2 ^ k →
        (Tiny (magDir mode neg) f L (m * 2 ^ k) → (roundMag f false mode 0 neg (ratOf m e)).2 = fNX ||| fUF) ∧
        (¬ Tiny (magDir mode neg) f L (m * 2 ^ k) → (roundMag f false mode 0 neg (ratOf m e)).2 = fNX))) := by
  have room := ok.room
  have lowBias : f.low + f.mb + f.bias = 150 := by rw [FFmt.low]; omega
  have hM : m * 2 ^ k ≠ 0 := Nat.mul_ne_zero hm (Nat.two_pow_pos k).ne'
  have exponent := log2_mul_two_pow hm k
  have hb : f.binadeOf L (m * 2 ^ k) = Nat.log2 (m * 2 ^ k) - (f.low + L + f.mb) := rfl
  obtain ⟨step, remainder⟩ := steps_of_scale hmode neg m e (1 - (f.bias : Int) - f.mb + f.binadeOf L (m * 2 ^ k))
    (i := f.low + L + f.binadeOf L (m * 2 ^ k)) (j := k) (by omega)
  obtain ⟨rounds, -, exact_⟩ := rounds_of_quotient hM ok step
  have big := bigTest_iff ok hmode neg hm units rfl
  obtain ⟨overflow, inRange⟩ := roundMag_eq hmode neg (q := 1 - (f.bias : Int) - f.mb + f.binadeOf L (m * 2 ^ k))
    (log2_ratOf hm e) (by split <;> omega) rfl (val_maxCode ok)
  rw [big] at overflow inRange
  rw [tinyTest_iff ok hmode neg hm units] at inRange
  refine ⟨_, rounds, overflow, fun within => ?_⟩
  obtain ⟨code, exactFlags, inexactFlags⟩ := inRange (Nat.not_lt.2 within)
  refine ⟨?_, fun same => exactFlags (remainder.2 (exact_.1 same)),
    fun differs => inexactFlags (mt (fun none => exact_.2 (remainder.1 none)) differs)⟩
  rw [code, show (1 - (f.bias : Int) - f.mb + f.binadeOf L (m * 2 ^ k) + f.mb + f.bias).toNat = f.binadeOf L (m * 2 ^ k) + 1 by omega,
    Nat.succ_mul, Nat.add_right_comm, Nat.add_sub_cancel]

end

end Sys2Proof.Machine
end

section
/-! SUPPORT. Codes as signed numbers of units (R68), and a rounded value as the statements of rounding say it (R75 to R79). -/

namespace Sys2Proof.Machine

/-! ### Signed values -/

theorem signed_mul (neg : Bool) (a b : Nat) : fvSignedInt neg a * (b : Int) = fvSignedInt neg (a * b) := by
  cases neg <;> simp [fvSignedInt]

theorem signed_abs (neg : Bool) (a : Nat) : |fvSignedInt neg a| = a := by
  cases neg <;> simp [fvSignedInt]

theorem signed_inj {neg : Bool} {a b : Nat} : fvSignedInt neg a = fvSignedInt neg b ↔ a = b := by
  cases neg <;> simp [fvSignedInt]

theorem signed_neg_iff {neg : Bool} {a : Nat} (h : a ≠ 0) : fvSignedInt neg a < 0 ↔ neg = true := by
  cases neg <;> simp [fvSignedInt, Nat.pos_of_ne_zero h]

theorem signed_pos_iff {neg : Bool} {a : Nat} (h : a ≠ 0) : 0 < fvSignedInt neg a ↔ neg = false := by
  cases neg <;> simp [fvSignedInt, Nat.pos_of_ne_zero h]

theorem signed_zero_iff {neg : Bool} {a : Nat} : fvSignedInt neg a = 0 ↔ a = 0 := by
  cases neg <;> simp [fvSignedInt]

/-! ### Codes -/

section
variable {f : FFmt}

theorem signBit_add_mag (neg : Bool) {c : Nat} (h : c < 2 ^ (f.eb + f.mb)) : Tables.mag f (f.signBit neg + c) = c := by
  cases neg
  · rw [FFmt.signBit, if_neg Bool.false_ne_true, Nat.zero_add, Tables.mag, Nat.mod_eq_of_lt h]
  · rw [FFmt.signBit, if_pos rfl, Tables.mag, Nat.add_mod_left, Nat.mod_eq_of_lt h]

theorem signBit_add_neg (neg : Bool) {c : Nat} (h : c < 2 ^ (f.eb + f.mb)) : f.neg (f.signBit neg + c) = neg := by
  have pos := Nat.two_pow_pos (f.eb + f.mb)
  cases neg
  · rw [FFmt.signBit, if_neg Bool.false_ne_true, Nat.zero_add, FFmt.neg, Nat.div_eq_of_lt h]; rfl
  · rw [FFmt.signBit, if_pos rfl, FFmt.neg, Nat.add_div_left _ pos, Nat.div_eq_of_lt h]; rfl

theorem signBit_add_lt (neg : Bool) {c : Nat} (h : c < 2 ^ (f.eb + f.mb)) : f.signBit neg + c < 2 ^ f.width := by
  rw [FFmt.width, Nat.add_assoc, Nat.pow_add, FFmt.signBit]
  split <;> omega

variable (ok : f.Ok)
include ok

/-- A code stands for the value of its magnitude on the grid, with its sign (R68). -/
theorem units_eq (x : Nat) : Tables.units f x = fvSignedInt (f.neg x) (f.grid 0 (Tables.mag f x)) := by
  have room := ok.room
  have field : Tables.mag f x / 2 ^ f.mb = x / 2 ^ f.mb % 2 ^ f.eb := by
    rw [Tables.mag, Nat.add_comm, Nat.pow_add, Nat.mod_mul_right_div_self]
  have rest : Tables.mag f x % 2 ^ f.mb = x % 2 ^ f.mb := by
    rw [Tables.mag, Nat.add_comm, Nat.pow_add, Nat.mod_mul_right_mod]
  have value : (if x / 2 ^ f.mb % 2 ^ f.eb = 0 then x % 2 ^ f.mb * 2 ^ (150 - f.bias - f.mb)
      else (2 ^ f.mb + x % 2 ^ f.mb) * 2 ^ (x / 2 ^ f.mb % 2 ^ f.eb + 149 - f.bias - f.mb)) = f.grid 0 (Tables.mag f x) := by
    rw [← field, ← rest]
    split
    · next first =>
      obtain ⟨binade, sig⟩ := sig_of_subnormal first
      rw [FFmt.grid, sig, binade, FFmt.low]
      rfl
    · next normal =>
      obtain ⟨binade, sig⟩ := sig_of_normal normal
      rw [FFmt.grid, sig, ← binade, FFmt.low]
      congr 2
      omega
  unfold Tables.units FFmt.neg fvSignedInt
  dsimp only
  rw [value]
  simp only [beq_iff_eq]

theorem units_scaled (L x : Nat) : Tables.units f x * (2 ^ L : Nat) = fvSignedInt (f.neg x) (f.grid L (Tables.mag f x)) := by
  rw [units_eq ok, signed_mul, ← grid_units]

theorem signBit_add_mod_two (neg : Bool) (c : Nat) : (f.signBit neg + c) % 2 = c % 2 := by
  obtain ⟨n, hn⟩ := Nat.exists_eq_add_of_le' ok.mb_pos
  have even : f.signBit neg % 2 = 0 := by
    rw [FFmt.signBit]
    split
    · rw [hn, ← Nat.add_assoc, Nat.pow_succ, Nat.mul_mod_left]
    · rfl
  omega

/-- The step above the largest code is as wide as the one below it. -/
theorem grid_maxCode_succ (L : Nat) : f.grid L (f.maxCode + 1) + f.grid L (f.maxCode - 1) = 2 * f.grid L f.maxCode := by
  have inner := ok.top_inner
  have pos : 0 < f.maxCode := Nat.pos_of_ne_zero fun zero => inner (by rw [zero, Nat.zero_mod])
  have before : f.maxCode = f.maxCode - 1 + 1 := by omega
  have same : f.binade (f.maxCode - 1) = f.binade f.maxCode := by
    have split := Nat.div_add_mod f.maxCode (2 ^ f.mb)
    have small := Nat.mod_lt f.maxCode (Nat.two_pow_pos f.mb)
    have : (f.maxCode - 1) / 2 ^ f.mb = f.maxCode / 2 ^ f.mb := by
      rw [Nat.div_eq_iff (Nat.two_pow_pos f.mb), Nat.mul_comm]
      omega
    rw [FFmt.binade, this, ← FFmt.binade]
  have last := grid_succ f L (f.maxCode - 1)
  rw [← before, same] at last
  rw [grid_succ]
  omega

end

end Sys2Proof.Machine
end

section
/-! SUPPORT. The conversion of a finite value to a float format is the rounding of R75, R76 and R79. -/

namespace Sys2Proof.Machine

/-! ### The three directions as the four modes -/

/-- A condition that depends on the direction. -/
def MagDir.pick (d : MagDir) (near up down : Prop) : Prop :=
  match d with
  | .near => near
  | .up => up
  | .down => down

section
variable {mode : Nat} (hmode : mode < 4) (neg : Bool) {M : Nat} (hM : M ≠ 0)
include hmode hM

/-- The modes, told apart by what they do to a magnitude. -/
theorem byMode_eq (P Q R : Prop) :
    (if mode = 0 then P else if (mode = 2 ∧ fvSignedInt neg M < 0) ∨ (mode = 3 ∧ 0 < fvSignedInt neg M) then Q else R) ↔
      (magDir mode neg).pick P Q R := by
  simp only [signed_neg_iff hM, signed_pos_iff hM]
  match mode, hmode with
  | 0, _ => simp [magDir, MagDir.pick]
  | 1, _ => simp [magDir, MagDir.pick]
  | 2, _ => cases neg <;> simp [magDir, MagDir.pick]
  | 3, _ => cases neg <;> simp [magDir, MagDir.pick]

theorem pastTop_eq (inf top : Nat) :
    (if mode = 0 ∨ (mode = 2 ∧ fvSignedInt neg M < 0) ∨ (mode = 3 ∧ 0 < fvSignedInt neg M) then inf else top) =
      (magDir mode neg).pastTop inf top := by
  simp only [signed_neg_iff hM, signed_pos_iff hM]
  match mode, hmode with
  | 0, _ => simp [magDir, MagDir.pastTop]
  | 1, _ => simp [magDir, MagDir.pastTop]
  | 2, _ => cases neg <;> simp [magDir, MagDir.pastTop]
  | 3, _ => cases neg <;> simp [magDir, MagDir.pastTop]

end

/-! ### The rounded value among the signed ones -/

section
variable {V : Nat → Nat} (rising : StrictMono V) {M c : Nat}
include rising

theorem rounds_near_dist (zero : V 0 = 0) (h : Rounds .near V M c) (n : Bool) (b : Nat) :
    |(V c : Int) - M| ≤ |fvSignedInt n (V b) - M| ∧
      (|(V c : Int) - M| = |fvSignedInt n (V b) - M| → fvSignedInt n (V b) ≠ V c → c % 2 = 0) := by
  simp only [Int.abs_eq_natAbs]
  obtain ⟨lower, upper⟩ := h
  have bottom := lower 0
  rw [zero] at bottom
  rcases Nat.lt_trichotomy b c with less | rfl | more
  · have := rising less
    have := lower b less
    have := bottom (by omega)
    cases n <;> simp only [fvSignedInt, Bool.false_eq_true, if_false, if_true] <;> omega
  · cases n
    · exact ⟨le_rfl, fun _ differs => (differs rfl).elim⟩
    · by_cases first : b = 0
      · rw [first]; simp [fvSignedInt, zero]
      · have := bottom (by omega)
        simp only [fvSignedInt, if_true]
        omega
  · have := rising more
    have := upper b more
    by_cases first : c = 0
    · subst first
      rw [zero] at this ⊢
      refine ⟨?_, fun _ _ => rfl⟩
      cases n <;> simp only [fvSignedInt, Bool.false_eq_true, if_false, if_true] <;> omega
    · have := bottom (by omega)
      cases n <;> simp only [fvSignedInt, Bool.false_eq_true, if_false, if_true] <;> omega

theorem rounds_down_le (h : Rounds .down V M c) : V c ≤ M ∧ ∀ b, V b ≤ M → V b ≤ V c :=
  ⟨h.1, fun _ hb => rising.monotone (Nat.le_of_lt_succ (rising.lt_iff_lt.1 (lt_of_le_of_lt hb h.2)))⟩

theorem rounds_up_ge (h : Rounds .up V M c) : M ≤ V c ∧ ∀ b, M ≤ V b → V c ≤ V b :=
  ⟨h.1, fun b hb => rising.monotone (Nat.not_lt.1 fun less => absurd (h.2 b less) (Nat.not_lt.2 hb))⟩

end

end Sys2Proof.Machine
end

section
/-! SUPPORT. The conversion of a finite value to a float format is the rounding of R75, R76 and R79. -/

namespace Sys2Proof.Machine

/-- A distance between signed values depends on whether their signs agree. -/
theorem signed_dist (n neg : Bool) (b m : Nat) : |fvSignedInt n b - fvSignedInt neg m| = |fvSignedInt (n != neg) b - m| := by
  cases neg
  · rw [Bool.bne_false]; rfl
  · rw [← abs_neg]
    cases n <;> simp [fvSignedInt, neg_add_eq_sub]

theorem signed_eq_iff (n neg : Bool) (b m : Nat) : fvSignedInt n b = fvSignedInt neg m ↔ fvSignedInt (n != neg) b = m := by
  cases neg
  · rw [Bool.bne_false]; rfl
  · cases n <;> simp [fvSignedInt]

theorem signed_not (n : Bool) (a : Nat) : fvSignedInt (!n) a = -fvSignedInt n a := by
  cases n <;> simp [fvSignedInt]

theorem magDir_three (neg : Bool) : magDir 3 neg = if (!neg) = true then .up else .down := by
  cases neg <;> rfl

/-- Rounding toward −∞; rounding toward +∞ is the same with the signs turned. -/
theorem rounds_floor {V : Nat → Nat} (rising : StrictMono V) {neg : Bool} {M c : Nat} (h : Rounds (if neg then .up else .down) V M c)
    (n : Bool) (b : Nat) :
    fvSignedInt neg (V c) ≤ fvSignedInt neg M ∧ (fvSignedInt n (V b) ≤ fvSignedInt neg M → fvSignedInt n (V b) ≤ fvSignedInt neg (V c)) := by
  cases neg
  · obtain ⟨below, most⟩ := rounds_down_le rising h
    have := most b
    cases n <;> simp only [fvSignedInt, Bool.false_eq_true, if_false, if_true] <;> omega
  · obtain ⟨above, least⟩ := rounds_up_ge rising h
    have := least b
    cases n <;> simp only [fvSignedInt, Bool.false_eq_true, if_false, if_true] <;> omega

section
variable {f : FFmt} (ok : f.Ok) {mode : Nat} (hmode : mode < 4) (neg : Bool) {M L c : Nat}
  (rounds : Rounds (magDir mode neg) (f.grid L) M c)
include ok hmode rounds

/-- A magnitude rounded to the grid is, with its sign, the rounding among the finite codes. -/
theorem roundsTo_of_rounds (within : c ≤ f.maxCode) :
    Tables.RoundsTo f f.maxCode mode (2 ^ L : Nat) (fvSignedInt neg M) (f.signBit neg + c) := by
  have lt := lt_of_le_of_lt within ok.top_below
  have rising := grid_rising f L
  unfold Tables.RoundsTo
  refine ⟨(signBit_add_mag neg lt).trans_le within, fun z _ => ?_⟩
  dsimp only
  rw [units_scaled ok, units_scaled ok, signBit_add_mag neg lt, signBit_add_neg neg lt, signBit_add_mod_two ok]
  generalize f.neg z = n
  generalize Tables.mag f z = b
  match mode, hmode, rounds with
  | 0, _, h =>
    obtain ⟨dist, tie⟩ := rounds_near_dist rising (grid_zero f L) h (n != neg) b
    show |_| ≤ |_| ∧ (|_| = |_| → _ ≠ _ → _)
    rw [signed_dist neg neg, signed_dist n neg, ne_eq, signed_eq_iff n neg, bne_self_eq_false]
    exact ⟨dist, tie⟩
  | 1, _, h =>
    obtain ⟨below, most⟩ := rounds_down_le rising h
    refine ⟨?_, ?_, ?_⟩
    · rw [signed_abs, signed_abs]; exact_mod_cast below
    · have := mul_nonneg (Int.natCast_nonneg (f.grid L c)) (Int.natCast_nonneg M)
      cases neg <;> simpa [fvSignedInt] using this
    · rw [signed_abs, signed_abs, signed_abs]; exact_mod_cast most b
  | 2, _, h => exact rounds_floor rising h n b
  | 3, _, h =>
    obtain ⟨above, least⟩ := rounds_floor rising (neg := !neg) (magDir_three neg ▸ h) (!n) b
    simp only [signed_not, Int.neg_le_neg_iff] at above least
    exact ⟨above, least⟩

end

/-- The overflow of R76: the rounding with an unbounded exponent lies above the largest code. -/
theorem overflows_iff {f : FFmt} (ok : f.Ok) (d : MagDir) (L M : Nat) :
    d.pick
        (if f.maxCode % 2 = 1
          then 2 * (Tables.units f f.maxCode * (2 ^ L : Nat)) + (Tables.units f f.maxCode - Tables.units f (f.maxCode - 1)) * (2 ^ L : Nat) ≤ 2 * (M : Int)
          else 2 * (Tables.units f f.maxCode * (2 ^ L : Nat)) + (Tables.units f f.maxCode - Tables.units f (f.maxCode - 1)) * (2 ^ L : Nat) < 2 * (M : Int))
        (Tables.units f f.maxCode * (2 ^ L : Nat) < (M : Int))
        (Tables.units f f.maxCode * (2 ^ L : Nat) + (Tables.units f f.maxCode - Tables.units f (f.maxCode - 1)) * (2 ^ L : Nat) ≤ (M : Int)) ↔
      Exceeds d (f.grid L) f.maxCode M := by
  have positive {c : Nat} (h : c < 2 ^ (f.eb + f.mb)) : Tables.units f c * (2 ^ L : Nat) = f.grid L c := by
    have code := signBit_add_mag (f := f) false h
    have sign := signBit_add_neg (f := f) false h
    rw [FFmt.signBit, if_neg Bool.false_ne_true, Nat.zero_add] at code sign
    rw [units_scaled ok, code, sign]
    rfl
  have step := grid_maxCode_succ ok L
  rw [Int.sub_mul, positive ok.top_below, positive (lt_of_le_of_lt (Nat.sub_le ..) ok.top_below)]
  cases d
  case near => simp only [MagDir.pick, Exceeds]; split <;> omega
  case up => simp only [MagDir.pick, Exceeds]; omega
  case down => simp only [MagDir.pick, Exceeds]; omega

/-- Tininess in terms of the exact value. -/
theorem tiny_iff (d : MagDir) (f : FFmt) (L M : Nat) :
    d.pick (2 ^ (f.mb + 2) * (M : Int) < (2 ^ (f.mb + 2) - 1) * (2 ^ (150 - f.bias) * (2 ^ L : Nat)))
        (2 ^ (f.mb + 1) * (M : Int) ≤ (2 ^ (f.mb + 1) - 1) * (2 ^ (150 - f.bias) * (2 ^ L : Nat)))
        ((M : Int) < 2 ^ (150 - f.bias) * (2 ^ L : Nat)) ↔ Tiny d f L M := by
  have normal : (2 ^ (150 - f.bias) * (2 ^ L : Nat) : Int) = f.normal L := by
    rw [FFmt.normal, Nat.pow_add]; push_cast; rfl
  have less (n : Nat) : (2 ^ n - 1 : Int) = ((2 ^ n - 1 : Nat) : Int) := by
    rw [Nat.cast_pred (Nat.two_pow_pos n)]; push_cast; rfl
  rw [normal, less, less]
  cases d
  case near => simp only [MagDir.pick, Tiny]; exact_mod_cast Iff.rfl
  case up => simp only [MagDir.pick, Tiny]; exact_mod_cast Iff.rfl
  case down => simp only [MagDir.pick, Tiny]; exact_mod_cast Iff.rfl

theorem signBit_eq (f : FFmt) (neg : Bool) {M : Nat} (hM : M ≠ 0) :
    (if fvSignedInt neg M < 0 then 2 ^ (f.eb + f.mb) else 0) = f.signBit neg := by
  rw [FFmt.signBit, if_congr (signed_neg_iff hM) rfl rfl]

/-- A conversion of a finite nonzero value, its exponent any, to a float format is one rounding (R75, R76, R79). -/
theorem converts_fconv {f : FFmt} (ok : f.Ok) {mode : Nat} (hmode : mode < 4) (neg : Bool) {m : Nat} (hm : m ≠ 0) {e : Int} {L k : Nat}
    (units : (k : Int) = e + 149 + L) {inf : Option Nat} (hinf : inf.getD f.maxCode = if f.style = 0 then f.infCode else f.maxCode) :
    Tables.Converts f f.maxCode inf mode (2 ^ L : Nat) (fvSignedInt neg (m * 2 ^ k)) (fconv f false mode 0 (.fin neg m e)) := by
  obtain ⟨c, rounds, past, inside⟩ := roundMag_spec ok hmode neg hm units
  have hM : m * 2 ^ k ≠ 0 := Nat.mul_ne_zero hm (Nat.two_pow_pos k).ne'
  have code : fconv f false mode 0 (.fin neg m e) =
      (f.signBit neg + (roundMag f false mode 0 neg (ratOf m e)).1, (roundMag f false mode 0 neg (ratOf m e)).2) := if_neg hm
  have exceeds := exceeds_iff (grid_rising f L) rounds f.maxCode
  unfold Tables.Converts
  dsimp only
  rw [signed_abs, byMode_eq hmode neg hM, byMode_eq hmode neg hM, pastTop_eq hmode neg hM, overflows_iff ok, tiny_iff, exceeds,
    signBit_eq f neg hM, hinf, code]
  refine ⟨fun above => ?_, fun within => ?_⟩
  · rw [past above]
  · obtain ⟨same, exactFlags, inexactFlags⟩ := inside (Nat.not_lt.1 within)
    have lt := lt_of_le_of_lt (Nat.not_lt.1 within) ok.top_below
    have value : Tables.units f (f.signBit neg + c) * (2 ^ L : Nat) = fvSignedInt neg (m * 2 ^ k) ↔ f.grid L c = m * 2 ^ k := by
      rw [units_scaled ok, signBit_add_mag neg lt, signBit_add_neg neg lt, signed_inj]
    rw [same, ne_eq, value]
    refine ⟨signBit_add_lt neg lt, ?_, roundsTo_of_rounds ok hmode neg rounds (Nat.not_lt.1 within), exactFlags, inexactFlags⟩
    have sign : Tables.negative f (f.signBit neg + c) = neg := signBit_add_neg neg lt
    rw [signed_neg_iff hM, sign]

end Sys2Proof.Machine
end

section
/-! SUPPORT. The float formats, and the scalar float instructions of R217 and R218. -/

namespace Sys2Proof.Machine

open Sys2Proof.Safety

/-! ### Results and flags in the registers -/

theorem lo32_eq (x : DWord) : lo32 x = x.toNat % 2 ^ 32 := by
  rw [lo32, BitVec.extractLsb'_toNat, Nat.shiftRight_zero]

theorem truth_eq (r : Bool × Flags) : (r.1.toNat, r.2) = Tables.fTruth r := by
  obtain ⟨b, fl⟩ := r
  cases b <;> rfl

/-- An instruction that runs as `ff` writes its result and sets its flags. -/
theorem ff_ready {i : Instr} {h : Hal} {d a b : Reg} {s : State} (r : Ready s h) {o : Out} {f g : Nat → Nat → Nat × Flags}
    (runs : o = ff i h d a b f s) (same : ∀ x y, f x y = g x y) :
    o = done s h 4 (Tables.fWrote s d (g ((reg s a).toNat % 2 ^ 32) ((reg s b).toNat % 2 ^ 32))) := by
  rw [runs, ← same, ← lo32_eq, ← lo32_eq]
  exact scalar_done r (congrArg Res.done (upd_congr rfl))

theorem execFcvt_ready {h : Hal} {d a : Reg} {m dst src : BitVec 3} {s : State} (r : Ready s h) :
    execFcvt h d a m dst src s =
      done s h 4 (s.upd fun c => orFlags (regSet c d (fcvtRes m dst src (reg s a)).1) (fcvtRes m dst src (reg s a)).2) :=
  scalar_done r (congrArg Res.done (upd_congr rfl))

theorem floatResults : Parts.FloatResults := by
  refine ⟨?_, fun h d a m dst src s r => execFcvt_ready r⟩
  simp only [Tables.floatOps, List.forall_mem_cons]
  refine ⟨?fadd, ?fmul, ?fmin, ?fmax, ?eq, ?lt, ?le, fun _ none => nomatch none⟩ <;> intro h d a b s r
  case fadd => exact ff_ready (o := execFadd h d a b s) (g := fAdd f32) r rfl fun _ _ => rfl
  case fmul => exact ff_ready (o := execFmul h d a b s) (g := fMul f32) r rfl fun _ _ => rfl
  case fmin => exact ff_ready (o := execFmin h d a b s) (g := fun x y => (fMinMax f32 false x y, 0)) r rfl fun _ _ => rfl
  case fmax => exact ff_ready (o := execFmax h d a b s) (g := fun x y => (fMinMax f32 true x y, 0)) r rfl fun _ _ => rfl
  case eq => exact ff_ready (o := execFcmpEq h d a b s) (g := fun x y => Tables.fTruth (fCmp f32 0 x y)) r rfl fun x y => truth_eq (fCmp f32 0 x y)
  case lt => exact ff_ready (o := execFcmpLt h d a b s) (g := fun x y => Tables.fTruth (fCmp f32 1 x y)) r rfl fun x y => truth_eq (fCmp f32 1 x y)
  case le => exact ff_ready (o := execFcmpLe h d a b s) (g := fun x y => Tables.fTruth (fCmp f32 2 x y)) r rfl fun x y => truth_eq (fCmp f32 2 x y)

/-! ### The formats (R67, R189) -/

/-- What the statements' table says of a format is what the model makes of it. -/
structure FormatRow (number : BitVec 3) (f : FFmt) (top : Nat) (inf : Option Nat) (nan : Nat) : Prop where
  ok : f.Ok
  code : cvtFmt number = some f
  top : top = f.maxCode
  inf : inf = if f.style = 0 then some f.infCode else none
  nan : nan = f.nanCode
  width : f.width ≤ 32
  e4m3 : f.style = 1 ↔ number = 4
  e4m3_nan : f.style = 1 → f.nanCode = 0x7F

theorem formats_row : ∀ p ∈ Tables.formats, FormatRow p.1 p.2.1 p.2.2.1 p.2.2.2.1 p.2.2.2.2 := by
  simp only [Tables.formats, List.forall_mem_cons]
  refine ⟨?_, ?_, ?_, ?_, ?_, ?_, fun _ none => nomatch none⟩
  all_goals
    exact ⟨⟨by decide, by decide, by decide, by decide, by decide, by decide, by decide, by decide⟩, by decide, by decide, by decide,
      by decide, by decide, by decide, by decide⟩

end Sys2Proof.Machine
end

section
/-! SUPPORT. What codes stand for, and the comparison, the order of operands, the minimum and the maximum (R68, R85). -/

namespace Sys2Proof.Machine

/-! ### The three kinds of codes -/

/-- A finite code and its number of units. -/
theorem val_finite {f : FFmt} (ok : f.Ok) {x : Nat} (finite : Tables.mag f x ≤ f.maxCode) :
    ∃ (m : Nat) (e : Int) (k : Nat), f.val x = .fin (f.neg x) m e ∧ (k : Int) = e + 149 ∧ m * 2 ^ k = f.grid 0 (Tables.mag f x) ∧
      Tables.units f x = fvSignedInt (f.neg x) (m * 2 ^ k) := by
  have room := ok.room
  refine ⟨_, _, f.low + f.binade (Tables.mag f x), val_of_finite ok finite, ?_, rfl, units_eq ok x⟩
  rw [FFmt.low, Tables.mag]
  omega

theorem val_infinite {f : FFmt} {x : Nat} (style : f.style = 0) (h : Tables.mag f x = f.infCode) : f.val x = .inf (f.neg x) := by
  have pos := Nat.two_pow_pos f.mb
  rw [Tables.mag, FFmt.infCode] at h
  unfold FFmt.val
  dsimp only
  rw [h, Nat.mul_div_cancel _ pos, Nat.mul_mod_left, if_pos ⟨style, rfl⟩, if_pos rfl]

theorem val_nan {f : FFmt} {x : Nat} (past : f.maxCode < Tables.mag f x) (notInf : f.style = 0 → Tables.mag f x ≠ f.infCode) :
    f.val x = .nan := by
  have pos := Nat.two_pow_pos f.mb
  have bound : Tables.mag f x < 2 ^ (f.eb + f.mb) := Nat.mod_lt _ (Nat.two_pow_pos _)
  unfold FFmt.val
  dsimp only
  rw [← Tables.mag]
  rw [FFmt.maxCode] at past
  rw [FFmt.infCode] at notInf
  generalize Tables.mag f x = a at *
  by_cases zero : f.style = 0
  · rw [if_pos zero] at past
    have differs := notInf zero
    have split := Nat.div_add_mod' a (2 ^ f.mb)
    have top : a / 2 ^ f.mb = 2 ^ f.eb - 1 := by
      have lower : 2 ^ f.eb - 1 ≤ a / 2 ^ f.mb := (Nat.le_div_iff_mul_le pos).2 (by omega)
      have upper : a / 2 ^ f.mb < 2 ^ f.eb := (Nat.div_lt_iff_lt_mul pos).2 (by rwa [← Nat.pow_add])
      omega
    rw [if_pos ⟨zero, top⟩, if_neg]
    rw [top] at split
    omega
  · rw [if_neg zero] at past
    rw [if_neg fun both => zero both.1]
    split at past
    · next one => rw [if_pos ⟨one, by omega⟩]
    · omega

/-! ### Order -/

/-- A value in the unit of another's exponent. -/
theorem signed_align (n : Bool) (m : Nat) {e e₀ : Int} (le : e₀ ≤ e) {L k c : Nat} (hk : (k : Int) = e + 149 + L) (hc : (c : Int) = e₀ + 149 + L) :
    fvSignedInt n (m * 2 ^ k) = fvSignedInt n (m * 2 ^ (e - e₀).toNat) * (2 ^ c : Nat) := by
  rw [signed_mul, Nat.mul_assoc, ← Nat.pow_add]
  congr 3
  omega

/-- Finite values compare as their numbers of units. -/
theorem fvLt_fin (strict n₁ n₂ : Bool) (m₁ m₂ : Nat) {e₁ e₂ : Int} {k₁ k₂ : Nat} (h₁ : (k₁ : Int) = e₁ + 149) (h₂ : (k₂ : Int) = e₂ + 149) :
    fvLt strict (.fin n₁ m₁ e₁) (.fin n₂ m₂ e₂) = true ↔
      fvSignedInt n₁ (m₁ * 2 ^ k₁) < fvSignedInt n₂ (m₂ * 2 ^ k₂) ∨
      (strict = true ∧ fvSignedInt n₁ (m₁ * 2 ^ k₁) = 0 ∧ fvSignedInt n₂ (m₂ * 2 ^ k₂) = 0 ∧ n₁ = true ∧ n₂ = false) := by
  obtain ⟨c, hc⟩ : ∃ c : Nat, (c : Int) = min e₁ e₂ + 149 := ⟨(min e₁ e₂ + 149).toNat, by omega⟩
  have pos : (0 : Int) < (2 ^ c : Nat) := by exact_mod_cast Nat.two_pow_pos c
  rw [signed_align n₁ m₁ (min_le_left e₁ e₂) (L := 0) (by omega) (c := c) (by omega),
    signed_align n₂ m₂ (min_le_right e₁ e₂) (L := 0) (by omega) (c := c) (by omega), Int.mul_lt_mul_right pos,
    Int.mul_eq_zero, Int.mul_eq_zero]
  simp only [pos.ne', or_false]
  unfold fvLt
  simp only [Bool.or_eq_true, decide_eq_true_eq, Bool.and_eq_true, beq_iff_eq, Bool.not_eq_true', and_assoc]

theorem fvEq_iff {a b : FVal} (ha : fvIsNan a = false) (hb : fvIsNan b = false) :
    fvEq a b = true ↔ ¬ fvLt false a b = true ∧ ¬ fvLt false b a = true := by
  simp [fvEq, ha, hb]

theorem f32_ok : f32.Ok := (formats_row _ (.head _)).ok

theorem f32_finite {x : Nat} (h : x / 2 ^ 23 % 256 ≠ 255) : Tables.mag f32 x ≤ f32.maxCode := by
  show x % 2 ^ 31 ≤ 2139095039
  omega

theorem floatCompares {x y : Nat} (hx : x / 2 ^ 23 % 256 ≠ 255) (hy : y / 2 ^ 23 % 256 ≠ 255) :
    fCmp f32 0 x y = (decide (Tables.units f32 x = Tables.units f32 y), 0) ∧
    fCmp f32 1 x y = (decide (Tables.units f32 x < Tables.units f32 y), 0) ∧
    fCmp f32 2 x y = (decide (Tables.units f32 x ≤ Tables.units f32 y), 0) := by
  obtain ⟨m₁, e₁, k₁, val₁, exp₁, -, units₁⟩ := val_finite f32_ok (f32_finite hx)
  obtain ⟨m₂, e₂, k₂, val₂, exp₂, -, units₂⟩ := val_finite f32_ok (f32_finite hy)
  have nan₁ : fvIsNan (f32.val x) = false := by rw [val₁]; rfl
  have nan₂ : fvIsNan (f32.val y) = false := by rw [val₂]; rfl
  have less : fvLt false (f32.val x) (f32.val y) = true ↔ Tables.units f32 x < Tables.units f32 y := by
    rw [val₁, val₂, fvLt_fin _ _ _ _ _ exp₁ exp₂, units₁, units₂]
    simp
  have more : fvLt false (f32.val y) (f32.val x) = true ↔ Tables.units f32 y < Tables.units f32 x := by
    rw [val₁, val₂, fvLt_fin _ _ _ _ _ exp₂ exp₁, units₁, units₂]
    simp
  have same : fvEq (f32.val x) (f32.val y) = decide (Tables.units f32 x = Tables.units f32 y) := by
    rw [Bool.eq_iff_iff, fvEq_iff nan₁ nan₂, less, more, decide_eq_true_eq]
    omega
  have lt : fvLt false (f32.val x) (f32.val y) = decide (Tables.units f32 x < Tables.units f32 y) := by
    rw [Bool.eq_iff_iff, less, decide_eq_true_eq]
  refine ⟨Prod.ext same rfl, Prod.ext lt ?_, Prod.ext ?_ ?_⟩
  · simp [fCmp, nan₁, nan₂, flagIf]
  · simp only [fCmp, lt, same, ← Bool.decide_or, le_iff_lt_or_eq]
  · simp [fCmp, nan₁, nan₂, flagIf]

/-! ### The order of the operands -/

theorem fvAdd_comm (a b : FVal) : fvAdd a b = fvAdd b a := by
  match a, b with
  | .nan, .nan | .nan, .inf _ | .nan, .fin .. | .inf _, .nan | .fin .., .nan | .inf _, .fin .. | .fin .., .inf _ => rfl
  | .inf n₁, .inf n₂ => cases n₁ <;> cases n₂ <;> rfl
  | .fin n₁ m₁ e₁, .fin n₂ m₂ e₂ =>
    unfold fvAdd
    dsimp only
    rw [Int.add_comm, Int.min_comm, Bool.and_comm n₁ n₂, Bool.and_assoc, Bool.and_comm (m₁ == 0), ← Bool.and_assoc]

theorem fvMul_comm (a b : FVal) : fvMul a b = fvMul b a := by
  match a, b with
  | .nan, .nan | .nan, .inf _ | .nan, .fin .. | .inf _, .nan | .fin .., .nan | .inf _, .fin .. | .fin .., .inf _ => rfl
  | .inf n₁, .inf n₂ => cases n₁ <;> cases n₂ <;> rfl
  | .fin n₁ m₁ e₁, .fin n₂ m₂ e₂ =>
    unfold fvMul
    dsimp only
    rw [Nat.mul_comm, Int.add_comm, bne_comm]

theorem floatExact : Parts.FloatExact := by
  refine ⟨fun x y hx hy => floatCompares hx hy, fun x y => ⟨?_, ?_⟩⟩
  · unfold fAdd; rw [fvAdd_comm]
  · unfold fMul; rw [fvMul_comm]

end Sys2Proof.Machine
end

section
/-! SUPPORT. The minimum and the maximum of F32 codes (R85). -/

namespace Sys2Proof.Machine

/-- The place of a code that is no NaN in the order of values, −0 below +0. -/
def codeKey (n : Bool) (a : Nat) : Int := if n then -(a : Int) - 1 else a

theorem f32_ordered {x : Nat} (h : ¬ 0x7F800000 < x % 2 ^ 31) : Tables.mag f32 x ≤ f32.maxCode ∨ Tables.mag f32 x = f32.infCode := by
  show x % 2 ^ 31 ≤ 0x7F7FFFFF ∨ x % 2 ^ 31 = 0x7F800000
  omega

theorem f32_val_nan {x : Nat} (h : 0x7F800000 < x % 2 ^ 31) : f32.val x = .nan :=
  val_nan (show 0x7F7FFFFF < x % 2 ^ 31 by omega) fun _ => (show x % 2 ^ 31 ≠ 0x7F800000 by omega)

theorem f32_isNan {x : Nat} (h : 0x7F800000 < x % 2 ^ 31) : fvIsNan (f32.val x) = true := by rw [f32_val_nan h]; rfl

theorem f32_not_isNan {x : Nat} (h : ¬ 0x7F800000 < x % 2 ^ 31) : fvIsNan (f32.val x) = false := by
  rcases f32_ordered h with finite | infinite
  · obtain ⟨m, e, k, val, -⟩ := val_finite f32_ok finite
    rw [val]; rfl
  · rw [val_infinite rfl infinite]; rfl

/-- The strict order of values is that of their keys. -/
theorem f32_lt_iff {x y : Nat} (hx : ¬ 0x7F800000 < x % 2 ^ 31) (hy : ¬ 0x7F800000 < y % 2 ^ 31) :
    fvLt true (f32.val x) (f32.val y) = true ↔
      codeKey (f32.neg x) (Tables.mag f32 x) < codeKey (f32.neg y) (Tables.mag f32 y) := by
  have largest : f32.maxCode < f32.infCode := by decide
  rcases f32_ordered hx with finite₁ | infinite₁ <;> rcases f32_ordered hy with finite₂ | infinite₂
  · obtain ⟨m₁, e₁, k₁, val₁, exp₁, grid₁, -⟩ := val_finite f32_ok finite₁
    obtain ⟨m₂, e₂, k₂, val₂, exp₂, grid₂, -⟩ := val_finite f32_ok finite₂
    rw [val₁, val₂, fvLt_fin _ _ _ _ _ exp₁ exp₂, grid₁, grid₂]
    generalize Tables.mag f32 x = a
    generalize Tables.mag f32 y = b
    have less := (grid_rising f32 0).lt_iff_lt (a := a) (b := b)
    have more := (grid_rising f32 0).lt_iff_lt (a := b) (b := a)
    have zero := grid_zero f32 0
    have pos₁ := (grid_rising f32 0).lt_iff_lt (a := 0) (b := a)
    have pos₂ := (grid_rising f32 0).lt_iff_lt (a := 0) (b := b)
    cases f32.neg x <;> cases f32.neg y <;> simp [fvSignedInt, codeKey] <;> omega
  · obtain ⟨m₁, e₁, k₁, val₁, -⟩ := val_finite f32_ok finite₁
    rw [val₁, val_infinite rfl infinite₂, infinite₂]
    cases f32.neg x <;> cases f32.neg y <;> simp [fvLt, codeKey] <;> omega
  · obtain ⟨m₂, e₂, k₂, val₂, -⟩ := val_finite f32_ok finite₂
    rw [val₂, val_infinite rfl infinite₁, infinite₁]
    cases f32.neg x <;> cases f32.neg y <;> simp [fvLt, codeKey] <;> omega
  · rw [val_infinite rfl infinite₁, val_infinite rfl infinite₂, infinite₁, infinite₂]
    cases f32.neg x <;> cases f32.neg y <;> simp [fvLt, codeKey]
    omega

theorem codeKey_eq {x : Nat} (h : x < 2 ^ 32) :
    codeKey (f32.neg x) (Tables.mag f32 x) = if x < 2 ^ 31 then (x : Int) else 2 ^ 31 - 1 - (x : Int) := by
  show (if (x / 2 ^ 31 % 2 == 1) = true then -((x % 2 ^ 31 : Nat) : Int) - 1 else ((x % 2 ^ 31 : Nat) : Int)) = _
  simp only [beq_iff_eq]
  split <;> split <;> omega

theorem floatMinMax : Parts.FloatMinMax := by
  intro x y hx hy
  refine ⟨fun notNan₁ notNan₂ => ?_, fun mx => ⟨fun nan₁ notNan₂ => ?_, fun notNan₁ nan₂ => ?_, fun nan₁ nan₂ => ?_⟩⟩
  · have val₁ := f32_not_isNan notNan₁
    have val₂ := f32_not_isNan notNan₂
    have less := f32_lt_iff notNan₁ notNan₂
    have more := f32_lt_iff notNan₂ notNan₁
    rw [codeKey_eq hx, codeKey_eq hy] at less more
    simp only [fMinMax, val₁, val₂, Bool.false_eq_true, if_false, if_true, less, more, and_self]
  · simp only [fMinMax, f32_isNan nan₁, f32_not_isNan notNan₂, if_true, Bool.false_eq_true, if_false]
  · simp only [fMinMax, f32_isNan nan₂, f32_not_isNan notNan₁, if_true, Bool.false_eq_true, if_false]
  · simp only [fMinMax, f32_isNan nan₁, f32_isNan nan₂, if_true]
    rfl

end Sys2Proof.Machine
end

section
/-! SUPPORT. Sums and products of F32 codes (R76, R79, R83, R85). -/

namespace Sys2Proof.Machine

/-! ### Signs -/

theorem signed_natAbs (i : Int) : fvSignedInt (decide (i < 0)) i.natAbs = i := by
  unfold fvSignedInt
  simp only [decide_eq_true_eq]
  split <;> omega

theorem signed_mul_signed (n₁ n₂ : Bool) (a b : Nat) : fvSignedInt n₁ a * fvSignedInt n₂ b = fvSignedInt (n₁ != n₂) (a * b) := by
  cases n₁ <;> cases n₂ <;> simp [fvSignedInt]

section
variable {x y : Nat} (hx : x < 2 ^ 32)
include hx

theorem f32_code : f32.signBit (f32.neg x) + x % 2 ^ 31 = x := by
  show (if (x / 2 ^ 31 % 2 == 1) = true then 2 ^ 31 else 0) + x % 2 ^ 31 = x
  simp only [beq_iff_eq]
  split <;> omega

theorem f32_minusZero_iff : f32.neg x = true ∧ x % 2 ^ 31 = 0 ↔ x = 2 ^ 31 := by
  show (x / 2 ^ 31 % 2 == 1) = true ∧ x % 2 ^ 31 = 0 ↔ _
  rw [beq_iff_eq]
  omega

theorem f32_mixed_iff (hy : y < 2 ^ 32) : (f32.neg x != f32.neg y) = true ↔ x / 2 ^ 31 ≠ y / 2 ^ 31 := by
  show ((x / 2 ^ 31 % 2 == 1) != (y / 2 ^ 31 % 2 == 1)) = true ↔ _
  rw [bne_iff_ne, ne_eq, Bool.eq_iff_iff, beq_iff_eq, beq_iff_eq]
  omega

theorem f32_signBit_mixed (hy : y < 2 ^ 32) : f32.signBit (f32.neg x != f32.neg y) = if x / 2 ^ 31 ≠ y / 2 ^ 31 then 2 ^ 31 else 0 :=
  if_congr (f32_mixed_iff hx hy) rfl rfl

end

/-! ### One rounding of an exact result -/

theorem fAdd_of_exact {f : FFmt} {a b : Nat} {v : FVal} (h : fvAdd (f.val a) (f.val b) = (v, 0)) : fAdd f a b = fres f v := by
  unfold fAdd
  rw [h]
  exact Prod.ext rfl (BitVec.zero_or ..)

theorem fMul_of_exact {f : FFmt} {a b : Nat} {v : FVal} (h : fvMul (f.val a) (f.val b) = (v, 0)) : fMul f a b = fres f v := by
  unfold fMul
  rw [h]
  exact Prod.ext rfl (BitVec.zero_or ..)

theorem fAdd_of_invalid {f : FFmt} {a b : Nat} (h : fvAdd (f.val a) (f.val b) = (.nan, fNV)) : fAdd f a b = (f.nanCode, fNV) := by
  unfold fAdd
  rw [h]
  rfl

theorem fMul_of_invalid {f : FFmt} {a b : Nat} (h : fvMul (f.val a) (f.val b) = (.nan, fNV)) : fMul f a b = (f.nanCode, fNV) := by
  unfold fMul
  rw [h]
  rfl

theorem fvAdd_nan {a b : FVal} (h : a = .nan ∨ b = .nan) : fvAdd a b = (.nan, 0) := by
  rcases h with rfl | rfl
  · cases b <;> rfl
  · cases a <;> rfl

theorem fvMul_nan {a b : FVal} (h : a = .nan ∨ b = .nan) : fvMul a b = (.nan, 0) := by
  rcases h with rfl | rfl
  · cases b <;> rfl
  · cases a <;> rfl

theorem fres_zero (f : FFmt) (n : Bool) (e : Int) : fres f (.fin n 0 e) = (f.signBit n, 0) := rfl
theorem fres_inf (n : Bool) : fres f32 (.inf n) = (f32.signBit n + f32.infCode, 0) := rfl

/-- The exact sum of finite values, in units. -/
theorem fvAdd_fin (n₁ n₂ : Bool) (m₁ m₂ : Nat) {e₁ e₂ : Int} {k₁ k₂ : Nat} (h₁ : (k₁ : Int) = e₁ + 149) (h₂ : (k₂ : Int) = e₂ + 149) :
    (fvSignedInt n₁ (m₁ * 2 ^ k₁) + fvSignedInt n₂ (m₂ * 2 ^ k₂) = 0 →
      fvAdd (.fin n₁ m₁ e₁) (.fin n₂ m₂ e₂) = (.fin (n₁ && n₂ && m₁ == 0 && m₂ == 0) 0 0, 0)) ∧
    (fvSignedInt n₁ (m₁ * 2 ^ k₁) + fvSignedInt n₂ (m₂ * 2 ^ k₂) ≠ 0 →
      ∃ n m e, ∃ k : Nat, fvAdd (.fin n₁ m₁ e₁) (.fin n₂ m₂ e₂) = (.fin n m e, 0) ∧ m ≠ 0 ∧ (k : Int) = e + 149 ∧
        fvSignedInt n (m * 2 ^ k) = fvSignedInt n₁ (m₁ * 2 ^ k₁) + fvSignedInt n₂ (m₂ * 2 ^ k₂)) := by
  obtain ⟨c, hc⟩ : ∃ c : Nat, (c : Int) = min e₁ e₂ + 149 := ⟨(min e₁ e₂ + 149).toNat, by omega⟩
  have pos : (0 : Int) < (2 ^ c : Nat) := by exact_mod_cast Nat.two_pow_pos c
  rw [signed_align n₁ m₁ (min_le_left e₁ e₂) (L := 0) (by omega) (c := c) (by omega),
    signed_align n₂ m₂ (min_le_right e₁ e₂) (L := 0) (by omega) (c := c) (by omega), ← Int.add_mul]
  unfold fvAdd
  dsimp only
  generalize fvSignedInt n₁ (m₁ * 2 ^ (e₁ - min e₁ e₂).toNat) + fvSignedInt n₂ (m₂ * 2 ^ (e₂ - min e₁ e₂).toNat) = i
  rw [ne_eq, Int.mul_eq_zero]
  simp only [pos.ne', or_false]
  refine ⟨fun zero => if_pos zero, fun nonzero => ⟨_, _, _, c, if_neg nonzero, Int.natAbs_ne_zero.2 nonzero, hc, ?_⟩⟩
  rw [← signed_mul, signed_natAbs]

/-! ### Finite operands -/

/-- A number has significand 0 just for the codes of zero. -/
theorem significand_zero_iff {f : FFmt} {m k a : Nat} (h : m * 2 ^ k = f.grid 0 a) : m = 0 ↔ a = 0 := by
  constructor
  · rintro rfl
    rw [Nat.zero_mul] at h
    exact (grid_rising f 0).injective (h.symm.trans (grid_zero f 0).symm)
  · rintro rfl
    rw [grid_zero] at h
    exact (Nat.mul_eq_zero.1 h).resolve_right (Nat.two_pow_pos k).ne'

/-- Nothing is rounded but once: what `fconv` makes of the exact value of a sum or a product. -/
theorem converts_fres {n : Bool} {m : Nat} (hm : m ≠ 0) {e : Int} {L k : Nat} (units : (k : Int) = e + 149 + L) :
    Tables.Converts f32 0x7F7FFFFF (some 0x7F800000) 0 (2 ^ L : Nat) (fvSignedInt n (m * 2 ^ k)) (fres f32 (.fin n m e)) :=
  converts_fconv f32_ok (mode := 0) (by decide) n hm units (inf := some 0x7F800000) rfl

section
variable {x y : Nat} (hfx : x % 2 ^ 31 < 0x7F800000) (hfy : y % 2 ^ 31 < 0x7F800000)
include hfx hfy

theorem fAdd_finite (hx : x < 2 ^ 32) (hy : y < 2 ^ 32) :
    (Tables.units f32 x + Tables.units f32 y ≠ 0 →
      Tables.Converts f32 0x7F7FFFFF (some 0x7F800000) 0 1 (Tables.units f32 x + Tables.units f32 y) (fAdd f32 x y)) ∧
    (Tables.units f32 x + Tables.units f32 y = 0 → fAdd f32 x y = (if x = 2 ^ 31 ∧ y = 2 ^ 31 then 2 ^ 31 else 0, 0)) := by
  obtain ⟨m₁, e₁, k₁, val₁, exp₁, grid₁, units₁⟩ := val_finite f32_ok (Nat.le_of_lt_succ hfx : Tables.mag f32 x ≤ 0x7F7FFFFF)
  obtain ⟨m₂, e₂, k₂, val₂, exp₂, grid₂, units₂⟩ := val_finite f32_ok (Nat.le_of_lt_succ hfy : Tables.mag f32 y ≤ 0x7F7FFFFF)
  obtain ⟨zero, nonzero⟩ := fvAdd_fin (f32.neg x) (f32.neg y) m₁ m₂ exp₁ exp₂
  rw [units₁, units₂]
  refine ⟨fun some => ?_, fun none => ?_⟩
  · obtain ⟨n, m, e, k, sum, hm, exp, value⟩ := nonzero some
    rw [fAdd_of_exact (by rw [val₁, val₂, sum]), ← value]
    exact converts_fres hm (L := 0) (by omega)
  · rw [fAdd_of_exact (by rw [val₁, val₂, zero none]), fres_zero]
    have both : (f32.neg x && f32.neg y && m₁ == 0 && m₂ == 0) = true ↔ x = 2 ^ 31 ∧ y = 2 ^ 31 := by
      rw [← f32_minusZero_iff hx, ← f32_minusZero_iff hy]
      have zero₁ : m₁ = 0 ↔ x % 2 ^ 31 = 0 := significand_zero_iff grid₁
      have zero₂ : m₂ = 0 ↔ y % 2 ^ 31 = 0 := significand_zero_iff grid₂
      simp only [Bool.and_eq_true, beq_iff_eq, zero₁, zero₂]
      tauto
    exact Prod.ext (if_congr both rfl rfl) rfl

theorem fMul_finite (hx : x < 2 ^ 32) (hy : y < 2 ^ 32) :
    (Tables.units f32 x * Tables.units f32 y ≠ 0 →
      Tables.Converts f32 0x7F7FFFFF (some 0x7F800000) 0 (2 ^ 149) (Tables.units f32 x * Tables.units f32 y) (fMul f32 x y)) ∧
    (Tables.units f32 x * Tables.units f32 y = 0 → fMul f32 x y = (if x / 2 ^ 31 ≠ y / 2 ^ 31 then 2 ^ 31 else 0, 0)) := by
  obtain ⟨m₁, e₁, k₁, val₁, exp₁, -, units₁⟩ := val_finite f32_ok (Nat.le_of_lt_succ hfx : Tables.mag f32 x ≤ 0x7F7FFFFF)
  obtain ⟨m₂, e₂, k₂, val₂, exp₂, -, units₂⟩ := val_finite f32_ok (Nat.le_of_lt_succ hfy : Tables.mag f32 y ≤ 0x7F7FFFFF)
  have product : fMul f32 x y = fres f32 (.fin (f32.neg x != f32.neg y) (m₁ * m₂) (e₁ + e₂)) :=
    fMul_of_exact (by rw [val₁, val₂]; rfl)
  have value : Tables.units f32 x * Tables.units f32 y = fvSignedInt (f32.neg x != f32.neg y) (m₁ * m₂ * 2 ^ (k₁ + k₂)) := by
    rw [units₁, units₂, signed_mul_signed, Nat.pow_add, Nat.mul_mul_mul_comm]
  have zero : Tables.units f32 x * Tables.units f32 y = 0 ↔ m₁ * m₂ = 0 := by
    rw [value, signed_zero_iff, Nat.mul_eq_zero, or_iff_left (Nat.two_pow_pos _).ne']
  rw [product]
  refine ⟨fun some => ?_, fun none => ?_⟩
  · rw [value]
    exact converts_fres (mt zero.2 some) (L := 149) (by omega)
  · rw [zero.1 none, fres_zero, f32_signBit_mixed hx hy]

end

/-! ### NaNs and infinities -/

theorem f32_val_inf {x : Nat} (h : x % 2 ^ 31 = 0x7F800000) : f32.val x = .inf (f32.neg x) := val_infinite rfl h

theorem floatSums : Parts.FloatSums := by
  intro x y hx hy
  refine ⟨fun hfx hfy => ?_, fun nan => ?_, fun inf₁ inf₂ => ?_, fun inf₁ fin₂ => ?_, fun inf₁ fin₂ => ?_⟩
  · obtain ⟨sum, zeroSum⟩ := fAdd_finite hfx hfy hx hy
    obtain ⟨product, zeroProduct⟩ := fMul_finite hfx hfy hx hy
    exact ⟨sum, zeroSum, product, zeroProduct⟩
  · have some : f32.val x = .nan ∨ f32.val y = .nan := nan.imp f32_val_nan f32_val_nan
    rw [fAdd_of_exact (fvAdd_nan some), fMul_of_exact (fvMul_nan some)]
    exact ⟨rfl, rfl⟩
  · have same := f32_mixed_iff hx hy
    split
    · next mixed =>
      refine fAdd_of_invalid ?_
      rw [f32_val_inf inf₁, f32_val_inf inf₂]
      exact if_neg (by simpa using same.2 mixed)
    · next agree =>
      rw [fAdd_of_exact (v := .inf (f32.neg x)), fres_inf]
      · have code := f32_code hx
        rw [inf₁] at code
        exact Prod.ext code rfl
      · rw [f32_val_inf inf₁, f32_val_inf inf₂]
        exact if_pos (by simpa using mt same.1 agree)
  · have ⟨m, e, k, val, _⟩ := val_finite f32_ok (Nat.le_of_lt_succ fin₂ : Tables.mag f32 y ≤ 0x7F7FFFFF)
    rw [fAdd_of_exact (v := .inf (f32.neg x)) (by rw [f32_val_inf inf₁, val]; rfl), fres_inf]
    have code := f32_code hx
    rw [inf₁] at code
    exact Prod.ext code rfl
  · have mixed := f32_signBit_mixed hx hy
    rcases Nat.lt_or_eq_of_le fin₂ with finite | infinite
    · obtain ⟨m, e, k, val, -, grid, -⟩ := val_finite f32_ok (Nat.le_of_lt_succ finite : Tables.mag f32 y ≤ 0x7F7FFFFF)
      have zero : m = 0 ↔ y % 2 ^ 31 = 0 := significand_zero_iff grid
      split
      · next none =>
        refine fMul_of_invalid ?_
        rw [f32_val_inf inf₁, val]
        exact if_pos (zero.2 none)
      · next some =>
        rw [fMul_of_exact (v := .inf (f32.neg x != f32.neg y)) (by rw [f32_val_inf inf₁, val]; exact if_neg (mt zero.1 some)), fres_inf, mixed]
        rfl
    · rw [fMul_of_exact (v := .inf (f32.neg x != f32.neg y)) (by rw [f32_val_inf inf₁, f32_val_inf infinite]; rfl), fres_inf, mixed,
        if_neg (by omega : ¬ y % 2 ^ 31 = 0)]
      rfl

end Sys2Proof.Machine
end

section
/-! SUPPORT. `fcvt` between floats, and from an integer to a float (R79, R82, R218). -/

namespace Sys2Proof.Machine

/-! ### The result of `fcvt` by its formats -/

theorem fcvtRes_floats {m dst src : BitVec 3} {fd fs : FFmt} (hd : cvtFmt dst = some fd) (hs : cvtFmt src = some fs) (x : DWord) :
    fcvtRes m dst src x = (BitVec.ofNat 64 (fconv fd false m.toNat 0 (fs.val (x.toNat % 2 ^ fs.width))).1,
      (fconv fd false m.toNat 0 (fs.val (x.toNat % 2 ^ fs.width))).2) := by
  unfold fcvtRes
  rw [hs, hd]

/-- The code of an integer format by its width. -/
def intCode (w : Nat) : BitVec 3 := if w = 32 then 7 else 6

theorem fcvtRes_ofInt {m dst : BitVec 3} {fd : FFmt} (hd : cvtFmt dst = some fd) {w : Nat} (hw : w = 32 ∨ w = 64) (x : DWord) :
    fcvtRes m dst (intCode w) x = (BitVec.ofNat 64 (fOfInt fd m.toNat 0 (x.setWidth w).toInt).1,
      (fOfInt fd m.toNat 0 (x.setWidth w).toInt).2) := by
  unfold fcvtRes
  rcases hw with rfl | rfl
  · rw [show cvtFmt (intCode 32) = none from rfl, hd, ← BitVec.ofNat_toNat, ← toS_eq_toInt (by decide)]
    rfl
  · rw [show cvtFmt (intCode 64) = none from rfl, hd, BitVec.setWidth_eq]
    rfl

theorem fcvtRes_toInt {m src : BitVec 3} {fs : FFmt} (hs : cvtFmt src = some fs) {w : Nat} (hw : w = 32 ∨ w = 64) (x : DWord) :
    fcvtRes m (intCode w) src x = (BitVec.ofInt 64 (toS w (fToInt w true m.toNat 0 (fs.val (x.toNat % 2 ^ fs.width))).1),
      (fToInt w true m.toNat 0 (fs.val (x.toNat % 2 ^ fs.width))).2) := by
  unfold fcvtRes
  rw [hs]
  rcases hw with rfl | rfl
  · rfl
  · rfl

/-! ### Conversions to a float -/

/-- What becomes of an infinity: that of the target, or what R79 puts in its place. -/
def infinityResult (dst : BitVec 3) (sign top : Nat) : Option Nat → DWord × Flags
  | some i => (BitVec.ofNat 64 (sign + i), 0)
  | none => (BitVec.ofNat 64 (if dst = 4 then 0x7F else sign + top), fNV)

section
variable {dst : BitVec 3} {fd : FFmt} {top nan : Nat} {inf : Option Nat} (row : FormatRow dst fd top inf nan)
include row

theorem inf_getD : inf.getD fd.maxCode = if fd.style = 0 then fd.infCode else fd.maxCode := by
  rw [row.inf]
  split <;> rfl

theorem inf_lt : inf.getD fd.maxCode < 2 ^ (fd.eb + fd.mb) := by
  rw [inf_getD row]
  split
  · rw [FFmt.infCode, Nat.pow_add]
    exact Nat.mul_lt_mul_of_pos_right (Nat.sub_lt (Nat.two_pow_pos _) Nat.one_pos) (Nat.two_pow_pos _)
  · exact row.ok.top_below

/-- The result of a conversion fits a register. -/
theorem converts_toNat {mode : Nat} {u S : Int} {r : Nat × Flags} (h : Tables.Converts fd fd.maxCode inf mode u S r) :
    (BitVec.ofNat 64 r.1).toNat = r.1 := by
  have fits : r.1 < 2 ^ fd.width := by
    have inf_lt := inf_lt row
    have top_lt := row.ok.top_below
    have double : 2 ^ fd.width = 2 ^ (fd.eb + fd.mb) + 2 ^ (fd.eb + fd.mb) := by
      rw [FFmt.width, Nat.add_assoc, Nat.add_comm, Nat.pow_succ, Nat.mul_two]
    rcases (Classical.em _).imp h.1 h.2 with past | ⟨inside, -⟩
    · rw [past, double]
      dsimp only
      split <;> split <;> omega
    · exact inside
  rw [BitVec.toNat_ofNat, Nat.mod_eq_of_lt (fits.trans_le (Nat.pow_le_pow_right Nat.two_pos (row.width.trans (by decide))))]

/-- An exact value in units of 2^-149 is converted with one rounding. -/
theorem converts_register {mode : Nat} (hmode : mode < 4) (neg : Bool) {m : Nat} (hm : m ≠ 0) {e : Int} {k : Nat} (units : (k : Int) = e + 149) :
    Tables.Converts fd top inf mode 1 (fvSignedInt neg (m * 2 ^ k))
      ((BitVec.ofNat 64 (fconv fd false mode 0 (.fin neg m e)).1).toNat, (fconv fd false mode 0 (.fin neg m e)).2) := by
  have rounded := converts_fconv row.ok hmode neg hm (e := e) (L := 0) (k := k) (by omega) (inf_getD row)
  rw [converts_toNat row rounded, row.top]
  exact rounded

theorem fconv_infinite (mode : Nat) (neg : Bool) :
    (BitVec.ofNat 64 (fconv fd false mode 0 (.inf neg)).1, (fconv fd false mode 0 (.inf neg)).2) =
      infinityResult dst (fd.signBit neg) top inf := by
  rw [row.inf, row.top]
  unfold fconv
  dsimp only
  by_cases zero : fd.style = 0
  · rw [if_pos zero, if_pos ⟨zero, rfl⟩]
    rfl
  · rw [if_neg zero, if_neg fun both => zero both.1]
    by_cases one : fd.style = 1
    · rw [if_pos ⟨one, rfl⟩, row.e4m3_nan one, infinityResult, if_pos (row.e4m3.1 one)]
    · rw [if_neg fun both => one both.1, infinityResult, if_neg (mt row.e4m3.2 one)]

end

theorem floatToFloat {dst src : BitVec 3} {fd fs : FFmt} {top lim nan nan' : Nat} {inf inf' : Option Nat}
    (row : FormatRow dst fd top inf nan) (from_ : FormatRow src fs lim inf' nan') {m : BitVec 3} (hm : m.toNat < 4) (x : DWord) :
    let v := x.toNat % 2 ^ fs.width
    let sign := if Tables.negative fs v then 2 ^ (fd.eb + fd.mb) else 0
    let r := fcvtRes m dst src x
    let S := Tables.units fs v
    (Tables.mag fs v ≤ lim → S ≠ 0 → Tables.Converts fd top inf m.toNat 1 S (r.1.toNat, r.2)) ∧
    (Tables.mag fs v = 0 → r = (BitVec.ofNat 64 sign, 0)) ∧
    (lim < Tables.mag fs v → inf' ≠ some (Tables.mag fs v) → r = (BitVec.ofNat 64 nan, fNV)) ∧
    (inf' = some (Tables.mag fs v) → r = infinityResult dst sign top inf) := by
  dsimp only
  rw [fcvtRes_floats row.code from_.code, from_.top]
  dsimp only
  generalize x.toNat % 2 ^ fs.width = v
  refine ⟨fun finite nonzero => ?_, fun zero => ?_, fun past notInf => ?_, fun infinite => ?_⟩
  · obtain ⟨n, e, k, val, exp, -, units⟩ := val_finite from_.ok finite
    have hn : n ≠ 0 := by
      rintro rfl
      exact nonzero (by rw [units, Nat.zero_mul, signed_zero_iff])
    rw [val, units]
    exact converts_register row hm _ hn exp
  · obtain ⟨n, e, k, val, -, grid, -⟩ := val_finite from_.ok (zero.trans_le (Nat.zero_le _))
    rw [val, (significand_zero_iff grid).2 zero]
    rfl
  · rw [val_nan past fun style => ?_, row.nan]
    · rfl
    · intro same
      exact notInf (by rw [from_.inf, if_pos style, same])
  · rw [from_.inf] at infinite
    split at infinite
    · next style =>
      rw [val_infinite style (Option.some.inj infinite).symm]
      exact fconv_infinite row m.toNat _
    · cases infinite

end Sys2Proof.Machine
end

section
/-! SUPPORT. `fcvt` from and to the integer formats (R74, R81, R82, R218). -/

namespace Sys2Proof.Machine

/-! ### From an integer (R82) -/

theorem intToFloat {dst : BitVec 3} {fd : FFmt} {top nan : Nat} {inf : Option Nat} (row : FormatRow dst fd top inf nan) {m : BitVec 3}
    (hm : m.toNat < 4) {w : Nat} (hw : w = 32 ∨ w = 64) (x : DWord) :
    let i : Int := (x.setWidth w).toInt
    let r := fcvtRes m dst (intCode w) x
    (i ≠ 0 → Tables.Converts fd top inf m.toNat 1 (i * 2 ^ 149) (r.1.toNat, r.2)) ∧ (i = 0 → r = (0, 0)) := by
  dsimp only
  rw [fcvtRes_ofInt row.code hw]
  generalize (x.setWidth w).toInt = i
  refine ⟨fun nonzero => ?_, fun zero => ?_⟩
  · have value : i * 2 ^ 149 = fvSignedInt (decide (i < 0)) (i.natAbs * 2 ^ 149) := by
      rw [← signed_mul, signed_natAbs]
      rfl
    rw [value]
    exact converts_register row hm _ (Int.natAbs_ne_zero.2 nonzero) (e := 0) rfl
  · subst zero
    rfl

/-! ### To an integer (R81) -/

/-- The integers of a signed format of `w` bits are those its codes stand for. -/
theorem toS_ofS {w : Nat} (hw : w = 32 ∨ w = 64) {i : Int} (lower : -2 ^ (w - 1) ≤ i) (upper : i ≤ 2 ^ (w - 1) - 1) :
    toS w (ofS w i) = i := by
  unfold toS ofS
  rcases hw with rfl | rfl
  · simp only [Nat.reducePow, Nat.reduceSub, Int.reducePow] at *
    split <;> omega
  · simp only [Nat.reducePow, Nat.reduceSub, Int.reducePow] at *
    split <;> omega

/-- The whole part and the rest of a signed value, in terms of its magnitude. -/
theorem signed_divMod (neg : Bool) (M : Nat) :
    (fvSignedInt neg M / 2 ^ 149 = if neg = true ∧ M % 2 ^ 149 ≠ 0 then fvSignedInt neg (M / 2 ^ 149) - 1 else fvSignedInt neg (M / 2 ^ 149)) ∧
    (fvSignedInt neg M % 2 ^ 149 = if neg = true ∧ M % 2 ^ 149 ≠ 0 then (2 ^ 149 - ((M % 2 ^ 149 : Nat) : Int) : Int) else ((M % 2 ^ 149 : Nat) : Int)) := by
  cases neg
  · simp [fvSignedInt]
  · simp only [fvSignedInt, if_true, true_and]
    split <;> omega

/-- A magnitude rounded to an integer is, with its sign, the integer that R81 asks for: below a negative value that is no integer lies
the quotient after that of its magnitude, so that up and down change places, and a tie goes to the even one of the same two. -/
theorem signed_steps_eq {mode : Nat} (hmode : mode < 4) (neg : Bool) {M k : Nat}
    (step : Steps (magDir mode neg) (M / 2 ^ 149) (M % 2 ^ 149) (2 ^ 149) k) :
    fvSignedInt neg k = Tables.toInteger mode (fvSignedInt neg M) := by
  obtain ⟨quotient, rest⟩ := signed_divMod neg M
  have small := Nat.mod_lt M (Nat.two_pow_pos 149)
  have sign : M % 2 ^ 149 ≠ 0 → (fvSignedInt neg M < 0 ↔ neg = true) := fun some => signed_neg_iff fun zero => some (by rw [zero, Nat.zero_mod])
  unfold Tables.toInteger
  dsimp only
  rw [quotient, rest]
  generalize M % 2 ^ 149 = r at *
  generalize M / 2 ^ 149 = q at *
  by_cases exact_ : r = 0
  · have same : k = q := by
      rcases step with ⟨up, -⟩ | ⟨-, same⟩
      · cases h : magDir mode neg <;> simp [h, MagDir.goesUp, exact_] at up
      · exact same
    subst exact_ same
    match mode, hmode with
    | 0, _ => simp
    | 1, _ => simp
    | 2, _ => simp
    | 3, _ => simp
  · have sign := sign exact_
    simp only [Steps] at step
    match mode, hmode with
    | 0, _ => cases neg <;> simp [magDir, MagDir.goesUp, fvSignedInt, exact_] at step ⊢ <;> split <;> omega
    | 1, _ => cases neg <;> simp [magDir, MagDir.goesUp, fvSignedInt, exact_] at sign step ⊢ <;> omega
    | 2, _ => cases neg <;> simp [magDir, MagDir.goesUp, fvSignedInt, exact_] at step ⊢ <;> omega
    | 3, _ => cases neg <;> simp [magDir, MagDir.goesUp, fvSignedInt, exact_] at step ⊢ <;> omega

theorem satInt_bounds {lo hi : Int} (le : lo ≤ hi) (i : Int) : lo ≤ satInt i lo hi ∧ satInt i lo hi ≤ hi := by
  unfold satInt
  split
  · omega
  · split <;> omega

/-- A finite value becomes the integer nearest under the mode, saturated with `nv` (R81). -/
theorem fToInt_finite {mode : Nat} (hmode : mode < 4) (neg : Bool) (m : Nat) {e : Int} {k : Nat} (units : (k : Int) = e + 149)
    {w : Nat} (hw : w = 32 ∨ w = 64) :
    let S := fvSignedInt neg (m * 2 ^ k)
    let j := Tables.toInteger mode S
    let lo : Int := -2 ^ (w - 1)
    let hi : Int := 2 ^ (w - 1) - 1
    let t := fToInt w true mode 0 (.fin neg m e)
    (BitVec.ofInt 64 (toS w t.1), t.2) = if j < lo then (BitVec.ofInt 64 lo, fNV) else if hi < j then (BitVec.ofInt 64 hi, fNV)
      else (BitVec.ofInt 64 j, if S % 2 ^ 149 = 0 then 0 else fNX) := by
  have den := ratOf_den_pos m e
  have ratio := ratOf_ratio m e (i := 149) (j := k) (by omega)
  have rounded := signed_steps_eq hmode neg (steps_of_ratio ratio den (Nat.two_pow_pos 149) (steps_rndInt hmode neg 0 den))
  have whole : (ratOf m e).num % (ratOf m e).den = 0 ↔ fvSignedInt neg (m * 2 ^ k) % 2 ^ 149 = 0 := by
    rw [mod_zero_of_ratio ratio den (Nat.two_pow_pos 149), (signed_divMod neg _).2]
    have := Nat.mod_lt (m * 2 ^ k) (Nat.two_pow_pos 149)
    split <;> omega
  have lo : intLo w true = -2 ^ (w - 1) := by rw [intLo, if_pos rfl]; push_cast; rfl
  have hi : intHi w true = 2 ^ (w - 1) - 1 := by rw [intHi, if_pos rfl]; push_cast; rfl
  have le : (-2 ^ (w - 1) : Int) ≤ 2 ^ (w - 1) - 1 := by rcases hw with rfl | rfl <;> decide
  dsimp only
  rw [← rounded]
  unfold fToInt
  dsimp only
  rw [lo, hi]
  generalize fvSignedInt neg (rndInt mode neg 0 (ratOf m e).num (ratOf m e).den) = i
  obtain ⟨lower, upper⟩ := satInt_bounds le i
  rw [toS_ofS hw lower upper]
  by_cases low : i < -2 ^ (w - 1)
  · have : satInt i (-2 ^ (w - 1)) (2 ^ (w - 1) - 1) = -2 ^ (w - 1) := if_pos low
    rw [if_pos low, this, if_pos low.ne']
  · by_cases high : 2 ^ (w - 1) - 1 < i
    · have : satInt i (-2 ^ (w - 1)) (2 ^ (w - 1) - 1) = 2 ^ (w - 1) - 1 := (if_neg low).trans (if_pos high)
      rw [if_neg low, if_pos high, this, if_pos high.ne]
    · have : satInt i (-2 ^ (w - 1)) (2 ^ (w - 1) - 1) = i := (if_neg low).trans (if_neg high)
      rw [if_neg low, if_neg high, this, if_neg (not_not.2 rfl)]
      by_cases exact_ : (ratOf m e).num % (ratOf m e).den = 0
      · rw [if_neg (not_not.2 exact_), if_pos (whole.1 exact_)]
      · rw [if_pos exact_, if_neg (mt whole.2 exact_)]

theorem fToInt_infinite (mode : Nat) (neg : Bool) {w : Nat} (hw : w = 32 ∨ w = 64) :
    (BitVec.ofInt 64 (toS w (fToInt w true mode 0 (.inf neg)).1), (fToInt w true mode 0 (.inf neg)).2) =
      (BitVec.ofInt 64 (if neg = true then -2 ^ (w - 1) else 2 ^ (w - 1) - 1), fNV) := by
  rcases hw with rfl | rfl <;> cases neg <;> rfl

theorem floatToInt {src : BitVec 3} {fs : FFmt} {lim nan : Nat} {inf : Option Nat} (row : FormatRow src fs lim inf nan) {m : BitVec 3}
    (hm : m.toNat < 4) {w : Nat} (hw : w = 32 ∨ w = 64) (x : DWord) :
    let lo : Int := -2 ^ (w - 1)
    let hi : Int := 2 ^ (w - 1) - 1
    let t := fcvtRes m (intCode w) src x
    let v := x.toNat % 2 ^ fs.width
    let S := Tables.units fs v
    let j := Tables.toInteger m.toNat S
    (Tables.mag fs v ≤ lim → t = if j < lo then (BitVec.ofInt 64 lo, fNV) else if hi < j then (BitVec.ofInt 64 hi, fNV)
      else (BitVec.ofInt 64 j, if S % 2 ^ 149 = 0 then 0 else fNX)) ∧
    (lim < Tables.mag fs v → inf ≠ some (Tables.mag fs v) → t = (0, fNV)) ∧
    (inf = some (Tables.mag fs v) → (Tables.negative fs v = true → t = (BitVec.ofInt 64 lo, fNV)) ∧
      (Tables.negative fs v = false → t = (BitVec.ofInt 64 hi, fNV))) := by
  dsimp only
  rw [fcvtRes_toInt row.code hw, row.top]
  generalize x.toNat % 2 ^ fs.width = v
  refine ⟨fun finite => ?_, fun past notInf => ?_, fun infinite => ?_⟩
  · obtain ⟨n, e, k, val, exp, -, units⟩ := val_finite row.ok finite
    rw [val, units]
    exact fToInt_finite hm _ n exp hw
  · rw [val_nan past fun style same => notInf (by rw [row.inf, if_pos style, same])]
    rcases hw with rfl | rfl <;> rfl
  · rw [row.inf] at infinite
    split at infinite
    · next style =>
      rw [val_infinite style (Option.some.inj infinite).symm, fToInt_infinite m.toNat _ hw]
      exact ⟨fun (neg : fs.neg v = true) => by rw [neg]; rfl, fun (pos : fs.neg v = false) => by rw [pos]; rfl⟩
    · cases infinite

/-! ### Between the integer formats (R74) -/

theorem intToInt (m : BitVec 3) (x : DWord) :
    fcvtRes m 6 6 x = (x, 0) ∧ fcvtRes m 6 7 x = ((x.setWidth 32).signExtend 64, 0) ∧
    fcvtRes m 7 7 x = ((x.setWidth 32).signExtend 64, 0) ∧
    fcvtRes m 7 6 x = if x.toInt < -2 ^ 31 then (BitVec.ofInt 64 (-2 ^ 31), fNV)
      else if 2 ^ 31 ≤ x.toInt then (BitVec.ofInt 64 (2 ^ 31 - 1), fNV) else (x, 0) := by
  have low : toS 32 x.toNat = (x.setWidth 32).toInt := by rw [toS_eq_toInt (by decide), BitVec.ofNat_toNat]
  have lower := BitVec.le_toInt (x.setWidth 32)
  have upper := BitVec.toInt_lt (x := x.setWidth 32)
  refine ⟨?_, ?_, ?_, ?_⟩
  · show (BitVec.ofInt 64 x.toInt, 0) = _
    rw [BitVec.ofInt_toInt]
  · show (BitVec.ofInt 64 (toS 32 x.toNat), 0) = _
    rw [low]
    rfl
  · show (BitVec.ofInt 64 (satInt (toS 32 x.toNat) (-2 ^ 31) (2 ^ 31 - 1)), flagIf (satInt (toS 32 x.toNat) (-2 ^ 31) (2 ^ 31 - 1) ≠ toS 32 x.toNat) fNV) = _
    have : satInt (toS 32 x.toNat) (-2 ^ 31) (2 ^ 31 - 1) = (x.setWidth 32).toInt := by
      rw [low]
      exact (if_neg (by omega)).trans (if_neg (by omega))
    rw [this, low, decide_eq_false (not_not.2 rfl)]
    rfl
  · show (BitVec.ofInt 64 (satInt x.toInt (-2 ^ 31) (2 ^ 31 - 1)), flagIf (satInt x.toInt (-2 ^ 31) (2 ^ 31 - 1) ≠ x.toInt) fNV) = _
    unfold satInt
    split
    · next below => rw [decide_eq_true below.ne']; rfl
    · split
      · next above => rw [if_pos (by omega), decide_eq_true above.ne]; rfl
      · next inside => rw [if_neg (by omega), decide_eq_false (not_not.2 rfl), BitVec.ofInt_toInt]; rfl

theorem floatConversions : Parts.FloatConversions := by
  intro x m hm
  refine ⟨fun p hp q hq => ?_, fun p hp w hw => ?_, intToInt m x⟩
  · obtain ⟨toTarget, toZero, toNan, toInf⟩ := floatToFloat (formats_row p hp) (formats_row q hq) hm x
    exact ⟨toTarget, toZero, toNan, toInf⟩
  · obtain ⟨rounded, zero⟩ := intToFloat (formats_row p hp) hm hw x
    obtain ⟨finite, nan, infinite⟩ := floatToInt (formats_row p hp) hm hw x
    exact ⟨rounded, zero, finite, nan, infinite⟩

/-- Settles O13: every finite code is a value of a grid that rises, `roundMag` rounds an exact magnitude to that grid, and sums,
products and conversions are one such rounding of their exact value. -/
theorem scalarFloat : Obligations.ScalarFloat := ⟨floatResults, floatExact, floatSums, floatMinMax, floatConversions⟩

end Sys2Proof.Machine
end
